-- ==== Sys2Proof/Word.lean ====
section
/-!
DEFINITION. The words of the machine (R4, R188): bytes, half words, 32-bit and 64-bit words, vectors of 512 bits,
and the register numbers of an instruction.
-/
namespace Sys2Proof

/-- A byte of memory. -/
abbrev Byte := BitVec 8
/-- A 32-bit word: an instruction word (R188), a constant-bank entry (R146), a binary32 encoding. -/
abbrev Word32 := BitVec 32
/-- A 64-bit word: a scalar register or a control register (R144, R152). -/
abbrev Word := BitVec 64
/-- A vector register: 512 bits (R147). -/
abbrev Vec := BitVec 512
/-- A tile command: 256 bits (R196). -/
abbrev Cmd := BitVec 256
/-- The number of a scalar, vector or constant-bank register (R189). -/
abbrev Reg := BitVec 5
/-- The number of a predicate register (R145). -/
abbrev PReg := BitVec 3

end Sys2Proof
end

