-- ==== Sys2Proof/Config.lean ====
section
/-!
DEFINITION. What one implementation fixes and the spec leaves open: the free values (constants with no body, so no
proof can see what they are) and the sizes of the module (R17).
-/
namespace Sys2Proof.Config

/-- Core cycles beyond one that the `n`-th step of the machine takes (log 5): R474 and R234 call every latency typical. -/
opaque freeTime : Nat → Nat

/-- The promise of ctl.xprom for the `n`-th command (R95): an estimate whose rule the spec does not give. DESIGN CHOICE (log 68). -/
opaque promise : Nat → BitVec 64

/-- How many messages to one node may be unacknowledged before MC0 holds back the next one (R53, R253), less one.
DESIGN CHOICE (log 27). -/
opaque window : Nat

/-- Bytes that the spec calls unspecified or of no stated layout (R89, R137): byte `i` of the `n`-th such block. DEDUCED (log 22).
DESIGN CHOICE (log 38). -/
opaque freeByte : Nat → Nat → BitVec 8

/-- The message that the 64 bytes of a spill entry stand for once a store has changed them (R137): the layout is not stated. DEDUCED (log 22). -/
opaque spilledAs : List (BitVec 8) → BitVec 512

/-- SHA-384 of a list of bytes (R466, R469), as a number below 2^384. DESIGN CHOICE (log 9). -/
opaque sha384 : List (BitVec 8) → BitVec 384

/-- ECDSA verification with the root key on brainpoolP384r1 (R466): digest, r, s. DESIGN CHOICE (log 9). -/
opaque rootVerify : BitVec 384 → BitVec 384 → BitVec 384 → Bool

/-- The signature r, s by the identity key over a digest (R469), for the `n`-th report. DESIGN CHOICE (log 9). -/
opaque identitySign : Nat → BitVec 384 → BitVec 768

/-- The ROM measurement M0 (R469). DESIGN CHOICE (log 9). -/
opaque romMeasurement : BitVec 384

/-- The serial number of the module (R469). DESIGN CHOICE (log 9). -/
opaque serialNumber : BitVec 64

/-- The certificate of R468: its length in bytes and its bytes. DESIGN CHOICE (log 9). -/
opaque certLen : BitVec 12
opaque certByte : Nat → BitVec 8

/-- The security version held in the one-way fuses at reset (R463). DESIGN CHOICE (log 64). -/
opaque fusedSvn : BitVec 8

/-- The KIND code of the `n`-th message kind of a class (R54): the spec gives the field and no codes. DESIGN CHOICE (log 8). -/
opaque kindCode : Nat → Nat → BitVec 4

/-- The free flits of a class's buffer at the far end of a link that has come up (R53), less the 17 of one packet. DESIGN CHOICE (log 16). -/
opaque credits : Nat → Nat

/-- Whether byte `i` of the `n`-th push that is being written is already written (R117): the mix is unspecified. DESIGN CHOICE (log 71). -/
opaque mixed : Nat → Nat → Bool

/-- Whether the `n`-th packet routed adaptively crossed a link that lies on a shortest way to its destination (R60, R82). DEDUCED (log 15). -/
opaque crossed : Nat → Bool

/-- Whether a host-memory access of the `n`-th step uses the old window base, where firmware has changed it while a launch was on the
module (R452: which one, is not stated). DESIGN CHOICE (log 70). -/
opaque oldBase : Nat → Bool

/-- The cluster, modulo 96, whose gather engine reads the rows of the `n`-th remote gather (R120). DEDUCED (log 37). -/
opaque gatherer : Nat → Nat

/-- The place that a full translation cache gives up, of the `n`-th entry put into it (R45). DESIGN CHOICE (log 72). -/
opaque victim : Nat → Nat

/-- The unit that the `n`-th page-table walk serves, modulo 4: instructions, data, a copy engine, or none but the cluster (R45).
DESIGN CHOICE (log 72). -/
opaque walkUnit : Nat → Nat

/-- The set of a cache that holds a page, by cache kind and page number (R45: the organisation is given, the index is not).
DESIGN CHOICE (log 72). -/
opaque cacheSet : Nat → Nat → Nat

/-- The CAUSE of the fault of a forwarded part that can never be placed (R389): the spec names no code for it. DESIGN CHOICE (log 34). -/
opaque placeFault : Nat → Nat

/-- Dies of the module (R17). -/
def dies : Nat := 4
/-- Clusters of a die (R17). -/
def clustersPerDie : Nat := 24
/-- Clusters of the module (R17). -/
def clusters : Nat := 96
/-- Cores of a cluster (R17). -/
def coresPerCluster : Nat := 48
/-- Cores of the module (R17). -/
def cores : Nat := 4608
/-- Octets of the module (R17). -/
def octets : Nat := 576
/-- Contexts of a core (R141). -/
def contexts : Nat := 11
/-- Bytes of a slice (R126). -/
def sliceBytes : Nat := 2 ^ 18
/-- Bytes of the local DRAM (R27). -/
def dramBytes : Nat := 2 ^ 39

end Sys2Proof.Config
end

