-- ==== Sys2Proof/Machine/Kinds.lean ====
section
/-!
DEFINITION. The enumerations that instructions, registers and packets use: each is a fixed set of names of the spec.
-/
namespace Sys2Proof

/-- The scope of an ordered access or of a barrier (R191); code 7 is reserved. -/
inductive Scope where
  | ctx | core | oct | clus | die | mod | job
  deriving DecidableEq, Repr

/-- The size of an ordered access (R191): 1, 2, 4 or 8 bytes. -/
inductive Size where
  | b1 | b2 | b4 | b8
  deriving DecidableEq, Repr

/-- The bytes of an access size (R191). -/
def sizeBytes : Size → Nat
  | .b1 => 1 | .b2 => 2 | .b4 => 4 | .b8 => 8

/-- The operations of AMO (R192, R239); codes 0xB-0xF are reserved. -/
inductive AmoOp where
  | add | and | or | xor | min | max | minu | maxu | swap | fadd | fmax
  deriving DecidableEq, Repr

/-- The format of a scalar float operation (R164). -/
inductive FFmt where
  | f32 | f64
  deriving DecidableEq, Repr

/-- The rounding field of a scalar float operation (R164); codes 5 and 6 are reserved. -/
inductive RSel where
  | rne | rtz | rup | rdn | rna | dyn
  deriving DecidableEq, Repr

/-- The integer type of FCVTFI and FCVTIF (R215). -/
inductive IntTy where
  | i32 | i64 | n32 | n64
  deriving DecidableEq, Repr

/-- The rounding source of a vector instruction (R164): dynamic, RNE, RTZ, stochastic. -/
inductive XMode where
  | dyn | rne | rtz | sr
  deriving DecidableEq, Repr

/-- The b operand of format V (R189): a vector register, a constant-bank entry, a trailing literal, a scalar. -/
inductive BSrc where
  | vreg (b : Reg)
  | bank (b : Reg)
  | lit (w : Word32)
  | scal (b : Reg)
  deriving DecidableEq, Repr

/-- The element types of ctl.vfmt (R162). -/
inductive ETy where
  | i8 | i16 | i32 | n8 | n16 | n32 | fp32 | bf16 | fp16 | e4m3 | e5m2
  deriving DecidableEq, Repr

/-- The four engines of a core's queues (R85). -/
inductive Engine where
  | mxu | cpe | gte | cre
  deriving DecidableEq, Repr

/-- The ends of the neighbour queues that QBIND names (R249): dequeue own L, own H, enqueue L of core n+1, H of core n-1. -/
inductive QEnd where
  | dl | dh | el | eh
  deriving DecidableEq, Repr

/-- The sub-causes of the illegal-instruction trap (R424). -/
inductive IllSub where
  | hole | zeroWord | reserved | illType | illCommand
  deriving DecidableEq, Repr

/-- The code of a sub-cause of the illegal-instruction trap (R424). -/
def illSubCode : IllSub → Nat
  | .hole => 1 | .zeroWord => 2 | .reserved => 3 | .illType => 4 | .illCommand => 5

/-- What the patrol scrubber finds in a granule (R140). -/
inductive EccFind where
  | clean | single | double
  deriving DecidableEq, Repr

/-- The state of a region token (R69, R77). -/
inductive TokSt where
  | none | dup | excl
  deriving DecidableEq, Repr

/-- The token instructions that send a request to the home (R78). -/
inductive TokOp where
  | acq | dup | rel | split | merge
  deriving DecidableEq, Repr

/-- The kind of a memory access (R43, R71). -/
inductive AccKind where
  | load | store | fetch | amo | engRead | engWrite
  deriving DecidableEq, Repr

/-- The rounding modes of R163, with stochastic rounding (R179). -/
inductive RMode where
  | rne | rtz | rup | rdn | rna | sr
  deriving DecidableEq, Repr

/-- Where a soft error lies (R29, R139, R299, R432): a unit of memory by its first cell, a pair of accumulator elements by octet, bank
and number, the registers of a context, the queues and shadow sets of a core's engine, the event heap of a crossing engine. -/
inductive EccSite where
  | mem (cell : Nat)
  | acc (oct : Nat) (bank : Nat) (pair : Nat)
  | ctx (x : Nat)
  | engine (core : Nat) (e : Engine)
  | heap (clus : Nat)
  deriving DecidableEq, Repr

/-- A link flit as its receiver meets it (R53): whether its CRC holds, its sequence number, the last sequence number it acknowledges,
whether it asks for a replay of the next one, and the credits it returns for the six classes. -/
structure LinkFlit where
  good : Bool
  seq  : BitVec 12
  ack  : BitVec 12
  nak  : Bool
  cred : List Nat
  deriving DecidableEq, Repr

end Sys2Proof
end

