-- ==== Sys2Proof/Machine/Packet.lean ====
section
/-!
DEFINITION. Packets (R54, R61): the header fields that R54 gives, and a typed body for what each message carries
(log 8: the spec gives no layout of a body).
-/
namespace Sys2Proof

/-- Why a helper is started: for a woken dependant of a set (its engine, its bead, the time), for a spike of a step of a group, or
otherwise (R349, R371). -/
inductive Origin where
  | plain
  | bead (clus : Nat) (ix : Nat) (t : Nat)
  | spike (group : List Nat) (step : Nat)
  deriving DecidableEq, Repr

/-- An active message (R252). `job` is the job of the sender's launch, which R254 compares; `origin` what the device
made it for. -/
structure Msg where
  cls  : Nat
  rel  : Bool
  spilled : Bool
  src  : Word
  a0 : Word
  a1 : Word
  a2 : Word
  a3 : Word
  job  : Nat
  origin : Origin := .plain
  deriving DecidableEq, Repr

/-- What a remote access does at the module that performs it (R65, R71): its bytes by DRAM offset or, for a NONE-state access, by
virtual address, and whether its leaf is ordered (OB). Its data, which travel beside it on MC1, are empty in a request. `amo` is the
operation of AMO; `cas` is compared by CAS. -/
structure FarAcc where
  kind : AccKind
  addrs : List Nat
  data : List Byte
  cas  : Option (List Byte)
  amo  : Option AmoOp
  ob   : Bool := false
  deriving DecidableEq, Repr

/-- The answer of a remote access, by place in its list of bytes: bytes read (any byte, for one written), or why no byte was
accessed: the token trap, a protection violation (R71), an uncorrectable error (R139), a
holder that is lost (R84); `held` says that a store over several tokens has been checked at this home, which keeps its place (R13, R71). -/
inductive FarAns where
  | bytes (bs : List (Nat × Byte))
  | held
  | trap (i : Nat)
  | prot (i : Nat)
  | ecc (i : Nat)
  | lost (i : Nat)
  deriving DecidableEq, Repr

/-- A first fault as the completion record reports it (R394, R428). -/
structure FaultRec where
  core : Nat
  ctx  : Nat
  cause : Nat
  fva  : Word
  time : Nat
  deriving DecidableEq, Repr

/-- A booking answered or cancelled: the booking id word of R111. -/
abbrev BookId := Word

/-- The proposal of an engine to the root of its group (R351, R352), after `seq` sets of the run. -/
structure Proposal where
  eng   : Nat
  seq   : Nat
  least : Nat
  paused : Bool
  tend  : Nat
  stop  : Bool
  deriving DecidableEq, Repr

/-- What a packet carries. -/
inductive Body where
  /-- MC0: an active message to a core, or with STAGE to a launch stage (R253). -/
  | msg (m : Msg)
  /-- MC0: a launch record and its handler image forwarded by the root (R389). -/
  | launchPart (key : Nat) (rec : List Word) (image : List Word) (root : Nat) (rank : Nat) (time : Nat)
  /-- MC0: a part has ended (R393, R430), with its faults, the times of its first instruction and of its end. -/
  | partEnd (key : Nat) (fcnt : Nat) (first : Option FaultRec) (tstart : Nat) (tend : Nat)
  /-- MC0: every part has ended (R393): the part frees what it holds, and says so; with `last`, the record and the signal are out. -/
  | launchEnd (key : Nat) (last : Bool)
  | partFreed (key : Nat)
  /-- MC0: a QRUN of a launch begins or ends at another of its modules (R441). -/
  | qrunNote (key : Nat) (on : Bool)
  /-- MC0: a fault notice to the root, or from it to a part (R430). -/
  | faultNotice (key : Nat) (f : FaultRec)
  /-- MC0: a step of a pre-emption of a launch of several modules, ordered or ended (R433). -/
  | preempt (key : Nat) (step : Nat) (done : Bool)
  /-- MC0: an arrival at a job-scope barrier, or a reading of it (count 0), by a context from a start; what BAR writes there and the
  generation then; a new generation told (R259, R260). -/
  | barArrive (key : Nat) (id : Nat) (count : Nat) (ctx : Nat) (start : Nat)
  | barAns (key : Nat) (id : Nat) (ctx : Nat) (start : Nat) (word : Nat) (gen : Nat)
  | barGen (key : Nat) (id : Nat) (gen : Nat)
  /-- MC1: bytes pushed for one peg of a booking, by offset in the pitch (R63, R114): the core and the transfer, the launch that pushes,
  the bytes of the peg and of the whole transfer, whether the peg is to arrive with them (R121), whether they have begun to be written
  (R117). -/
  | pushPeg (core : Nat) (tag : Nat) (launch : Option Nat) (book : BookId) (peg : Nat) (part : Nat) (total : Nat) (arrive : Bool)
      (begun : Bool) (cells : List (Nat × Byte))
  /-- MC1: bytes pushed outside a pitch, by DRAM offset (R63, R103), from place `first` of their transfer on; the last packet of a
  transfer says how many bytes it has, the others zero. -/
  | pushMem (core : Nat) (tag : Nat) (launch : Option Nat) (total : Nat) (first : Nat) (cells : List (Nat × Byte))
  /-- MC1, ordered: a remote-index gather (R120): indices from place `first` on, of `nidx`. -/
  | grem (core : Nat) (uid : Nat) (launch : Option Nat) (nidx : Nat) (first : Nat) (idx : List Nat) (base : Nat) (lo : Nat) (hi : Nat)
      (row : Nat) (rstr : Nat) (book : BookId) (ord : Bool)
  /-- MC1: the data of a store, AMO or CAS of node `node`, which its request on MC3 joins (R61, R65, R71). -/
  | accData (node : Nat) (tag : Nat) (data : List Byte) (cas : Option (List Byte))
  /-- MC1, ordered: a part of the copy that a grant brings (R74), by virtual address. -/
  | grantCopy (base : Nat) (tag : Nat) (cells : List (Nat × Byte))
  /-- MC2: the completion notice of a transfer (R63), with the launch that it serves, its status and bytes, and the place of the byte
  that met an error; and that of a remote gather, with the pegs it pushed whole (R121). -/
  | done (core : Nat) (tag : Nat) (launch : Option Nat) (status : Nat) (bytes : Nat) (place : Nat)
  | gremDone (core : Nat) (uid : Nat) (launch : Option Nat) (status : Nat) (bytes : Nat) (place : Nat) (pegs : List Nat)
  /-- MC2: a link-down notice: the two nodes and the dimension of the link (R82). -/
  | linkDown (a : Nat) (b : Nat) (dim : Nat)
  /-- MC2: a debug-hold notice, or its end (R445, R446), with the launch whose core is halted (R433). -/
  | debugHold (job : Nat) (launch : Nat) (on : Bool)
  /-- MC3: a direct peer access and the acknowledgement of a store; MC1: the answer of another access (R65). -/
  | peerReq (tag : Nat) (acc : FarAcc)
  | peerAns (tag : Nat) (ans : FarAns)
  | peerAck (tag : Nat)
  /-- MC3: a NONE-state access sent to the home, passed on to the EXCL holder, and its answer, on MC1 where it brings data (R71); a
  passed access keeps the places of its bytes. With `hold` the home only checks it and keeps its place until `noneEnd`, which says
  whether it is performed (R13, R71). -/
  | noneReq (tag : Nat) (acc : FarAcc) (hold : Bool)
  | noneEnd (tag : Nat) (go : Bool)
  | noneFwd (tag : Nat) (node : Nat) (ixs : List Nat) (acc : FarAcc)
  | noneAns (tag : Nat) (ans : FarAns)
  /-- MC3: the token protocol (R73, R74, R78): bytes are by virtual address; lines written back go before the acknowledgement of
  their revoke; an acknowledgement tells the state that the module has come to; a grant names its request. -/
  | tokReq (tag : Nat) (op : TokOp) (va : Nat) (nb : Bool)
  | tokRevoke (base : Nat) (sub : Option Nat) (st : TokSt)
  | tokWriteBack (base : Nat) (cells : List (Nat × Byte))
  | tokRevokeAck (base : Nat) (sub : Option Nat) (st : TokSt)
  | tokGrant (base : Nat) (sub : Option Nat) (st : TokSt) (copy : Bool) (tag : Nat)
  | tokSplit (base : Nat) (split : Bool) (st : TokSt)
  | tokAnswer (tag : Nat) (status : Nat) (prev : TokSt)
  /-- MC3: a booking request, its answer, its release by the sender, its loss at a fault of the
  sender's launch, its cancellation by the owner (R113, R114). -/
  | bookReq (core : Nat) (name : Word) (count : Word)
  | bookAns (core : Nat) (id : BookId)
  | bookRel (id : BookId)
  | bookLost (id : BookId)
  | bookCancel (core : Nat) (id : BookId) (status : Nat)
  /-- MC4: a spike (R368): key, step, hops, the port it arrived on (none: emitted here); its group and job, by which losses and
  deliveries are counted (R371). -/
  | spike (group : List Nat) (key : Nat) (step : Nat) (hops : Nat) (job : Nat) (port : Option Nat)
  /-- MC5 of a spiking group (R371): a participant has joined a step, with its spikes, the time of its ENQ and its TSTEP; a router's
  counts for a spike of a number of hops: routed, forwarded, delivered, lost, and handlers that have retired; a step's completion
  with its lost spikes, its time and its nominal end. -/
  | stepJoin (group : List Nat) (step : Nat) (who : Nat) (made : Nat) (time : Nat) (tstep : Nat)
  | stepCount (group : List Nat) (step : Nat) (hops : Nat) (routed : Nat) (fwd : Nat) (loc : Nat) (lost : Nat) (retired : Nat)
  | stepDone (group : List Nat) (step : Nat) (lost : Nat) (time : Nat) (nominal : Nat)
  /-- MC5: crossing-engine traffic (R342, R351, R358): a participant's QRUN runs; the run begins; a proposal; the time of a set; the
  run ends (or is refused), with the least next time; an event, with the place of its bead in the order of R347, and its acknowledgement;
  an engine has fired; phase C starts; a message of the group is lost (R373). -/
  | creJoin (mid : Nat) (eng : Nat) (list : List Nat) (t0 : Nat)
  | creBegin (mid : Nat)
  | creProp (mid : Nat) (p : Proposal)
  | creTime (mid : Nat) (t : Nat)
  | creEnd (mid : Nat) (cancelled : Bool) (next : Nat)
  | creEvent (mid : Nat) (src : Nat) (q : Nat) (mir : Nat) (dep : Nat) (key : Nat)
  | creEventAck (mid : Nat)
  | creFired (mid : Nat) (eng : Nat)
  | creRespond (mid : Nat)
  | creLost (mid : Nat)
  /-- A reported slope and its answer (R365): the context that waits, its launch, the bead, the slope. -/
  | slope (ctx : Nat) (start : Nat) (launch : Option Nat) (bead : Nat) (d : Nat)
  | slopeAns (ctx : Nat) (start : Nat) (code : Nat)
  /-- A decrement of a dependence-table entry (R390), and DEPDEC with its answer (R391). -/
  | depDec (die : Nat) (entry : Nat) (n : Nat)
  | depOp (ctx : Nat) (start : Nat) (die : Nat) (entry : Nat) (arm : Bool) (b : Word)
  | depAns (ctx : Nat) (start : Nat) (word : Word)
  /-- The end-to-end acknowledgement of a reliable class up to a SEQ (R62). -/
  | ack (cls : Nat) (seq : Nat)
  /-- A packet whose header or body is none of these, kept for its header checks (R55). -/
  | other
  deriving DecidableEq, Repr

/-- A packet: the header of R54 and its body. `resv` is the value of the reserved header bits. -/
structure Packet where
  cls  : Nat
  kind : Nat
  dst  : Nat
  src  : Nat
  die  : Nat
  clus : Nat
  core : Nat
  stage : Bool
  seq  : Nat
  ord  : Bool
  mcast : Bool
  ndf  : Nat
  addr : Nat
  tag  : Nat
  resv : Nat
  body : Body
  deriving DecidableEq, Repr

/-- A packet as it comes by a port of this module (R52). -/
structure Arrival where
  port : Nat
  pkt  : Packet
  deriving DecidableEq, Repr

/-- The number of a message kind within its class, in the order of `Body` (R54: the codes are not given). DESIGN CHOICE (log 8). -/
def bodyKind : Body → Nat
  | .msg _ => 0 | .launchPart _ _ _ _ _ _ => 1 | .partEnd _ _ _ _ _ => 2 | .launchEnd _ _ => 3 | .faultNotice _ _ => 4
  | .preempt _ _ _ => 5 | .barArrive _ _ _ _ _ => 6 | .barGen _ _ _ => 7 | .barAns _ _ _ _ _ _ => 8 | .partFreed _ => 9
  | .qrunNote _ _ => 10
  | .pushPeg _ _ _ _ _ _ _ _ _ _ => 0 | .pushMem _ _ _ _ _ _ => 1 | .grem _ _ _ _ _ _ _ _ _ _ _ _ _ => 2 | .accData _ _ _ _ => 3
  | .grantCopy _ _ _ => 4
  | .done _ _ _ _ _ _ => 0 | .gremDone _ _ _ _ _ _ _ => 1 | .linkDown _ _ _ => 2 | .debugHold _ _ _ => 3
  | .peerReq _ _ => 0 | .peerAns _ _ => 1 | .peerAck _ => 2 | .noneReq _ _ _ => 3 | .noneEnd _ _ => 4 | .noneFwd _ _ _ _ => 5
  | .noneAns _ _ => 6 | .tokReq _ _ _ _ => 7 | .tokRevoke _ _ _ => 8 | .tokWriteBack _ _ => 9 | .tokRevokeAck _ _ _ => 10
  | .tokGrant _ _ _ _ _ => 11 | .tokSplit _ _ _ => 12 | .tokAnswer _ _ _ => 13 | .bookReq _ _ _ => 14 | .bookAns _ _ => 15
  | .bookRel _ => 16 | .bookLost _ => 17 | .bookCancel _ _ _ => 18
  | .spike _ _ _ _ _ _ => 0
  | .stepJoin _ _ _ _ _ _ => 0 | .stepCount _ _ _ _ _ _ _ _ => 1 | .stepDone _ _ _ _ _ => 2 | .creJoin _ _ _ _ => 3
  | .creBegin _ => 4 | .creProp _ _ => 5 | .creTime _ _ => 6 | .creEnd _ _ _ => 7 | .creEvent _ _ _ _ _ _ => 8 | .creEventAck _ => 9
  | .creFired _ _ => 10 | .creRespond _ => 11 | .slope _ _ _ _ _ => 12 | .slopeAns _ _ _ => 13 | .depDec _ _ _ => 14
  | .depOp _ _ _ _ _ _ => 15 | .depAns _ _ _ => 16 | .creLost _ => 17
  | .ack _ _ => 31 | .other => 32

/-- The TAG of a packet (R54): the transfer, booking or token request that it belongs to; of a spike its step and hops (R368); zero for
another. -/
def bodyTag : Body → Nat
  | .pushPeg _ t _ _ _ _ _ _ _ _ => t | .pushMem _ t _ _ _ _ => t | .grem _ u _ _ _ _ _ _ _ _ _ _ _ => u | .accData _ t _ _ => t
  | .grantCopy _ t _ => t | .done _ t _ _ _ _ => t | .gremDone _ u _ _ _ _ _ => u
  | .peerReq t _ => t | .peerAns t _ => t | .peerAck t => t | .noneReq t _ _ => t | .noneEnd t _ => t | .noneFwd t _ _ _ => t
  | .noneAns t _ => t | .tokReq t _ _ _ => t | .tokGrant _ _ _ _ t => t | .tokAnswer t _ _ => t
  | .spike _ _ step hops _ _ => step % 2 ^ 32 + hops % 2 ^ 8 * 2 ^ 32
  | .bookReq _ n _ => n.toNat | .bookAns _ i => i.toNat | .bookRel i => i.toNat | .bookLost i => i.toNat | .bookCancel _ i _ => i.toNat
  | _ => 0

/-- The ADDR of a packet (R54): the offset its bytes go to; for a spike its key; zero for another. -/
def bodyAddr : Body → Nat
  | .pushPeg _ _ _ _ _ _ _ _ _ c => (c.head?.map (·.1)).getD 0
  | .pushMem _ _ _ _ _ c => (c.head?.map (·.1)).getD 0
  | .grem _ _ _ _ _ _ b _ _ _ _ _ _ => b
  | .grantCopy _ _ c => (c.head?.map (·.1)).getD 0
  | .peerReq _ a => a.addrs.headD 0 | .noneReq _ a _ => a.addrs.headD 0 | .noneFwd _ _ _ a => a.addrs.headD 0
  | .tokReq _ _ v _ => v | .tokRevoke b _ _ => b | .tokWriteBack b _ => b | .tokRevokeAck b _ _ => b | .tokGrant b _ _ _ _ => b
  | .tokSplit b _ _ => b
  | .spike _ k _ _ _ _ => k
  | _ => 0

/-- The bytes that a message carries beside its header (R54); those that fit inline with room to spare count as none. -/
def bodyBytes : Body → Nat
  | .launchPart _ r i _ _ _ => 8 * (r.length + i.length)
  | .pushPeg _ _ _ _ _ _ _ _ _ c => c.length | .pushMem _ _ _ _ _ c => c.length | .grem _ _ _ _ _ i _ _ _ _ _ _ _ => 8 * i.length
  | .accData _ _ d c => d.length + (c.getD []).length | .grantCopy _ _ c => c.length | .tokWriteBack _ c => c.length
  | .peerAns _ (.bytes b) => b.length | .noneAns _ (.bytes b) => b.length
  | _ => 0

/-- The data flits of a packet (R54): none when its bytes fit in the header flit. -/
def bodyFlits (b : Body) : Nat := if bodyBytes b ≤ 224 then 0 else (bodyBytes b + 255) / 256

/-- The most bytes that one packet carries (R54). -/
def packetBytes : Nat := 4096

end Sys2Proof
end

