-- ==== Sys2Proof/Syntax.lean ====
section
/-!
DEFINITION. The abstract syntax: one constructor per row of the opcode table. The first group are the fetched
instructions (R188-R198); an operand of a type of its own holds only values that decoding admits. The others are the tile
commands, named by the core whose queue holds the command (R85, R196), and the events (95_what_each_step_holds.md),
named by the unit they happen at or by the place of their packet among the packets that wait (log 4, log 8).
-/
namespace Sys2Proof

/-- An instruction, a tile command or an event of the machine. -/
inductive Instr where
  /-- R229: Does nothing. -/
  | nop
  /-- R231: Always takes the BRK trap and writes its 12-bit code to ctl.tval. -/
  | brk (c : BitVec 12)
  /-- R231: Always takes the SYS trap, which enters S mode at ctl.svec, and writes its code to ctl.tval. -/
  | sys (c : BitVec 12)
  /-- R232: Returns from a trap through ctl.tpc or from the marker handler through ctl.mpc, restoring the mode. -/
  | rett
  /-- R226: Orders the context's earlier accesses of the masked kinds before its later ones, at the named scope. -/
  | fence (o : BitVec 4) (s : Scope)
  /-- R224: Reads a control register into s[d]. -/
  | csrr (d : Reg) (n : BitVec 12)
  /-- R224: Writes s[a] into a control register and returns the old value in s[d]. -/
  | csrw (d a : Reg) (n : BitVec 12)
  /-- R224: Sets the bits of s[a] in a control register and returns the old value in s[d]. -/
  | csrs (d a : Reg) (n : BitVec 12)
  /-- R224: Clears the bits of s[a] in a control register, or writes 1s to its W1C fields, and returns the old value. -/
  | csrc (d a : Reg) (n : BitVec 12)
  /-- R227: Blocks the context until ctl.time reaches s[a], then writes ctl.time to s[d]. -/
  | sleepu (d a : Reg)
  /-- R228: Sets ctl.prio.PRIO to min(n, MAX) and returns the old priority. -/
  | prio (d : Reg) (n : BitVec 2)
  /-- R221: Leaves the innermost L live loops and jumps to the exit address of the outermost of them. -/
  | lexit (l : BitVec 2)
  /-- R229: Keeps the context from being chosen for 4 cycles while another context is able to issue. -/
  | yield
  /-- R212: Integer addition. -/
  | add (d a b : Reg) (w : Bool)
  /-- R212: Integer subtraction. -/
  | sub (d a b : Reg) (w : Bool)
  /-- R212: Low half of the integer product. -/
  | mul (d a b : Reg) (w : Bool)
  /-- R212: High half of the signed product. -/
  | mulh (d a b : Reg) (w : Bool)
  /-- R212: High half of the unsigned product. -/
  | mulhu (d a b : Reg) (w : Bool)
  /-- R213: Signed quotient truncated toward zero, never trapping. -/
  | div (d a b : Reg) (w : Bool)
  /-- R213: Unsigned quotient, never trapping. -/
  | divu (d a b : Reg) (w : Bool)
  /-- R213: Signed remainder, never trapping. -/
  | rem (d a b : Reg) (w : Bool)
  /-- R213: Unsigned remainder, never trapping. -/
  | remu (d a b : Reg) (w : Bool)
  /-- R212: Bitwise and. -/
  | and (d a b : Reg) (w : Bool)
  /-- R212: Bitwise or. -/
  | or (d a b : Reg) (w : Bool)
  /-- R212: Bitwise exclusive or. -/
  | xor (d a b : Reg) (w : Bool)
  /-- R212: x and not y. -/
  | andn (d a b : Reg) (w : Bool)
  /-- R212: Shift left. -/
  | shl (d a b : Reg) (w : Bool)
  /-- R212: Logical shift right. -/
  | shr (d a b : Reg) (w : Bool)
  /-- R212: Arithmetic shift right. -/
  | sra (d a b : Reg) (w : Bool)
  /-- R212: Rotate right. -/
  | rotr (d a b : Reg) (w : Bool)
  /-- R212: Signed minimum. -/
  | min (d a b : Reg) (w : Bool)
  /-- R212: Signed maximum. -/
  | max (d a b : Reg) (w : Bool)
  /-- R212: Unsigned minimum. -/
  | minu (d a b : Reg) (w : Bool)
  /-- R212: Unsigned maximum. -/
  | maxu (d a b : Reg) (w : Bool)
  /-- R212: Signed less-than test. -/
  | slt (d a b : Reg) (w : Bool)
  /-- R212: Unsigned less-than test. -/
  | sltu (d a b : Reg) (w : Bool)
  /-- R212: Equality test. -/
  | seq (d a b : Reg) (w : Bool)
  /-- R212: Count leading zeros. -/
  | clz (d a : Reg) (w : Bool)
  /-- R212: Count trailing zeros. -/
  | ctz (d a : Reg) (w : Bool)
  /-- R212: Population count. -/
  | popc (d a : Reg) (w : Bool)
  /-- R212: Bit reversal. -/
  | brev (d a : Reg) (w : Bool)
  /-- R212: Byte reversal. -/
  | bswap (d a : Reg) (w : Bool)
  /-- R214: Extracts a bit field and zero- or sign-extends it. -/
  | ext (d a b : Reg) (x : Bool) (l : BitVec 6)
  /-- R214: Selects s[a] or s[b] by one predicate bit. -/
  | sel (d a b : Reg) (i : BitVec 4) (p : PReg)
  /-- R214: Copies a predicate register, zero-extended, into s[d]. -/
  | movpToScalar (d : Reg) (p : PReg)
  /-- R214: Copies s[a][15:0] into a predicate register. -/
  | movpToPredicate (p : PReg) (a : Reg)
  /-- R215: Scalar float addition. -/
  | fadd (d a b : Reg) (r : RSel) (f : FFmt)
  /-- R215: Scalar float subtraction. -/
  | fsub (d a b : Reg) (r : RSel) (f : FFmt)
  /-- R215: Scalar float multiplication. -/
  | fmul (d a b : Reg) (r : RSel) (f : FFmt)
  /-- R215: Fused a·b + s[d] with one rounding. -/
  | ffma (d a b : Reg) (r : RSel) (f : FFmt)
  /-- R215: Scalar float division on the shared divider. -/
  | fdiv (d a b : Reg) (r : RSel) (f : FFmt)
  /-- R215: Scalar float square root. -/
  | fsqrt (d a : Reg) (r : RSel) (f : FFmt)
  /-- R167: Scalar float minimum. -/
  | fmin (d a b : Reg) (f : FFmt)
  /-- R167: Scalar float maximum. -/
  | fmax (d a b : Reg) (f : FFmt)
  /-- R215: Scalar float equality test. -/
  | feq (d a b : Reg) (f : FFmt)
  /-- R215: Scalar float less-than test. -/
  | flt (d a b : Reg) (f : FFmt)
  /-- R215: Scalar float less-or-equal test. -/
  | fle (d a b : Reg) (f : FFmt)
  /-- R174: Converts a float to an integer type with saturation. -/
  | fcvtfi (d a : Reg) (t : IntTy) (r : RSel) (f : FFmt)
  /-- R175: Converts an integer to a float. -/
  | fcvtif (d a : Reg) (t : IntTy) (r : RSel) (f : FFmt)
  /-- R173: Converts between binary32 and binary64. -/
  | fcvtff (d a : Reg) (src : FFmt) (r : RSel) (f : FFmt)
  /-- R216: Writes the one-hot class mask of a float. -/
  | fclass (d a : Reg) (f : FFmt)
  /-- R217: Adds a 14-bit signed immediate. -/
  | addi (d a : Reg) (i : BitVec 14)
  /-- R217: And with an immediate. -/
  | andi (d a : Reg) (i : BitVec 14)
  /-- R217: Or with an immediate. -/
  | ori (d a : Reg) (i : BitVec 14)
  /-- R217: Exclusive or with an immediate. -/
  | xori (d a : Reg) (i : BitVec 14)
  /-- R217: Shift left by an immediate. -/
  | shli (d a : Reg) (n : BitVec 6)
  /-- R217: Logical shift right by an immediate. -/
  | shri (d a : Reg) (n : BitVec 6)
  /-- R217: Arithmetic shift right by an immediate. -/
  | srai (d a : Reg) (n : BitVec 6)
  /-- R217: Signed less-than test against an immediate. -/
  | slti (d a : Reg) (i : BitVec 14)
  /-- R217: Unsigned less-than test against an immediate. -/
  | sltui (d a : Reg) (i : BitVec 14)
  /-- R217: Loads a 19-bit immediate shifted left by 13. -/
  | lui (d : Reg) (v : BitVec 19)
  /-- R217: Loads a trailing 32-bit literal, sign-extended. -/
  | liw (d : Reg) (w : Word32)
  /-- R217: Loads two trailing literal words as one 64-bit value. -/
  | lid (d : Reg) (lo hi : Word32)
  /-- R217: 32-bit add of an immediate, sign-extended. -/
  | addiw (d a : Reg) (i : BitVec 14)
  /-- R218: Branches if equal. -/
  | beq (a b : Reg) (o : BitVec 14)
  /-- R218: Branches if not equal. -/
  | bne (a b : Reg) (o : BitVec 14)
  /-- R218: Branches if signed less. -/
  | blt (a b : Reg) (o : BitVec 14)
  /-- R218: Branches if signed greater or equal. -/
  | bge (a b : Reg) (o : BitVec 14)
  /-- R218: Branches if unsigned less. -/
  | bltu (a b : Reg) (o : BitVec 14)
  /-- R218: Branches if unsigned greater or equal. -/
  | bgeu (a b : Reg) (o : BitVec 14)
  /-- R218: Branches if a bit is set. -/
  | bbs (a b : Reg) (o : BitVec 14)
  /-- R218: Branches if a bit is clear. -/
  | bbc (a b : Reg) (o : BitVec 14)
  /-- R218: Branches if two predicates share a set bit. -/
  | bp (a b : PReg) (o : BitVec 14)
  /-- R218: Branches if two predicates share no set bit. -/
  | bnp (a b : PReg) (o : BitVec 14)
  /-- R219: Jumps to a PC-relative target and writes the link. -/
  | jal (d : Reg) (o : BitVec 21)
  /-- R219: Jumps to s[a] plus an offset and writes the link. -/
  | jalr (d a : Reg) (i : BitVec 16)
  /-- R220: Opens a zero-overhead loop with its count in s[a], or skips the body when the count is 0. -/
  | loop (a : Reg) (e : BitVec 12)
  /-- R220: Opens a zero-overhead loop with an immediate count. -/
  | loopi (c e : BitVec 12)
  /-- R235: Loads a sign-extended byte. -/
  | ldb (d a : Reg) (i : BitVec 14)
  /-- R235: Loads a zero-extended byte. -/
  | ldbu (d a : Reg) (i : BitVec 14)
  /-- R235: Loads a sign-extended half. -/
  | ldh (d a : Reg) (i : BitVec 14)
  /-- R235: Loads a zero-extended half. -/
  | ldhu (d a : Reg) (i : BitVec 14)
  /-- R235: Loads a sign-extended word. -/
  | ldw (d a : Reg) (i : BitVec 14)
  /-- R235: Loads a zero-extended word. -/
  | ldwu (d a : Reg) (i : BitVec 14)
  /-- R235: Loads a doubleword. -/
  | ldd (d a : Reg) (i : BitVec 14)
  /-- R235: Stores a byte. -/
  | stb (d a : Reg) (i : BitVec 14)
  /-- R235: Stores a half. -/
  | sth (d a : Reg) (i : BitVec 14)
  /-- R235: Stores a word. -/
  | stw (d a : Reg) (i : BitVec 14)
  /-- R235: Stores a doubleword. -/
  | std (d a : Reg) (i : BitVec 14)
  /-- R238: Aligned load that is an acquire at its scope. -/
  | ldaq (d a : Reg) (s : Scope) (z : Size)
  /-- R238: Aligned store that is a release at its scope. -/
  | strl (d a : Reg) (s : Scope) (z : Size)
  /-- R239: Atomic read-modify-write of the selected operation, returning the old value. -/
  | amo (d a v : Reg) (o : AmoOp) (z : Size) (s : Scope)
  /-- R241: Atomic compare and swap, returning the old value. -/
  | cas (d a n : Reg) (z : Size) (s : Scope)
  /-- R268: Element addition under ctl.vfmt. -/
  | vadd (d a : Reg) (b : BSrc) (p : PReg) (x : XMode)
  /-- R268: Element subtraction. -/
  | vsub (d a : Reg) (b : BSrc) (p : PReg) (x : XMode)
  /-- R268: Element multiplication. -/
  | vmul (d a : Reg) (b : BSrc) (p : PReg) (x : XMode)
  /-- R269: Fused x·y + z into the accumulator. -/
  | vfma (d a : Reg) (b : BSrc) (p : PReg) (x : XMode)
  /-- R269: Fused x·y − z into the accumulator. -/
  | vfms (d a : Reg) (b : BSrc) (p : PReg) (x : XMode)
  /-- R269: Fused z − x·y into the accumulator. -/
  | vfnma (d a : Reg) (b : BSrc) (p : PReg) (x : XMode)
  /-- R268: Element minimum. -/
  | vmin (d a : Reg) (b : BSrc) (p : PReg)
  /-- R268: Element maximum. -/
  | vmax (d a : Reg) (b : BSrc) (p : PReg)
  /-- R270: Element absolute value. -/
  | vabs (d a : Reg) (p : PReg)
  /-- R270: Element negation. -/
  | vneg (d a : Reg) (p : PReg)
  /-- R268: High half of the integer element product. -/
  | vmulh (d a : Reg) (b : BSrc) (p : PReg)
  /-- R272: Bitwise and on 32-bit lane groups. -/
  | vand (d a : Reg) (b : BSrc) (p : PReg)
  /-- R272: Bitwise or on 32-bit lane groups. -/
  | vor (d a : Reg) (b : BSrc) (p : PReg)
  /-- R272: Bitwise exclusive or on 32-bit lane groups. -/
  | vxor (d a : Reg) (b : BSrc) (p : PReg)
  /-- R268: Integer element shift left. -/
  | vshl (d a : Reg) (b : BSrc) (p : PReg)
  /-- R268: Integer element logical shift right. -/
  | vshr (d a : Reg) (b : BSrc) (p : PReg)
  /-- R268: Integer element arithmetic shift right. -/
  | vsra (d a : Reg) (b : BSrc) (p : PReg)
  /-- R271: Element equality into a predicate. -/
  | vcmpeq (d : PReg) (a : Reg) (b : BSrc) (p : PReg)
  /-- R271: Element less-than into a predicate. -/
  | vcmplt (d : PReg) (a : Reg) (b : BSrc) (p : PReg)
  /-- R271: Element less-or-equal into a predicate. -/
  | vcmple (d : PReg) (a : Reg) (b : BSrc) (p : PReg)
  /-- R272: Selects lane groups of v[a] or b by a predicate. -/
  | vsel (d a : Reg) (b : BSrc) (p : PReg)
  /-- R274: Converts elements to another type, optionally scaled, into one part of the destination. -/
  | vcvt (d a : Reg) (sc : Bool) (t : ETy) (n : BitVec 2) (p : PReg) (x : XMode)
  /-- R275: Tree sum of the active elements into element 0. -/
  | vrsum (d a : Reg) (p : PReg) (x : XMode)
  /-- R275: Tree maximum of the active elements. -/
  | vrmax (d a : Reg) (p : PReg)
  /-- R275: Tree minimum of the active elements. -/
  | vrmin (d a : Reg) (p : PReg)
  /-- R276: Permutes elements by indices in v[b]. -/
  | vperm (d a b : Reg) (p : PReg)
  /-- R276: Broadcasts one element chosen by s[b]. -/
  | vbcast (d a b : Reg) (p : PReg)
  /-- R276: Slides elements by a signed count, filling with zero. -/
  | vslide (d a b : Reg) (p : PReg)
  /-- R277: Packs the selected lane groups to the bottom. -/
  | vcmprs (d a : Reg) (p : PReg)
  /-- R277: Spreads lane groups into the selected positions. -/
  | vexpnd (d a : Reg) (p : PReg)
  /-- R279: Writes the nonzero bitmap of the active elements. -/
  | vnz (d a : Reg) (p : PReg)
  /-- R279: Counts the nonzero active elements. -/
  | vpopc (d a : Reg) (p : PReg)
  /-- R282: Arrives at the octet all-to-all exchange and blocks until it completes. -/
  | vxchg (d a : Reg)
  /-- R280: Four- or two-way dot products accumulated per 32-bit group. -/
  | vdot4 (d a : Reg) (b : BSrc) (p : PReg) (x : XMode)
  /-- R278: Inserts a scalar into one vector element. -/
  | vmovsIns (d a b : Reg)
  /-- R278: Extracts one vector element into a scalar. -/
  | vmovsExt (d a b : Reg)
  /-- R283: Element reciprocal on the SFU. -/
  | vrcp (d a : Reg) (p : PReg) (x : XMode)
  /-- R283: Element reciprocal square root on the SFU. -/
  | vrsq (d a : Reg) (p : PReg) (x : XMode)
  /-- R283: Element 2^x on the SFU. -/
  | vexp2 (d a : Reg) (p : PReg) (x : XMode)
  /-- R283: Element log2 on the SFU. -/
  | vlog2 (d a : Reg) (p : PReg) (x : XMode)
  /-- R283: Element sine on the SFU. -/
  | vsin (d a : Reg) (p : PReg) (x : XMode)
  /-- R283: Element cosine on the SFU. -/
  | vcos (d a : Reg) (p : PReg) (x : XMode)
  /-- R283: Element hyperbolic tangent on the SFU. -/
  | vtanh (d a : Reg) (p : PReg) (x : XMode)
  /-- R283: Element square root on the SFU. -/
  | vsqrt (d a : Reg) (p : PReg) (x : XMode)
  /-- R268: Element float division on the SFU. -/
  | vdiv (d a : Reg) (b : BSrc) (p : PReg) (x : XMode)
  /-- R279: Writes each active float element's class number. -/
  | vclass (d a : Reg) (p : PReg)
  /-- R286: Replaces abandoned fp32 elements with b. -/
  | vvsel (d a : Reg) (b : BSrc) (p : PReg)
  /-- R286: Compares fp32 elements, abandons included, into a predicate. -/
  | vvcmp (d : PReg) (a : Reg) (b : BSrc) (p : PReg)
  /-- R287: Predicate and. -/
  | pand (d a b : PReg)
  /-- R287: Predicate or. -/
  | por (d a b : PReg)
  /-- R287: Predicate exclusive or. -/
  | pxor (d a b : PReg)
  /-- R287: Predicate complement. -/
  | pnot (d a : PReg)
  /-- R287: Sets the low min(s[a], 16) predicate bits. -/
  | psetn (d : PReg) (a : Reg)
  /-- R288: Adds a 20-bit float immediate to every element. -/
  | vfaddi (d : Reg) (i : BitVec 20)
  /-- R288: Multiplies every element by a float immediate. -/
  | vfmuli (d : Reg) (i : BitVec 20)
  /-- R288: Minimum of every element and a float immediate. -/
  | vfmini (d : Reg) (i : BitVec 20)
  /-- R288: Maximum of every element and a float immediate. -/
  | vfmaxi (d : Reg) (i : BitVec 20)
  /-- R288: Writes a float immediate into every element. -/
  | vmovi (d : Reg) (i : BitVec 20)
  /-- R288: Writes the immediate minus each element. -/
  | vfrsubi (d : Reg) (i : BitVec 20)
  /-- R244: Loads 64 bytes into a vector register. -/
  | vld (d a b : Reg) (p : PReg)
  /-- R244: Stores 64 bytes from a vector register. -/
  | vst (d a b : Reg) (p : PReg)
  /-- R244: Strided element load. -/
  | vlds (d a b : Reg) (p : PReg)
  /-- R244: Strided element store. -/
  | vsts (d a b : Reg) (p : PReg)
  /-- R244: Gathers lane groups from scratch addresses. -/
  | vgath (d a b : Reg) (p : PReg)
  /-- R244: Scatters lane groups to scratch addresses. -/
  | vscat (d a b : Reg) (p : PReg)
  /-- R244: Loads one element and broadcasts it. -/
  | vldbc (d a b : Reg) (p : PReg)
  /-- R246: Binds a vector register to an address generator as a read or write stream. -/
  | strm (d a b : Reg) (wr : Bool) (g : BitVec 2)
  /-- R248: Ends the stream or queue binding of a register. -/
  | unbnd (d : Reg)
  /-- R249: Binds a register to a neighbour-queue end, blocking while another context holds it. -/
  | qbind (d : Reg) (e : QEnd)
  /-- R250: Appends a marker entry to an enqueue-bound queue. -/
  | qmark (d a : Reg)
  /-- R251: Writes the queue occupancy and marker word. -/
  | qstat (d : Reg)
  /-- R245: Loads consecutive words into constant-bank entries. -/
  | vldk (d a : Reg) (n : BitVec 5)
  /-- R253: Sends an active message with arguments from a vector register. -/
  | send (d a b : Reg) (r nb : Bool) (c : BitVec 5)
  /-- R253: Sends an active message with arguments from constant-bank entries. -/
  | sendk (d a b : Reg) (r nb : Bool) (c : BitVec 5)
  /-- R256: Starts a FREE helper at an address from the control context. -/
  | start (d a b : Reg) (nb : Bool)
  /-- R257: Waits for the context's accesses, ends its bindings and makes it FREE. -/
  | retire
  /-- R259: Arrives at a hardware barrier, or reads its generation with count 0. -/
  | bar (d a b : Reg) (s : Scope)
  /-- R260: Blocks until the barrier generation reaches a target. -/
  | barw (d a b : Reg) (s : Scope)
  /-- R98: Waits for a CPE transfer, or until its promise expires. -/
  | waitx (d a b : Reg) (prom : Bool)
  /-- R101: Dequeues the oldest completion message. -/
  | inbox (d : Reg) (nb : Bool)
  /-- R112: Defines a pitch in the core's slice. -/
  | lzdef (d a b : Reg) (p : BitVec 2)
  /-- R113: Requests a booking of pegs in a pitch. -/
  | lzres (d a b : Reg) (nb : Bool)
  /-- R116: Waits for a pitch barrier generation and returns status and arrival bitmap. -/
  | lzwait (d a b : Reg) (nb : Bool) (p : BitVec 2)
  /-- R114: Re-arms a pitch, cancelling its live bookings. -/
  | lzrelRearm (d : Reg) (p : BitVec 2)
  /-- R114: Re-arms and then frees a pitch. -/
  | lzrelUndef (d : Reg) (p : BitVec 2)
  /-- R114: Releases a sender's booking, freeing its unarrived pegs. -/
  | lzrelBk (d a : Reg)
  /-- R78: Acquires EXCL on a region token. -/
  | tkacq (d a : Reg) (nb : Bool)
  /-- R78: Takes DUP on a region token. -/
  | tkdup (d a : Reg) (nb : Bool)
  /-- R78: Releases a region token to NONE. -/
  | tkrel (d a : Reg) (nb : Bool)
  /-- R78: Splits a region held in EXCL into 32 sub-regions. -/
  | tksplit (d a : Reg) (nb : Bool)
  /-- R78: Merges a split region held wholly in EXCL. -/
  | tkmerge (d a : Reg) (nb : Bool)
  /-- R81: Reads the module's token state for an address. -/
  | tkqry (d a : Reg)
  /-- R401: Requests an explicit leave grant, blocking until granted. -/
  | leaveGet (d a : Reg)
  /-- R401: Returns the context's explicit leave grant. -/
  | leavePut (d : Reg)
  /-- R93: Checks a 256-bit tile command and appends it to an engine queue. -/
  | enq (d a : Reg) (e : Engine)
  /-- R96: Reports the phase and status of an engine command. -/
  | epoll (d a : Reg) (e : Engine)
  /-- R97: Cancels a queued or held engine command. -/
  | ecancel (d a : Reg) (e : Engine)
  /-- R108: Releases XLOOP ring stages. -/
  | srel (d a b : Reg)
  /-- R108: Waits for an XLOOP chunk to be filled. -/
  | swait (d a b : Reg)
  /-- R365: Reports a new slope for a bead and waits for the engine's answer. -/
  | qslope (d a b : Reg)
  /-- R391: Decrements or reads a dependence-table entry. -/
  | depdecDec (d a b : Reg)
  /-- R391: Arms an idle dependence-table entry with a locator and count. -/
  | depdecArm (d a b : Reg)
  /-- R197: A fetched word that fails decode takes the illegal-instruction trap. -/
  | illegalWord (w : Word32) (sub : IllSub)
  /-- R172: A due deferred trap is taken at the next boundary or abandons a wait. -/
  | deferredTrapEntry (x : Nat)
  /-- R98: A WAITX whose promise time passes without completion takes the missed-promise trap. -/
  | missedPromise (x : Nat)
  /-- R227: A sleeping context wakes when device time reaches its target. -/
  | sleepuWake (x : Nat)
  /-- R150: An address generator reads the next group of a read stream ahead of its pops. -/
  | streamReadahead (x : Nat) (g : BitVec 2)
  /-- R151: An enqueued entry lands in a neighbour queue when its result is ready. -/
  | queueEntryLand (core : Nat) (high : Bool)
  /-- R284: The SFU takes the next queued request into service. -/
  | sfuServiceStart (oct : Nat)
  /-- R284: The SFU writes a result 20 cycles after service started and readies the context. -/
  | sfuResult (oct : Nat)
  /-- R282: Eight cycles after the eighth arrival all eight destinations are written. -/
  | vxchgComplete (oct : Nat)
  /-- R254: An arriving message starts a helper, spills, queues as a completion, or is discarded. -/
  | activeMessageArrival (n : Nat)
  /-- R42: A walker translates a missing address through the radix tree. -/
  | pageTableWalk (x : Nat) (va : Word)
  /-- R140: The scrubber reads a slice granule, correcting or poisoning it. -/
  | patrolScrub (core : Nat) (granule : Nat) (found : EccFind)
  /-- R53: A flit arrives on a link, checked by CRC and replayed on failure. -/
  | flitReceive (port : Nat) (flit : LinkFlit)
  /-- R56: A flit that fails replay eight times in a row brings the port down. -/
  | replayLimit (port : Nat)
  /-- R56: FEC block lock lost for 2 µs brings the port down. -/
  | fecLockLossTimeout (port : Nat)
  /-- R56: No acknowledgement or credit for 10 µs with flits outstanding brings the port down. -/
  | ackCreditTimeout (port : Nat)
  /-- R56: Firmware retrains a down port with all 16 lanes. -/
  | portRetrain (port : Nat)
  /-- R55: A packet reaches a module and is checked, routed onward or delivered. -/
  | packetArrival (pkt : Arrival)
  /-- R62: An unacknowledged reliable packet is resent after 5 µs. -/
  | resendTimeout (n : Nat)
  /-- R62: A packet unacknowledged for 100 µs is lost and reported. -/
  | deliveryTimeout (n : Nat)
  /-- R82: A module records a link-down notice and re-evaluates routes. -/
  | linkDownNotice (n : Nat)
  /-- R82: 100 µs after a link-down notice, outstanding MC1 packets over the link are lost. -/
  | mc1LossTimeout (n : Nat)
  /-- R63: Once a transfer's bytes are all written, the receiver generates its arrival notice. -/
  | arrivalNotice (n : Nat)
  /-- R63: A completion notice returns to the sender of a transfer. -/
  | completionNotice (n : Nat)
  /-- R65: A peer performs a direct peer access once request and data have arrived. -/
  | peerRequest (n : Nat)
  /-- R65: The answer of a peer load, fetch, AMO or CAS completes the requesting instruction. -/
  | peerAnswer (n : Nat)
  /-- R65: A peer's acknowledgement of a performed store arrives. -/
  | peerStoreAck (n : Nat)
  /-- R78: The home takes a token request in serial order and starts its transition. -/
  | tokenRequest (n : Nat)
  /-- R73: A holder performs checked accesses, writes back, sets its new state and acknowledges. -/
  | tokenRevoke (n : Nat)
  /-- R73: The home receives a revoke acknowledgement and continues the transition. -/
  | tokenRevokeAck (n : Nat)
  /-- R74: A grantee receives the grant copy and the grant of DUP or EXCL. -/
  | tokenGrant (n : Nat)
  /-- R79: The home's answer arrives and the token instruction writes its result. -/
  | tokenAnswer (n : Nat)
  /-- R71: The home performs a NONE-state access in the token's serial order. -/
  | noneStateAccess (n : Nat)
  /-- R87: An engine decodes the next command of a queue into its shadow set. -/
  | commandDecode (core : Nat) (e : Engine)
  /-- R89: An engine command completes, advancing the watermark, ORing flags and doing its DEP and CMSG actions. -/
  | commandCompletion (core : Nat) (e : Engine)
  /-- R100: A held class-16 message is deposited when a spill entry frees. -/
  | heldMessageDeposit (core : Nat)
  /-- R102: The CPE copies LEN bytes, interleaving or pushing into a pitch booking. -/
  | xsend (core : Nat)
  /-- R106: The CPE streams chunks into a ring of scratchpad stages. -/
  | xloop (core : Nat)
  /-- R107: The engine starts the next chunk once a stage is released. -/
  | xloopChunkStart (core : Nat)
  /-- R109: The CPE fills a range with a repeating pattern. -/
  | xfill (core : Nat)
  /-- R119: The GTE gathers indexed rows into packed rows. -/
  | gath (core : Nat)
  /-- R120: The GTE ships a remote-index gather to the owning module. -/
  | grem (core : Nat)
  /-- R121: The owning module's GTE reads the rows and pushes them into the booking. -/
  | gremRemoteGather (n : Nat)
  /-- R122: The GTE copies whole pages listed by a block table. -/
  | gpage (core : Nat)
  /-- R119: The GTE scatters packed rows to indexed rows. -/
  | scat (core : Nat)
  /-- R113: A pitch owner receives a booking request and grants or denies it. -/
  | bookingRequest (n : Nat)
  /-- R113: The owner's answer reaches the sender and completes LZRES. -/
  | bookingAnswer (n : Nat)
  /-- R114: Push bytes for a peg complete and the peg arrives or the bytes are discarded. -/
  | pegArrival (n : Nat)
  /-- R114: 100 µs after its sender becomes unreachable a booking's unarrived pegs go DEAD. -/
  | bookingLost (core : Nat) (p : BitVec 2) (serial : Nat)
  /-- R118: After 20 µs of SAVING, live bookings are cancelled PREEMPTED. -/
  | pitchSaveTimeout (core : Nat) (p : BitVec 2)
  /-- R400: The governor grants the oldest waiting leave request that fits. -/
  | leaveGrant (clus : Nat)
  /-- R310: The MXU accumulates a matrix product into a bank, optionally storing it. -/
  | mma (core : Nat)
  /-- R312: A gang-scheduled product over several MXUs of the cluster. -/
  | mmaq (core : Nat)
  /-- R310: The MXU accumulates squared distances. -/
  | mdist (core : Nat)
  /-- R315: The MXU writes the k largest values of each bank row with their columns. -/
  | mtopk (core : Nat)
  /-- R325: Verdict accumulation that abandons elements whose outcome is settled. -/
  | mverd (core : Nat)
  /-- R316: Sets bank elements to +0. -/
  | mzero (core : Nat)
  /-- R316: Loads bank elements from scratchpad. -/
  | mldacc (core : Nat)
  /-- R316: Stores bank elements converted to OFMT, optionally clearing them. -/
  | mstacc (core : Nat)
  /-- R294: The arbiter grants the next ready tile, which runs to its end. -/
  | mxuTile (oct : Nat)
  /-- R312: The gang sequencer serves a request, stops the units and starts the gang. -/
  | gangStart (clus : Nat)
  /-- R358: Binds a crossing model to the engine. -/
  | qgraph (core : Nat)
  /-- R359: Initialises beads and computes their next crossing times. -/
  | qvar (core : Nat)
  /-- R360: Runs the group until TEND, a stop or never. -/
  | qrun (core : Nat)
  /-- R361: Posts a stop taken at the next phase-A boundary. -/
  | qstop (core : Nat)
  /-- R362: Registers a sample of beads at a model time. -/
  | qsample (core : Nat)
  /-- R363: Sets storm parameters and clears pauses between steps. -/
  | qstorm (core : Nat)
  /-- R370: Loads spike-router entries and the local list. -/
  | spktab (core : Nat)
  /-- R371: Emits a step's spikes and joins its step barrier. -/
  | spkstep (core : Nat)
  /-- R347: Each engine proposes its least next time to the root. -/
  | phaseAChoose (clus : Nat)
  /-- R353: The root, once pacing allows, broadcasts the set time or the end of the run. -/
  | rootBroadcast (clus : Nat)
  /-- R343: An engine snaps the beads of the set in order and sends their events. -/
  | phaseBFire (clus : Nat)
  /-- R342: An engine writes a mirror word and marks the dependant woken. -/
  | eventDelivery (n : Nat)
  /-- R348: Once all events are delivered, handlers of woken dependants are started. -/
  | phaseCRespond (clus : Nat)
  /-- R344: An engine applies a reported slope to a bead. -/
  | slopeReport (n : Nat)
  /-- R362: An engine writes a pending sample at its model time. -/
  | sampleTake (clus : Nat)
  /-- R368: The spike router matches a spike, forwards it and delivers local copies. -/
  | spikeRoute (n : Nat)
  /-- R371: A step barrier completes once delivery and the nominal end are both reached. -/
  | stepBarrierComplete (n : Nat)
  /-- R385: A launch stage copies and checks a record from its source. -/
  | launchRecordArrival (die : Nat)
  /-- R388: The stage places the head launch on free cores and sets them up. -/
  | launchAdmit (die : Nat)
  /-- R390: The dependence table applies a decrement and may make an entry FIRING. -/
  | dependenceDecrement (n : Nat)
  /-- R393: A core's part ends once its contexts, engines and spill area are idle. -/
  | corePartEnd (core : Nat)
  /-- R393: Frees launch resources, writes the completion record, signals and flushes translations. -/
  | launchCompletion (launch : Nat)
  /-- R434: Stops contexts at boundaries, engines at their stopping points and puts pitches in SAVING. -/
  | preemptionStop (launch : Nat)
  /-- R433: Waits for the launch's MC0 and MC2 messages to be acknowledged. -/
  | preemptionDrain (launch : Nat)
  /-- R437: Writes each core's save image of dirty registers and lines. -/
  | preemptionWrite (launch : Nat)
  /-- R433: Frees the launch's cores, banks and engines and counts NPRE. -/
  | preemptionRelease (launch : Nat)
  /-- R438: Reloads a pre-empted launch from its image chain and starts its contexts. -/
  | restore (launch : Nat)
  /-- R429: A fault stops contexts, discards engine work, frees resources and ends the launch with FAULT. -/
  | launchFault (launch : Nat)
  /-- R430: A fault notice reaches the root and is forwarded to every part. -/
  | faultNotice (n : Nat)
  /-- R440: The launch's running time exceeds its limit and raises the watchdog fault. -/
  | launchWatchdog (launch : Nat)
  /-- R441: A context blocked beyond the limit raises the watchdog fault. -/
  | progressWatchdog (x : Nat)
  /-- R442: A job with no completion or refresh within the limit faults its launches. -/
  | jobWatchdog (slot : BitVec 4)
  /-- R443: The HALT bit halts every live context of a core. -/
  | debugHalt (core : Nat)
  /-- R446: The RESUME bit returns halted contexts to their states. -/
  | debugResume (core : Nat)
  /-- R445: A debug-hold notice pauses the job's watchdogs on a module. -/
  | debugHoldNotice (n : Nat)
  /-- R451: A host or firmware write to a BAR0 register with no behaviour of its own. -/
  | hostRegisterWrite (off : BitVec 24) (bytes : Nat) (host : Bool) (v : Word)
  /-- R458: A write to a counter clears it. -/
  | counterClear (off : BitVec 16)
  /-- R460: Enables or stops the taking of host queue entries. -/
  | hqenWrite (v : Word)
  /-- R454: Sets the ring size, or sets QERR for an invalid value. -/
  | hqsizeWrite (v : Word)
  /-- R460: Posts new host queue entries, or sets QERR for an invalid tail. -/
  | hqtailWrite (v : Word)
  /-- R461: The device takes one entry, checks its record, writes RSTAT and advances HQHEAD. -/
  | hostQueueEntry
  /-- R462: Unmasking a vector with its pending bit set sends the interrupt. -/
  | msixUnmask (vec : Nat)
  /-- R456: Assigning or releasing the spike router clears its table and list. -/
  | spkownWrite (v : Word)
  /-- R457: Sets the module power cap, clamped to its range. -/
  | pcapWrite (v : Word)
  /-- R399: Sets a cluster's leave budget, clamped, affecting waiting requests. -/
  | lbudgetWrite (clus : Nat) (v : Word)
  /-- R459: A write refreshes the job watchdog of a slot. -/
  | jobWatchdogRefresh (slot : BitVec 4)
  /-- R469: Setting ACMD.REQ requests a signed report over the nonce. -/
  | attestationRequest
  /-- R469: The device writes the signed report and sets DONE. -/
  | attestationReport
  /-- R467: In RECOVERY, starts reading and verifying a host-supplied image. -/
  | recoveryGo
  /-- R467: The recovery image passes, entering LOAD and optionally persisting, or fails with ERR. -/
  | recoveryVerifyDone
  /-- R464: On PERST# deassertion the ROM loads and verifies firmware, which prepares memory and enters READY. -/
  | boot
  /-- R471: Every 1 ms firmware reads junction temperatures and adjusts cluster budgets. -/
  | thermalSample (t : Vector (BitVec 16) 16)
  /-- R472: Assertion of PERST# resets the device to its reset values, which is the only way out of HALTED. -/
  | deviceReset
  /-- R56: A receiver loses FEC block lock and begins the 2 µs count toward port down. -/
  | fecBlockLockLoss (port : Nat)
  /-- R56: A receiver regains FEC block lock before 2 µs, cancelling the count so the port stays up. -/
  | fecBlockLockRegain (port : Nat)
  /-- R365: The bead engine's answer reaches the blocked QSLOPE context, which writes s[d] and becomes READY. -/
  | qslopeAnswer (n : Nat)
  /-- R391: The dependence table's answer to a DEPDEC reaches the blocked context, which writes s[d]. -/
  | dependenceTableAnswer (n : Nat)
  /-- R443: The debugger steps one instruction of one context of a halted core, which issues and halts again. -/
  | debugStep (core : Nat) (ctx : Nat)
  deriving DecidableEq, Repr

end Sys2Proof
end

