-- ==== Sys2Proof/WellFormed.lean ====
section
/-!
DEFINITION. Well-formedness: what an instruction's operands must meet beyond their types, by the encoding rules (R189, R192,
R197, R245, R253, R258), and the units that an event may name (R17).
-/
namespace Sys2Proof

/-- The class of SEND and SENDK: 16-18 and 20-31 are reserved values (R253). -/
def sendClassOk (c : BitVec 5) : Bool := decide (c.toNat ≤ 15) || decide (c.toNat = 19)

/-- FADD and FMAX of AMO with 1 or 2 bytes are reserved values (R192). -/
def amoSizeOk (o : AmoOp) (z : Size) : Bool :=
  match o, z with
  | .fadd, .b1 => false | .fadd, .b2 => false | .fmax, .b1 => false | .fmax, .b2 => false
  | _, _ => true

/-- A context number is 16 times its core number plus its index 0-10 (R141). -/
def ctxOk (x : Nat) : Bool := decide (x / 16 < Config.cores) && decide (x % 16 < Config.contexts)

/-- The operands of an instruction are among those its entry admits. -/
def wellFormed (i : Instr) : Bool :=
  match i with
  | .nop => true
  | .brk _ => true
  | .sys _ => true
  | .rett => true
  | .fence o _ => decide (o ≠ 0)
  | .csrr _ _ => true
  | .csrw _ _ _ => true
  | .csrs _ _ _ => true
  | .csrc _ _ _ => true
  | .sleepu _ _ => true
  | .prio _ _ => true
  | .lexit _ => true
  | .yield => true
  | .add _ _ _ _ => true
  | .sub _ _ _ _ => true
  | .mul _ _ _ _ => true
  | .mulh _ _ _ _ => true
  | .mulhu _ _ _ _ => true
  | .div _ _ _ _ => true
  | .divu _ _ _ _ => true
  | .rem _ _ _ _ => true
  | .remu _ _ _ _ => true
  | .and _ _ _ _ => true
  | .or _ _ _ _ => true
  | .xor _ _ _ _ => true
  | .andn _ _ _ _ => true
  | .shl _ _ _ _ => true
  | .shr _ _ _ _ => true
  | .sra _ _ _ _ => true
  | .rotr _ _ _ _ => true
  | .min _ _ _ _ => true
  | .max _ _ _ _ => true
  | .minu _ _ _ _ => true
  | .maxu _ _ _ _ => true
  | .slt _ _ _ _ => true
  | .sltu _ _ _ _ => true
  | .seq _ _ _ _ => true
  | .clz _ _ _ => true
  | .ctz _ _ _ => true
  | .popc _ _ _ => true
  | .brev _ _ _ => true
  | .bswap _ _ _ => true
  | .ext _ _ _ _ _ => true
  | .sel _ _ _ _ _ => true
  | .movpToScalar _ _ => true
  | .movpToPredicate _ _ => true
  | .fadd _ _ _ _ _ => true
  | .fsub _ _ _ _ _ => true
  | .fmul _ _ _ _ _ => true
  | .ffma _ _ _ _ _ => true
  | .fdiv _ _ _ _ _ => true
  | .fsqrt _ _ _ _ => true
  | .fmin _ _ _ _ => true
  | .fmax _ _ _ _ => true
  | .feq _ _ _ _ => true
  | .flt _ _ _ _ => true
  | .fle _ _ _ _ => true
  | .fcvtfi _ _ _ _ _ => true
  | .fcvtif _ _ _ _ _ => true
  | .fcvtff _ _ _ _ _ => true
  | .fclass _ _ _ => true
  | .addi _ _ _ => true
  | .andi _ _ _ => true
  | .ori _ _ _ => true
  | .xori _ _ _ => true
  | .shli _ _ _ => true
  | .shri _ _ _ => true
  | .srai _ _ _ => true
  | .slti _ _ _ => true
  | .sltui _ _ _ => true
  | .lui _ _ => true
  | .liw _ _ => true
  | .lid _ _ _ => true
  | .addiw _ _ _ => true
  | .beq _ _ _ => true
  | .bne _ _ _ => true
  | .blt _ _ _ => true
  | .bge _ _ _ => true
  | .bltu _ _ _ => true
  | .bgeu _ _ _ => true
  | .bbs _ _ _ => true
  | .bbc _ _ _ => true
  | .bp _ _ _ => true
  | .bnp _ _ _ => true
  | .jal _ _ => true
  | .jalr _ _ _ => true
  | .loop _ e => decide (e ≠ 0)
  | .loopi _ e => decide (e ≠ 0)
  | .ldb _ _ _ => true
  | .ldbu _ _ _ => true
  | .ldh _ _ _ => true
  | .ldhu _ _ _ => true
  | .ldw _ _ _ => true
  | .ldwu _ _ _ => true
  | .ldd _ _ _ => true
  | .stb _ _ _ => true
  | .sth _ _ _ => true
  | .stw _ _ _ => true
  | .std _ _ _ => true
  | .ldaq _ _ _ _ => true
  | .strl _ _ _ _ => true
  | .amo _ _ _ o z _ => amoSizeOk o z
  | .cas _ _ _ _ _ => true
  | .vadd _ _ _ _ _ => true
  | .vsub _ _ _ _ _ => true
  | .vmul _ _ _ _ _ => true
  | .vfma _ _ _ _ _ => true
  | .vfms _ _ _ _ _ => true
  | .vfnma _ _ _ _ _ => true
  | .vmin _ _ _ _ => true
  | .vmax _ _ _ _ => true
  | .vabs _ _ _ => true
  | .vneg _ _ _ => true
  | .vmulh _ _ _ _ => true
  | .vand _ _ _ _ => true
  | .vor _ _ _ _ => true
  | .vxor _ _ _ _ => true
  | .vshl _ _ _ _ => true
  | .vshr _ _ _ _ => true
  | .vsra _ _ _ _ => true
  | .vcmpeq _ _ _ _ => true
  | .vcmplt _ _ _ _ => true
  | .vcmple _ _ _ _ => true
  | .vsel _ _ _ _ => true
  | .vcvt _ _ _ _ _ _ _ => true
  | .vrsum _ _ _ _ => true
  | .vrmax _ _ _ => true
  | .vrmin _ _ _ => true
  | .vperm _ _ _ _ => true
  | .vbcast _ _ _ _ => true
  | .vslide _ _ _ _ => true
  | .vcmprs _ _ _ => true
  | .vexpnd _ _ _ => true
  | .vnz _ _ _ => true
  | .vpopc _ _ _ => true
  | .vxchg _ _ => true
  | .vdot4 _ _ _ _ _ => true
  | .vmovsIns _ _ _ => true
  | .vmovsExt _ _ _ => true
  | .vrcp _ _ _ _ => true
  | .vrsq _ _ _ _ => true
  | .vexp2 _ _ _ _ => true
  | .vlog2 _ _ _ _ => true
  | .vsin _ _ _ _ => true
  | .vcos _ _ _ _ => true
  | .vtanh _ _ _ _ => true
  | .vsqrt _ _ _ _ => true
  | .vdiv _ _ _ _ _ => true
  | .vclass _ _ _ => true
  | .vvsel _ _ _ _ => true
  | .vvcmp _ _ _ _ => true
  | .pand _ _ _ => true
  | .por _ _ _ => true
  | .pxor _ _ _ => true
  | .pnot _ _ => true
  | .psetn _ _ => true
  | .vfaddi _ _ => true
  | .vfmuli _ _ => true
  | .vfmini _ _ => true
  | .vfmaxi _ _ => true
  | .vmovi _ _ => true
  | .vfrsubi _ _ => true
  | .vld _ _ _ _ => true
  | .vst _ _ _ _ => true
  | .vlds _ _ _ _ => true
  | .vsts _ _ _ _ => true
  | .vgath _ _ _ _ => true
  | .vscat _ _ _ _ => true
  | .vldbc _ _ _ _ => true
  | .strm _ _ _ _ _ => true
  | .unbnd _ => true
  | .qbind _ _ => true
  | .qmark _ _ => true
  | .qstat _ => true
  | .vldk d _ n => decide (d.toNat + n.toNat < 32)
  | .send _ _ _ _ _ c => sendClassOk c
  | .sendk _ _ b _ _ c => sendClassOk c && decide (b.toNat ≤ 24)
  | .start _ _ _ _ => true
  | .retire => true
  | .bar _ _ _ s => decide (s ≠ .ctx)
  | .barw _ _ _ s => decide (s ≠ .ctx)
  | .waitx _ _ b p => p || decide (b = 0)
  | .inbox _ _ => true
  | .lzdef _ _ _ _ => true
  | .lzres _ _ _ _ => true
  | .lzwait _ _ _ _ _ => true
  | .lzrelRearm _ _ => true
  | .lzrelUndef _ _ => true
  | .lzrelBk _ _ => true
  | .tkacq _ _ _ => true
  | .tkdup _ _ _ => true
  | .tkrel _ _ _ => true
  | .tksplit _ _ _ => true
  | .tkmerge _ _ _ => true
  | .tkqry _ _ => true
  | .leaveGet _ _ => true
  | .leavePut _ => true
  | .enq _ _ _ => true
  | .epoll _ _ _ => true
  | .ecancel _ _ _ => true
  | .srel _ _ _ => true
  | .swait _ _ _ => true
  | .qslope _ _ _ => true
  | .depdecDec _ _ _ => true
  | .depdecArm _ _ _ => true
  | .illegalWord _ _ => true
  | .deferredTrapEntry x => ctxOk x
  | .missedPromise x => ctxOk x
  | .sleepuWake x => ctxOk x
  | .streamReadahead x _ => ctxOk x
  | .queueEntryLand core _ => decide (core < Config.cores)
  | .sfuServiceStart oct => decide (oct < Config.octets)
  | .sfuResult oct => decide (oct < Config.octets)
  | .vxchgComplete oct => decide (oct < Config.octets)
  | .activeMessageArrival _ => true
  | .pageTableWalk x _ => ctxOk x
  | .patrolScrub core g _ => decide (core < Config.cores) && decide (g < Config.sliceBytes / 8)
  | .flitReceive port _ => decide (port < 8)
  | .replayLimit port => decide (port < 8)
  | .fecLockLossTimeout port => decide (port < 8)
  | .ackCreditTimeout port => decide (port < 8)
  | .portRetrain port => decide (port < 8)
  | .packetArrival a => decide (a.port < 8)
  | .resendTimeout _ => true
  | .deliveryTimeout _ => true
  | .linkDownNotice _ => true
  | .mc1LossTimeout _ => true
  | .arrivalNotice _ => true
  | .completionNotice _ => true
  | .peerRequest _ => true
  | .peerAnswer _ => true
  | .peerStoreAck _ => true
  | .tokenRequest _ => true
  | .tokenRevoke _ => true
  | .tokenRevokeAck _ => true
  | .tokenGrant _ => true
  | .tokenAnswer _ => true
  | .noneStateAccess _ => true
  | .commandDecode core _ => decide (core < Config.cores)
  | .commandCompletion core _ => decide (core < Config.cores)
  | .heldMessageDeposit core => decide (core < Config.cores)
  | .xsend core => decide (core < Config.cores)
  | .xloop core => decide (core < Config.cores)
  | .xloopChunkStart core => decide (core < Config.cores)
  | .xfill core => decide (core < Config.cores)
  | .gath core => decide (core < Config.cores)
  | .grem core => decide (core < Config.cores)
  | .gremRemoteGather _ => true
  | .gpage core => decide (core < Config.cores)
  | .scat core => decide (core < Config.cores)
  | .bookingRequest _ => true
  | .bookingAnswer _ => true
  | .pegArrival _ => true
  | .bookingLost core _ serial => decide (core < Config.cores) && decide (1 ≤ serial ∧ serial ≤ 4095)
  | .pitchSaveTimeout core _ => decide (core < Config.cores)
  | .leaveGrant clus => decide (clus < Config.clusters)
  | .mma core => decide (core < Config.cores)
  | .mmaq core => decide (core < Config.cores)
  | .mdist core => decide (core < Config.cores)
  | .mtopk core => decide (core < Config.cores)
  | .mverd core => decide (core < Config.cores)
  | .mzero core => decide (core < Config.cores)
  | .mldacc core => decide (core < Config.cores)
  | .mstacc core => decide (core < Config.cores)
  | .mxuTile oct => decide (oct < Config.octets)
  | .gangStart clus => decide (clus < Config.clusters)
  | .qgraph core => decide (core < Config.cores)
  | .qvar core => decide (core < Config.cores)
  | .qrun core => decide (core < Config.cores)
  | .qstop core => decide (core < Config.cores)
  | .qsample core => decide (core < Config.cores)
  | .qstorm core => decide (core < Config.cores)
  | .spktab core => decide (core < Config.cores)
  | .spkstep core => decide (core < Config.cores)
  | .phaseAChoose clus => decide (clus < Config.clusters)
  | .rootBroadcast clus => decide (clus < Config.clusters)
  | .phaseBFire clus => decide (clus < Config.clusters)
  | .eventDelivery _ => true
  | .phaseCRespond clus => decide (clus < Config.clusters)
  | .slopeReport _ => true
  | .sampleTake clus => decide (clus < Config.clusters)
  | .spikeRoute _ => true
  | .stepBarrierComplete _ => true
  | .launchRecordArrival die => decide (die < Config.dies)
  | .launchAdmit die => decide (die < Config.dies)
  | .dependenceDecrement _ => true
  | .corePartEnd core => decide (core < Config.cores)
  | .launchCompletion _ => true
  | .preemptionStop _ => true
  | .preemptionDrain _ => true
  | .preemptionWrite _ => true
  | .preemptionRelease _ => true
  | .restore _ => true
  | .launchFault _ => true
  | .faultNotice _ => true
  | .launchWatchdog _ => true
  | .progressWatchdog x => ctxOk x
  | .jobWatchdog _ => true
  | .debugHalt core => decide (core < Config.cores)
  | .debugResume core => decide (core < Config.cores)
  | .debugHoldNotice _ => true
  | .hostRegisterWrite _ bytes _ _ => decide (bytes ≤ 4096)
  | .counterClear off => decide (off.toNat % 8 = 0)
  | .hqenWrite _ => true
  | .hqsizeWrite _ => true
  | .hqtailWrite _ => true
  | .hostQueueEntry => true
  | .msixUnmask vec => decide (vec < 2048)
  | .spkownWrite _ => true
  | .pcapWrite _ => true
  | .lbudgetWrite clus _ => decide (clus < Config.clusters)
  | .jobWatchdogRefresh _ => true
  | .attestationRequest => true
  | .attestationReport => true
  | .recoveryGo => true
  | .recoveryVerifyDone => true
  | .boot => true
  | .thermalSample _ => true
  | .deviceReset => true
  | .fecBlockLockLoss port => decide (port < 8)
  | .fecBlockLockRegain port => decide (port < 8)
  | .qslopeAnswer _ => true
  | .dependenceTableAnswer _ => true
  | .debugStep core ctx => decide (core < Config.cores) && decide (ctx < Config.contexts)

end Sys2Proof
end

