-- ==== Sys2Proof/Decode.lean ====
section
/-!
DEFINITION. Decoding, total on every word (R188-R199), and the encoder written from the same tables. A word that is no
instruction is refused with the sub-cause that R197 gives it. Lengths are those of R198.
-/
namespace Sys2Proof

/-- The field of `k` bits of an instruction word from bit `lo` up (R3). -/
def fld (w : Word32) (lo k : Nat) : BitVec k := BitVec.ofNat k (w.toNat / 2 ^ lo)

/-- One bit of an instruction word. -/
def bitOf (w : Word32) (i : Nat) : Bool := decide (w.toNat / 2 ^ i % 2 = 1)

/-- A Bool as a one-bit number. -/
def b2n (b : Bool) : Nat := if b then 1 else 0

/-- A word of format R (and V): class, FN, D, A, B, M (R189). -/
def wordR (c f d a b m : Nat) : Word32 :=
  BitVec.ofNat 32 (c * 2 ^ 28 + f * 2 ^ 22 + d * 2 ^ 17 + a * 2 ^ 12 + b * 2 ^ 7 + m)

/-- A word of formats I, M and B: class, FN or CND, two registers, 14 bits (R189). -/
def wordI (c f d a i : Nat) : Word32 :=
  BitVec.ofNat 32 (c * 2 ^ 28 + f * 2 ^ 24 + d * 2 ^ 19 + a * 2 ^ 14 + i)

/-- A word of formats J and L: class 6, two bits, 26 bits of fields (R189). -/
def wordJ (k rest : Nat) : Word32 := BitVec.ofNat 32 (6 * 2 ^ 28 + k * 2 ^ 26 + rest)

/-- A word of format F: class 9, FN, VD, IMM20 (R189). -/
def wordF (f d i : Nat) : Word32 := BitVec.ofNat 32 (9 * 2 ^ 28 + f * 2 ^ 25 + d * 2 ^ 20 + i)

/-- The scope of a code (R191); code 7 is reserved. -/
def scopeOf (c : BitVec 3) : Option Scope :=
  match c with
  | 0 => some .ctx | 1 => some .core | 2 => some .oct | 3 => some .clus | 4 => some .die | 5 => some .mod
  | 6 => some .job | _ => none

/-- The code of a scope (R191). -/
def scopeCode : Scope → Nat
  | .ctx => 0 | .core => 1 | .oct => 2 | .clus => 3 | .die => 4 | .mod => 5 | .job => 6

/-- The access size of a code (R191). -/
def sizeOf (c : BitVec 2) : Size :=
  match c with
  | 0 => .b1 | 1 => .b2 | 2 => .b4 | _ => .b8

/-- The code of an access size (R191). -/
def sizeCode : Size → Nat
  | .b1 => 0 | .b2 => 1 | .b4 => 2 | .b8 => 3

/-- The AMO operation of a code (R192); 0xB-0xF are reserved. -/
def amoOf (c : BitVec 4) : Option AmoOp :=
  match c with
  | 0 => some .add | 1 => some .and | 2 => some .or | 3 => some .xor | 4 => some .min | 5 => some .max
  | 6 => some .minu | 7 => some .maxu | 8 => some .swap | 9 => some .fadd | 10 => some .fmax | _ => none

/-- The code of an AMO operation (R192). -/
def amoCode : AmoOp → Nat
  | .add => 0 | .and => 1 | .or => 2 | .xor => 3 | .min => 4 | .max => 5 | .minu => 6 | .maxu => 7 | .swap => 8
  | .fadd => 9 | .fmax => 10

/-- The scalar float format of M[1:0] (R164); 2 and 3 are reserved. -/
def ffmtOf (c : BitVec 2) : Option FFmt :=
  match c with
  | 0 => some .f32 | 1 => some .f64 | _ => none

/-- The code of a scalar float format. -/
def ffmtCode : FFmt → Nat
  | .f32 => 0 | .f64 => 1

/-- The rounding field M[4:2] of a scalar float operation (R164); 5 and 6 are reserved. -/
def rselOf (c : BitVec 3) : Option RSel :=
  match c with
  | 0 => some .rne | 1 => some .rtz | 2 => some .rup | 3 => some .rdn | 4 => some .rna | 7 => some .dyn | _ => none

/-- The code of a rounding field. -/
def rselCode : RSel → Nat
  | .rne => 0 | .rtz => 1 | .rup => 2 | .rdn => 3 | .rna => 4 | .dyn => 7

/-- The integer type M[6:5] of FCVTFI and FCVTIF (R215). -/
def intTyOf (c : BitVec 2) : IntTy :=
  match c with
  | 0 => .i32 | 1 => .i64 | 2 => .n32 | _ => .n64

/-- The code of an integer type. -/
def intTyCode : IntTy → Nat
  | .i32 => 0 | .i64 => 1 | .n32 => 2 | .n64 => 3

/-- The rounding source X of a vector instruction (R164). -/
def xmodeOf (c : BitVec 2) : XMode :=
  match c with
  | 0 => .dyn | 1 => .rne | 2 => .rtz | _ => .sr

/-- The code of a rounding source. -/
def xmodeCode : XMode → Nat
  | .dyn => 0 | .rne => 1 | .rtz => 2 | .sr => 3

/-- The element type of a ctl.vfmt code (R162); 3, 7 and 13-15 are illegal. -/
def etyOf (c : BitVec 4) : Option ETy :=
  match c with
  | 0 => some .i8 | 1 => some .i16 | 2 => some .i32 | 4 => some .n8 | 5 => some .n16 | 6 => some .n32
  | 8 => some .fp32 | 9 => some .bf16 | 10 => some .fp16 | 11 => some .e4m3 | 12 => some .e5m2 | _ => none

/-- The ctl.vfmt code of an element type (R162). -/
def etyCode : ETy → Nat
  | .i8 => 0 | .i16 => 1 | .i32 => 2 | .n8 => 4 | .n16 => 5 | .n32 => 6
  | .fp32 => 8 | .bf16 => 9 | .fp16 => 10 | .e4m3 => 11 | .e5m2 => 12

/-- The engine of M[1:0] (R90). -/
def engineOf (c : BitVec 2) : Engine :=
  match c with
  | 0 => .mxu | 1 => .cpe | 2 => .gte | _ => .cre

/-- The code of an engine (R90). -/
def engineCode : Engine → Nat
  | .mxu => 0 | .cpe => 1 | .gte => 2 | .cre => 3

/-- The queue end of M[1:0] (R249). -/
def qendOf (c : BitVec 2) : QEnd :=
  match c with
  | 0 => .dl | 1 => .dh | 2 => .el | _ => .eh

/-- The code of a queue end. -/
def qendCode : QEnd → Nat
  | .dl => 0 | .dh => 1 | .el => 2 | .eh => 3

/-- A predicate register from a 5-bit field; 8-31 are reserved values (R218, R287). -/
def predOf (r : Reg) : Option PReg := if r.toNat < 8 then some (BitVec.ofNat 3 r.toNat) else none

/-- The b operand of format V (R189, R264): with BM = 10 the field B is 0 and a literal follows. -/
def bsrcOf (bm : BitVec 2) (b : Reg) (lit : Word32) : Option BSrc :=
  match bm with
  | 0 => some (.vreg b)
  | 1 => some (.bank b)
  | 2 => if b = 0 then some (.lit lit) else none
  | _ => some (.scal b)

/-- BM and B of a b operand. -/
def bsrcCode : BSrc → Nat × Nat
  | .vreg b => (0, b.toNat) | .bank b => (1, b.toNat) | .lit _ => (2, 0) | .scal b => (3, b.toNat)

/-- The trailing literal of a b operand. -/
def bsrcLit : BSrc → List Word32
  | .lit w => [w] | _ => []

/-- The instruction when the check holds; else the reserved-field sub-cause (R197, order 4). -/
def chk (c : Bool) (i : Instr) : Except IllSub Instr := if c then .ok i else .error .reserved

/-- A reserved value of an optional field is the reserved-field sub-cause (R197, order 4). -/
def opt {α : Type} (o : Option α) (k : α → Except IllSub Instr) : Except IllSub Instr :=
  match o with
  | some x => k x
  | none => .error .reserved

/-- The FNs of class 0x8 whose entry accepts every BM (R198). -/
def takesBm (fn : BitVec 6) : Bool :=
  decide (fn.toNat ∈ [0x00, 0x01, 0x02, 0x03, 0x04, 0x05, 0x06, 0x07, 0x0A, 0x0B, 0x0C, 0x0D, 0x0E, 0x0F, 0x10,
    0x11, 0x12, 0x13, 0x14, 0x21, 0x2B, 0x2D, 0x2E])

/-- The words an instruction word occupies with its literals (R198): by class, FN and M[6:5] alone. -/
def wordsOf (w : Word32) : Nat :=
  if fld w 28 4 = 2 then
    if fld w 24 4 = 10 then 2 else if fld w 24 4 = 11 then 3 else 1
  else if fld w 28 4 = 8 then
    if takesBm (fld w 22 6) && decide (fld w 5 2 = 2) then 2 else 1
  else 1

/-- Class 0x0 (R192, R193). -/
def decode0 (w : Word32) : Except IllSub Instr :=
  let d := fld w 17 5; let a := fld w 12 5; let b := fld w 7 5; let m := fld w 0 7
  match fld w 22 6 with
  | 0 => .error .zeroWord
  | 1 => chk (decide (d = 0 ∧ a = 0 ∧ b = 0 ∧ m = 0)) .nop
  | 2 => chk (decide (d = 0 ∧ a = 0)) (.brk (fld w 0 12))
  | 3 => chk (decide (d = 0 ∧ a = 0)) (.sys (fld w 0 12))
  | 4 => chk (decide (d = 0 ∧ a = 0 ∧ b = 0 ∧ m = 0)) .rett
  | 5 => opt (scopeOf (fld w 0 3)) fun s => chk (decide (d = 0 ∧ a = 0 ∧ b = 0 ∧ fld w 3 4 ≠ 0)) (.fence (fld w 3 4) s)
  | 6 => chk (decide (a = 0)) (.csrr d (fld w 0 12))
  | 7 => .ok (.csrw d a (fld w 0 12))
  | 8 => .ok (.csrs d a (fld w 0 12))
  | 9 => .ok (.csrc d a (fld w 0 12))
  | 10 => chk (decide (b = 0 ∧ m = 0)) (.sleepu d a)
  | 11 => chk (decide (a = 0 ∧ b = 0 ∧ fld w 2 5 = 0)) (.prio d (fld w 0 2))
  | 12 => chk (decide (d = 0 ∧ a = 0 ∧ b = 0 ∧ fld w 2 5 = 0)) (.lexit (fld w 0 2))
  | 13 => chk (decide (d = 0 ∧ a = 0 ∧ b = 0 ∧ m = 0)) .yield
  | _ => .error .reserved

/-- Class 0x1, the integer operations, FN 0x00-0x1F (R194, R214). -/
def decode1i (w : Word32) : Except IllSub Instr :=
  let d := fld w 17 5; let a := fld w 12 5; let b := fld w 7 5; let wd := bitOf w 0
  match fld w 22 6 with
  | 0 => chk (decide (fld w 1 6 = 0)) (.add d a b wd)
  | 1 => chk (decide (fld w 1 6 = 0)) (.sub d a b wd)
  | 2 => chk (decide (fld w 1 6 = 0)) (.mul d a b wd)
  | 3 => chk (decide (fld w 1 6 = 0)) (.mulh d a b wd)
  | 4 => chk (decide (fld w 1 6 = 0)) (.mulhu d a b wd)
  | 5 => chk (decide (fld w 1 6 = 0)) (.div d a b wd)
  | 6 => chk (decide (fld w 1 6 = 0)) (.divu d a b wd)
  | 7 => chk (decide (fld w 1 6 = 0)) (.rem d a b wd)
  | 8 => chk (decide (fld w 1 6 = 0)) (.remu d a b wd)
  | 9 => chk (decide (fld w 1 6 = 0)) (.and d a b wd)
  | 10 => chk (decide (fld w 1 6 = 0)) (.or d a b wd)
  | 11 => chk (decide (fld w 1 6 = 0)) (.xor d a b wd)
  | 12 => chk (decide (fld w 1 6 = 0)) (.andn d a b wd)
  | 13 => chk (decide (fld w 1 6 = 0)) (.shl d a b wd)
  | 14 => chk (decide (fld w 1 6 = 0)) (.shr d a b wd)
  | 15 => chk (decide (fld w 1 6 = 0)) (.sra d a b wd)
  | 16 => chk (decide (fld w 1 6 = 0)) (.rotr d a b wd)
  | 17 => chk (decide (fld w 1 6 = 0)) (.min d a b wd)
  | 18 => chk (decide (fld w 1 6 = 0)) (.max d a b wd)
  | 19 => chk (decide (fld w 1 6 = 0)) (.minu d a b wd)
  | 20 => chk (decide (fld w 1 6 = 0)) (.maxu d a b wd)
  | 21 => chk (decide (fld w 1 6 = 0)) (.slt d a b wd)
  | 22 => chk (decide (fld w 1 6 = 0)) (.sltu d a b wd)
  | 23 => chk (decide (fld w 1 6 = 0)) (.seq d a b wd)
  | 24 => chk (decide (b = 0 ∧ fld w 1 6 = 0)) (.clz d a wd)
  | 25 => chk (decide (b = 0 ∧ fld w 1 6 = 0)) (.ctz d a wd)
  | 26 => chk (decide (b = 0 ∧ fld w 1 6 = 0)) (.popc d a wd)
  | 27 => chk (decide (b = 0 ∧ fld w 1 6 = 0)) (.brev d a wd)
  | 28 => chk (decide (b = 0 ∧ fld w 1 6 = 0)) (.bswap d a wd)
  | 29 => .ok (.ext d a b (bitOf w 6) (fld w 0 6))
  | 30 => .ok (.sel d a b (fld w 3 4) (fld w 0 3))
  | 31 => if bitOf w 3 then chk (decide (d = 0 ∧ b = 0 ∧ fld w 4 3 = 0)) (.movpToPredicate (fld w 0 3) a)
      else chk (decide (a = 0 ∧ b = 0 ∧ fld w 4 3 = 0)) (.movpToScalar d (fld w 0 3))
  | _ => .error .reserved

/-- Class 0x1, the float operations, FN 0x20-0x2E (R194, R215). -/
def decode1f (w : Word32) : Except IllSub Instr :=
  let d := fld w 17 5; let a := fld w 12 5; let b := fld w 7 5
  match fld w 22 6 with
  | 32 => opt (rselOf (fld w 2 3)) fun r => opt (ffmtOf (fld w 0 2)) fun f => chk (decide (fld w 5 2 = 0)) (.fadd d a b r f)
  | 33 => opt (rselOf (fld w 2 3)) fun r => opt (ffmtOf (fld w 0 2)) fun f => chk (decide (fld w 5 2 = 0)) (.fsub d a b r f)
  | 34 => opt (rselOf (fld w 2 3)) fun r => opt (ffmtOf (fld w 0 2)) fun f => chk (decide (fld w 5 2 = 0)) (.fmul d a b r f)
  | 35 => opt (rselOf (fld w 2 3)) fun r => opt (ffmtOf (fld w 0 2)) fun f => chk (decide (fld w 5 2 = 0)) (.ffma d a b r f)
  | 36 => opt (rselOf (fld w 2 3)) fun r => opt (ffmtOf (fld w 0 2)) fun f => chk (decide (fld w 5 2 = 0)) (.fdiv d a b r f)
  | 37 => opt (rselOf (fld w 2 3)) fun r => opt (ffmtOf (fld w 0 2)) fun f => chk (decide (b = 0 ∧ fld w 5 2 = 0)) (.fsqrt d a r f)
  | 38 => opt (ffmtOf (fld w 0 2)) fun f => chk (decide (fld w 2 5 = 0)) (.fmin d a b f)
  | 39 => opt (ffmtOf (fld w 0 2)) fun f => chk (decide (fld w 2 5 = 0)) (.fmax d a b f)
  | 40 => opt (ffmtOf (fld w 0 2)) fun f => chk (decide (fld w 2 5 = 0)) (.feq d a b f)
  | 41 => opt (ffmtOf (fld w 0 2)) fun f => chk (decide (fld w 2 5 = 0)) (.flt d a b f)
  | 42 => opt (ffmtOf (fld w 0 2)) fun f => chk (decide (fld w 2 5 = 0)) (.fle d a b f)
  | 43 => opt (rselOf (fld w 2 3)) fun r => opt (ffmtOf (fld w 0 2)) fun f => chk (decide (b = 0)) (.fcvtfi d a (intTyOf (fld w 5 2)) r f)
  | 44 => opt (rselOf (fld w 2 3)) fun r => opt (ffmtOf (fld w 0 2)) fun f => chk (decide (b = 0)) (.fcvtif d a (intTyOf (fld w 5 2)) r f)
  | 45 => opt (rselOf (fld w 2 3)) fun r => opt (ffmtOf (fld w 0 2)) fun f => chk (decide (b = 0 ∧ bitOf w 6 = false)) (.fcvtff d a (if bitOf w 5 then .f64 else .f32) r f)
  | 46 => opt (ffmtOf (fld w 0 2)) fun f => chk (decide (b = 0 ∧ fld w 2 5 = 0)) (.fclass d a f)
  | _ => .error .reserved

/-- Class 0x2 (R193, R217). -/
def decode2 (w l1 l2 : Word32) : Except IllSub Instr :=
  let d := fld w 19 5; let a := fld w 14 5
  match fld w 24 4 with
  | 0 => .ok (.addi d a (fld w 0 14))
  | 1 => .ok (.andi d a (fld w 0 14))
  | 2 => .ok (.ori d a (fld w 0 14))
  | 3 => .ok (.xori d a (fld w 0 14))
  | 7 => .ok (.slti d a (fld w 0 14))
  | 8 => .ok (.sltui d a (fld w 0 14))
  | 12 => .ok (.addiw d a (fld w 0 14))
  | 4 => chk (decide (fld w 6 8 = 0)) (.shli d a (fld w 0 6))
  | 5 => chk (decide (fld w 6 8 = 0)) (.shri d a (fld w 0 6))
  | 6 => chk (decide (fld w 6 8 = 0)) (.srai d a (fld w 0 6))
  | 9 => .ok (.lui d (fld w 0 19))
  | 10 => chk (decide (fld w 0 19 = 0)) (.liw d l1)
  | 11 => chk (decide (fld w 0 19 = 0)) (.lid d l1 l2)
  | _ => .error .reserved

/-- Class 0x5 (R193, R218). -/
def decode5 (w : Word32) : Except IllSub Instr :=
  let a := fld w 19 5; let b := fld w 14 5; let o := fld w 0 14
  match fld w 24 4 with
  | 0 => .ok (.beq a b o)
  | 1 => .ok (.bne a b o)
  | 2 => .ok (.blt a b o)
  | 3 => .ok (.bge a b o)
  | 4 => .ok (.bltu a b o)
  | 5 => .ok (.bgeu a b o)
  | 6 => .ok (.bbs a b o)
  | 7 => .ok (.bbc a b o)
  | 8 => opt (predOf a) fun p => opt (predOf b) fun q => .ok (.bp p q o)
  | 9 => opt (predOf a) fun p => opt (predOf b) fun q => .ok (.bnp p q o)
  | _ => .error .reserved

/-- Class 0x6 (R189, R190, R193); END = 0 is a reserved value. -/
def decode6 (w : Word32) : Except IllSub Instr :=
  match fld w 26 2 with
  | 0 => .ok (.jal (fld w 21 5) (fld w 0 21))
  | 1 => .ok (.jalr (fld w 21 5) (fld w 16 5) (fld w 0 16))
  | 2 => chk (decide (fld w 9 12 ≠ 0 ∧ fld w 0 9 = 0)) (.loop (fld w 21 5) (fld w 9 12))
  | _ => chk (decide (fld w 2 12 ≠ 0 ∧ fld w 0 2 = 0)) (.loopi (fld w 14 12) (fld w 2 12))

/-- Class 0x7 (R192, R193). -/
def decode7 (w : Word32) : Except IllSub Instr :=
  let d := fld w 19 5; let a := fld w 14 5
  match fld w 24 4 with
  | 0 => .ok (.ldb d a (fld w 0 14))
  | 1 => .ok (.ldbu d a (fld w 0 14))
  | 2 => .ok (.ldh d a (fld w 0 14))
  | 3 => .ok (.ldhu d a (fld w 0 14))
  | 4 => .ok (.ldw d a (fld w 0 14))
  | 5 => .ok (.ldwu d a (fld w 0 14))
  | 6 => .ok (.ldd d a (fld w 0 14))
  | 7 => .ok (.stb d a (fld w 0 14))
  | 8 => .ok (.sth d a (fld w 0 14))
  | 9 => .ok (.stw d a (fld w 0 14))
  | 10 => .ok (.std d a (fld w 0 14))
  | 11 => opt (scopeOf (fld w 11 3)) fun s => chk (decide (fld w 0 9 = 0)) (.ldaq d a s (sizeOf (fld w 9 2)))
  | 12 => opt (scopeOf (fld w 11 3)) fun s => chk (decide (fld w 0 9 = 0)) (.strl d a s (sizeOf (fld w 9 2)))
  | 13 => opt (amoOf (fld w 5 4)) fun o => opt (scopeOf (fld w 0 3)) fun s =>
      chk (amoSizeOk o (sizeOf (fld w 3 2))) (.amo d a (fld w 9 5) o (sizeOf (fld w 3 2)) s)
  | 14 => opt (scopeOf (fld w 0 3)) fun s => chk (decide (fld w 5 4 = 0)) (.cas d a (fld w 9 5) (sizeOf (fld w 3 2)) s)
  | _ => .error .reserved

/-- Class 0x8, FN 0x00-0x17 (R195). -/
def decode8a (w lit : Word32) : Except IllSub Instr :=
  let d := fld w 17 5; let a := fld w 12 5; let b := fld w 7 5; let bm := fld w 5 2; let p := fld w 2 3; let x := fld w 0 2
  match fld w 22 6 with
  | 0 => opt (bsrcOf bm b lit) fun s => .ok (.vadd d a s p (xmodeOf x))
  | 1 => opt (bsrcOf bm b lit) fun s => .ok (.vsub d a s p (xmodeOf x))
  | 2 => opt (bsrcOf bm b lit) fun s => .ok (.vmul d a s p (xmodeOf x))
  | 3 => opt (bsrcOf bm b lit) fun s => .ok (.vfma d a s p (xmodeOf x))
  | 4 => opt (bsrcOf bm b lit) fun s => .ok (.vfms d a s p (xmodeOf x))
  | 5 => opt (bsrcOf bm b lit) fun s => .ok (.vfnma d a s p (xmodeOf x))
  | 6 => opt (bsrcOf bm b lit) fun s => chk (decide (x = 0)) (.vmin d a s p)
  | 7 => opt (bsrcOf bm b lit) fun s => chk (decide (x = 0)) (.vmax d a s p)
  | 8 => chk (decide (b = 0 ∧ bm = 0 ∧ x = 0)) (.vabs d a p)
  | 9 => chk (decide (b = 0 ∧ bm = 0 ∧ x = 0)) (.vneg d a p)
  | 10 => opt (bsrcOf bm b lit) fun s => chk (decide (x = 0)) (.vmulh d a s p)
  | 11 => opt (bsrcOf bm b lit) fun s => chk (decide (x = 0)) (.vand d a s p)
  | 12 => opt (bsrcOf bm b lit) fun s => chk (decide (x = 0)) (.vor d a s p)
  | 13 => opt (bsrcOf bm b lit) fun s => chk (decide (x = 0)) (.vxor d a s p)
  | 14 => opt (bsrcOf bm b lit) fun s => chk (decide (x = 0)) (.vshl d a s p)
  | 15 => opt (bsrcOf bm b lit) fun s => chk (decide (x = 0)) (.vshr d a s p)
  | 16 => opt (bsrcOf bm b lit) fun s => chk (decide (x = 0)) (.vsra d a s p)
  | 17 => opt (bsrcOf bm b lit) fun s => opt (predOf d) fun q => chk (decide (x = 0)) (.vcmpeq q a s p)
  | 18 => opt (bsrcOf bm b lit) fun s => opt (predOf d) fun q => chk (decide (x = 0)) (.vcmplt q a s p)
  | 19 => opt (bsrcOf bm b lit) fun s => opt (predOf d) fun q => chk (decide (x = 0)) (.vcmple q a s p)
  | 20 => opt (bsrcOf bm b lit) fun s => chk (decide (x = 0)) (.vsel d a s p)
  | 21 => opt (etyOf (fld w 7 4)) fun t => .ok (.vcvt d a (bitOf w 11) t bm p (xmodeOf x))
  | 22 => chk (decide (b = 0 ∧ bm = 0)) (.vrsum d a p (xmodeOf x))
  | 23 => chk (decide (b = 0 ∧ bm = 0 ∧ x = 0)) (.vrmax d a p)
  | _ => .error .reserved

/-- Class 0x8, FN 0x18-0x2F (R195). -/
def decode8b (w lit : Word32) : Except IllSub Instr :=
  let d := fld w 17 5; let a := fld w 12 5; let b := fld w 7 5; let bm := fld w 5 2; let p := fld w 2 3; let x := fld w 0 2
  match fld w 22 6 with
  | 24 => chk (decide (b = 0 ∧ bm = 0 ∧ x = 0)) (.vrmin d a p)
  | 25 => chk (decide (bm = 0 ∧ x = 0)) (.vperm d a b p)
  | 26 => chk (decide (bm = 3 ∧ x = 0)) (.vbcast d a b p)
  | 27 => chk (decide (bm = 3 ∧ x = 0)) (.vslide d a b p)
  | 28 => chk (decide (b = 0 ∧ bm = 0 ∧ x = 0)) (.vcmprs d a p)
  | 29 => chk (decide (b = 0 ∧ bm = 0 ∧ x = 0)) (.vexpnd d a p)
  | 30 => chk (decide (b = 0 ∧ bm = 0 ∧ x = 0)) (.vnz d a p)
  | 31 => chk (decide (b = 0 ∧ bm = 0 ∧ x = 0)) (.vpopc d a p)
  | 32 => chk (decide (b = 0 ∧ bm = 0 ∧ p = 0 ∧ x = 0)) (.vxchg d a)
  | 33 => opt (bsrcOf bm b lit) fun s => .ok (.vdot4 d a s p (xmodeOf x))
  | 34 => if bitOf w 2 then chk (decide (bm = 3 ∧ fld w 3 2 = 0 ∧ x = 0)) (.vmovsExt d a b)
      else chk (decide (bm = 3 ∧ fld w 3 2 = 0 ∧ x = 0)) (.vmovsIns d a b)
  | 35 => chk (decide (b = 0 ∧ bm = 0)) (.vrcp d a p (xmodeOf x))
  | 36 => chk (decide (b = 0 ∧ bm = 0)) (.vrsq d a p (xmodeOf x))
  | 37 => chk (decide (b = 0 ∧ bm = 0)) (.vexp2 d a p (xmodeOf x))
  | 38 => chk (decide (b = 0 ∧ bm = 0)) (.vlog2 d a p (xmodeOf x))
  | 39 => chk (decide (b = 0 ∧ bm = 0)) (.vsin d a p (xmodeOf x))
  | 40 => chk (decide (b = 0 ∧ bm = 0)) (.vcos d a p (xmodeOf x))
  | 41 => chk (decide (b = 0 ∧ bm = 0)) (.vtanh d a p (xmodeOf x))
  | 42 => chk (decide (b = 0 ∧ bm = 0)) (.vsqrt d a p (xmodeOf x))
  | 43 => opt (bsrcOf bm b lit) fun s => .ok (.vdiv d a s p (xmodeOf x))
  | 44 => chk (decide (b = 0 ∧ bm = 0 ∧ x = 0)) (.vclass d a p)
  | 45 => opt (bsrcOf bm b lit) fun s => chk (decide (x = 0)) (.vvsel d a s p)
  | 46 => opt (bsrcOf bm b lit) fun s => opt (predOf d) fun q => chk (decide (x = 0)) (.vvcmp q a s p)
  | _ => .error .reserved

/-- Class 0x8, the predicate operations, FN 0x30-0x34 (R195, R287). -/
def decode8p (w : Word32) : Except IllSub Instr :=
  let d := fld w 17 5; let a := fld w 12 5; let b := fld w 7 5; let m := fld w 0 7
  match fld w 22 6 with
  | 48 => opt (predOf d) fun x => opt (predOf a) fun y => opt (predOf b) fun z => chk (decide (m = 0)) (.pand x y z)
  | 49 => opt (predOf d) fun x => opt (predOf a) fun y => opt (predOf b) fun z => chk (decide (m = 0)) (.por x y z)
  | 50 => opt (predOf d) fun x => opt (predOf a) fun y => opt (predOf b) fun z => chk (decide (m = 0)) (.pxor x y z)
  | 51 => opt (predOf d) fun x => opt (predOf a) fun y => chk (decide (b = 0 ∧ m = 0)) (.pnot x y)
  | 52 => opt (predOf d) fun x => chk (decide (b = 0 ∧ m = 0)) (.psetn x a)
  | _ => .error .reserved

/-- Class 0x9 (R193). -/
def decode9 (w : Word32) : Except IllSub Instr :=
  let d := fld w 20 5; let i := fld w 0 20
  match fld w 25 3 with
  | 0 => .ok (.vfaddi d i)
  | 1 => .ok (.vfmuli d i)
  | 2 => .ok (.vfmini d i)
  | 3 => .ok (.vfmaxi d i)
  | 4 => .ok (.vmovi d i)
  | 5 => .ok (.vfrsubi d i)
  | _ => .error .reserved

/-- Class 0xA (R195, R243-R251). -/
def decodeA (w : Word32) : Except IllSub Instr :=
  let d := fld w 17 5; let a := fld w 12 5; let b := fld w 7 5; let m := fld w 0 7
  match fld w 22 6 with
  | 0 => chk (decide (fld w 3 4 = 0)) (.vld d a b (fld w 0 3))
  | 1 => chk (decide (fld w 3 4 = 0)) (.vst d a b (fld w 0 3))
  | 2 => chk (decide (fld w 3 4 = 0)) (.vlds d a b (fld w 0 3))
  | 3 => chk (decide (fld w 3 4 = 0)) (.vsts d a b (fld w 0 3))
  | 4 => chk (decide (fld w 3 4 = 0)) (.vgath d a b (fld w 0 3))
  | 5 => chk (decide (fld w 3 4 = 0)) (.vscat d a b (fld w 0 3))
  | 6 => chk (decide (fld w 3 4 = 0)) (.vldbc d a b (fld w 0 3))
  | 7 => chk (decide (fld w 3 4 = 0)) (.strm d a b (bitOf w 2) (fld w 0 2))
  | 8 => chk (decide (a = 0 ∧ b = 0 ∧ m = 0)) (.unbnd d)
  | 9 => chk (decide (a = 0 ∧ b = 0 ∧ fld w 2 5 = 0)) (.qbind d (qendOf (fld w 0 2)))
  | 10 => chk (decide (b = 0 ∧ m = 0)) (.qmark d a)
  | 11 => chk (decide (a = 0 ∧ b = 0 ∧ m = 0)) (.qstat d)
  | 12 => chk (decide (b = 0 ∧ fld w 5 2 = 0 ∧ d.toNat + (fld w 0 5).toNat < 32)) (.vldk d a (fld w 0 5))
  | _ => .error .reserved

/-- Class 0xD (R195 and the entries it names). -/
def decodeD (w : Word32) : Except IllSub Instr :=
  let d := fld w 17 5; let a := fld w 12 5; let b := fld w 7 5; let m := fld w 0 7
  match fld w 22 6 with
  | 0 => chk (sendClassOk (fld w 0 5)) (.send d a b (bitOf w 6) (bitOf w 5) (fld w 0 5))
  | 1 => chk (sendClassOk (fld w 0 5) && decide (b.toNat ≤ 24)) (.sendk d a b (bitOf w 6) (bitOf w 5) (fld w 0 5))
  | 2 => chk (decide (fld w 1 6 = 0)) (.start d a b (bitOf w 0))
  | 3 => chk (decide (d = 0 ∧ a = 0 ∧ b = 0 ∧ m = 0)) .retire
  | 4 => opt (scopeOf (fld w 0 3)) fun s => chk (decide (fld w 3 4 = 0 ∧ s ≠ .ctx)) (.bar d a b s)
  | 5 => opt (scopeOf (fld w 0 3)) fun s => chk (decide (fld w 3 4 = 0 ∧ s ≠ .ctx)) (.barw d a b s)
  | 6 => chk (decide (fld w 1 6 = 0 ∧ (bitOf w 0 = true ∨ b = 0))) (.waitx d a b (bitOf w 0))
  | 7 => chk (decide (a = 0 ∧ b = 0 ∧ fld w 1 6 = 0)) (.inbox d (bitOf w 0))
  | 8 => chk (decide (fld w 2 5 = 0)) (.lzdef d a b (fld w 0 2))
  | 9 => chk (decide (fld w 1 6 = 0)) (.lzres d a b (bitOf w 0))
  | 10 => chk (decide (fld w 3 4 = 0)) (.lzwait d a b (bitOf w 2) (fld w 0 2))
  | 11 => (match fld w 2 2 with
      | 0 => chk (decide (a = 0 ∧ b = 0 ∧ fld w 4 3 = 0)) (.lzrelRearm d (fld w 0 2))
      | 1 => chk (decide (a = 0 ∧ b = 0 ∧ fld w 4 3 = 0)) (.lzrelUndef d (fld w 0 2))
      | 2 => chk (decide (b = 0 ∧ fld w 4 3 = 0 ∧ fld w 0 2 = 0)) (.lzrelBk d a)
      | _ => .error .reserved)
  | 12 => chk (decide (b = 0 ∧ fld w 1 6 = 0)) (.tkacq d a (bitOf w 0))
  | 13 => chk (decide (b = 0 ∧ fld w 1 6 = 0)) (.tkdup d a (bitOf w 0))
  | 14 => chk (decide (b = 0 ∧ fld w 1 6 = 0)) (.tkrel d a (bitOf w 0))
  | 15 => chk (decide (b = 0 ∧ fld w 1 6 = 0)) (.tksplit d a (bitOf w 0))
  | 16 => chk (decide (b = 0 ∧ fld w 1 6 = 0)) (.tkmerge d a (bitOf w 0))
  | 17 => chk (decide (b = 0 ∧ m = 0)) (.tkqry d a)
  | 18 => if bitOf w 0 then chk (decide (a = 0 ∧ b = 0 ∧ fld w 1 6 = 0)) (.leavePut d)
      else chk (decide (b = 0 ∧ fld w 1 6 = 0)) (.leaveGet d a)
  | 19 => chk (decide (b = 0 ∧ fld w 2 5 = 0)) (.enq d a (engineOf (fld w 0 2)))
  | 20 => chk (decide (b = 0 ∧ fld w 2 5 = 0)) (.epoll d a (engineOf (fld w 0 2)))
  | 21 => chk (decide (b = 0 ∧ fld w 2 5 = 0)) (.ecancel d a (engineOf (fld w 0 2)))
  | 22 => chk (decide (m = 0)) (.srel d a b)
  | 23 => chk (decide (m = 0)) (.swait d a b)
  | 24 => chk (decide (m = 0)) (.qslope d a b)
  | 25 => if bitOf w 0 then chk (decide (fld w 1 6 = 0)) (.depdecArm d a b)
      else chk (decide (fld w 1 6 = 0)) (.depdecDec d a b)
  | _ => .error .reserved

/-- The instruction of a word and of the two words after it, which are read only where R198 gives the word literals;
a word that fails a check of R197 gives its sub-cause. -/
def decode (w l1 l2 : Word32) : Except IllSub Instr :=
  match fld w 28 4 with
  | 0 => decode0 w
  | 1 => if (fld w 22 6).toNat < 32 then decode1i w else decode1f w
  | 2 => decode2 w l1 l2
  | 5 => decode5 w
  | 6 => decode6 w
  | 7 => decode7 w
  | 8 => if (fld w 22 6).toNat < 24 then decode8a w l1 else if (fld w 22 6).toNat < 48 then decode8b w l1 else decode8p w
  | 9 => decode9 w
  | 10 => decodeA w
  | 13 => decodeD w
  | _ => .error .hole

/-- Four bytes, the first at the lowest address (R4, R188). -/
def wordOfBytes (b0 b1 b2 b3 : Byte) : Word32 :=
  BitVec.ofNat 32 (b0.toNat + b1.toNat * 2 ^ 8 + b2.toNat * 2 ^ 16 + b3.toNat * 2 ^ 24)

/-- The bytes of a word, the first at the lowest address (R4, R188). -/
def bytesOfWord (w : Word32) : List Byte :=
  [BitVec.ofNat 8 w.toNat, BitVec.ofNat 8 (w.toNat / 2 ^ 8), BitVec.ofNat 8 (w.toNat / 2 ^ 16), BitVec.ofNat 8 (w.toNat / 2 ^ 24)]

/-- The first word of a list of bytes; bytes that are not there count as zero. -/
def headWord (bs : List Byte) : Word32 :=
  wordOfBytes (bs.getD 0 0) (bs.getD 1 0) (bs.getD 2 0) (bs.getD 3 0)

/-- Decoding from bytes: the instruction at their head, or its sub-cause, and the bytes after it (R198). -/
def decodeBytes (bs : List Byte) : Except IllSub Instr × List Byte :=
  (decode (headWord bs) (headWord (bs.drop 4)) (headWord (bs.drop 8)), bs.drop (4 * wordsOf (headWord bs)))

/-- The words of an instruction (R188-R198): its first word and its literals. Tile commands and events are never fetched
(R196) and have none. -/
def encode (i : Instr) : List Word32 :=
  match i with
  | .nop => [wordR 0 1 0 0 0 0]
  | .brk c => [wordR 0 2 0 0 0 c.toNat]
  | .sys c => [wordR 0 3 0 0 0 c.toNat]
  | .rett => [wordR 0 4 0 0 0 0]
  | .fence o s => [wordR 0 5 0 0 0 (o.toNat * 8 + scopeCode s)]
  | .csrr d n => [wordR 0 6 d.toNat 0 0 n.toNat]
  | .csrw d a n => [wordR 0 7 d.toNat a.toNat 0 n.toNat]
  | .csrs d a n => [wordR 0 8 d.toNat a.toNat 0 n.toNat]
  | .csrc d a n => [wordR 0 9 d.toNat a.toNat 0 n.toNat]
  | .sleepu d a => [wordR 0 10 d.toNat a.toNat 0 0]
  | .prio d n => [wordR 0 11 d.toNat 0 0 n.toNat]
  | .lexit l => [wordR 0 12 0 0 0 l.toNat]
  | .yield => [wordR 0 13 0 0 0 0]
  | .add d a b w => [wordR 1 0 d.toNat a.toNat b.toNat (b2n w)]
  | .sub d a b w => [wordR 1 1 d.toNat a.toNat b.toNat (b2n w)]
  | .mul d a b w => [wordR 1 2 d.toNat a.toNat b.toNat (b2n w)]
  | .mulh d a b w => [wordR 1 3 d.toNat a.toNat b.toNat (b2n w)]
  | .mulhu d a b w => [wordR 1 4 d.toNat a.toNat b.toNat (b2n w)]
  | .div d a b w => [wordR 1 5 d.toNat a.toNat b.toNat (b2n w)]
  | .divu d a b w => [wordR 1 6 d.toNat a.toNat b.toNat (b2n w)]
  | .rem d a b w => [wordR 1 7 d.toNat a.toNat b.toNat (b2n w)]
  | .remu d a b w => [wordR 1 8 d.toNat a.toNat b.toNat (b2n w)]
  | .and d a b w => [wordR 1 9 d.toNat a.toNat b.toNat (b2n w)]
  | .or d a b w => [wordR 1 10 d.toNat a.toNat b.toNat (b2n w)]
  | .xor d a b w => [wordR 1 11 d.toNat a.toNat b.toNat (b2n w)]
  | .andn d a b w => [wordR 1 12 d.toNat a.toNat b.toNat (b2n w)]
  | .shl d a b w => [wordR 1 13 d.toNat a.toNat b.toNat (b2n w)]
  | .shr d a b w => [wordR 1 14 d.toNat a.toNat b.toNat (b2n w)]
  | .sra d a b w => [wordR 1 15 d.toNat a.toNat b.toNat (b2n w)]
  | .rotr d a b w => [wordR 1 16 d.toNat a.toNat b.toNat (b2n w)]
  | .min d a b w => [wordR 1 17 d.toNat a.toNat b.toNat (b2n w)]
  | .max d a b w => [wordR 1 18 d.toNat a.toNat b.toNat (b2n w)]
  | .minu d a b w => [wordR 1 19 d.toNat a.toNat b.toNat (b2n w)]
  | .maxu d a b w => [wordR 1 20 d.toNat a.toNat b.toNat (b2n w)]
  | .slt d a b w => [wordR 1 21 d.toNat a.toNat b.toNat (b2n w)]
  | .sltu d a b w => [wordR 1 22 d.toNat a.toNat b.toNat (b2n w)]
  | .seq d a b w => [wordR 1 23 d.toNat a.toNat b.toNat (b2n w)]
  | .clz d a w => [wordR 1 24 d.toNat a.toNat 0 (b2n w)]
  | .ctz d a w => [wordR 1 25 d.toNat a.toNat 0 (b2n w)]
  | .popc d a w => [wordR 1 26 d.toNat a.toNat 0 (b2n w)]
  | .brev d a w => [wordR 1 27 d.toNat a.toNat 0 (b2n w)]
  | .bswap d a w => [wordR 1 28 d.toNat a.toNat 0 (b2n w)]
  | .ext d a b x l => [wordR 1 29 d.toNat a.toNat b.toNat (b2n x * 64 + l.toNat)]
  | .sel d a b i p => [wordR 1 30 d.toNat a.toNat b.toNat (i.toNat * 8 + p.toNat)]
  | .movpToScalar d p => [wordR 1 31 d.toNat 0 0 p.toNat]
  | .movpToPredicate p a => [wordR 1 31 0 a.toNat 0 (8 + p.toNat)]
  | .fadd d a b r f => [wordR 1 32 d.toNat a.toNat b.toNat (rselCode r * 4 + ffmtCode f)]
  | .fsub d a b r f => [wordR 1 33 d.toNat a.toNat b.toNat (rselCode r * 4 + ffmtCode f)]
  | .fmul d a b r f => [wordR 1 34 d.toNat a.toNat b.toNat (rselCode r * 4 + ffmtCode f)]
  | .ffma d a b r f => [wordR 1 35 d.toNat a.toNat b.toNat (rselCode r * 4 + ffmtCode f)]
  | .fdiv d a b r f => [wordR 1 36 d.toNat a.toNat b.toNat (rselCode r * 4 + ffmtCode f)]
  | .fsqrt d a r f => [wordR 1 37 d.toNat a.toNat 0 (rselCode r * 4 + ffmtCode f)]
  | .fmin d a b f => [wordR 1 38 d.toNat a.toNat b.toNat (ffmtCode f)]
  | .fmax d a b f => [wordR 1 39 d.toNat a.toNat b.toNat (ffmtCode f)]
  | .feq d a b f => [wordR 1 40 d.toNat a.toNat b.toNat (ffmtCode f)]
  | .flt d a b f => [wordR 1 41 d.toNat a.toNat b.toNat (ffmtCode f)]
  | .fle d a b f => [wordR 1 42 d.toNat a.toNat b.toNat (ffmtCode f)]
  | .fcvtfi d a t r f => [wordR 1 43 d.toNat a.toNat 0 (intTyCode t * 32 + rselCode r * 4 + ffmtCode f)]
  | .fcvtif d a t r f => [wordR 1 44 d.toNat a.toNat 0 (intTyCode t * 32 + rselCode r * 4 + ffmtCode f)]
  | .fcvtff d a s r f => [wordR 1 45 d.toNat a.toNat 0 (ffmtCode s * 32 + rselCode r * 4 + ffmtCode f)]
  | .fclass d a f => [wordR 1 46 d.toNat a.toNat 0 (ffmtCode f)]
  | .addi d a i => [wordI 2 0 d.toNat a.toNat i.toNat]
  | .andi d a i => [wordI 2 1 d.toNat a.toNat i.toNat]
  | .ori d a i => [wordI 2 2 d.toNat a.toNat i.toNat]
  | .xori d a i => [wordI 2 3 d.toNat a.toNat i.toNat]
  | .shli d a n => [wordI 2 4 d.toNat a.toNat n.toNat]
  | .shri d a n => [wordI 2 5 d.toNat a.toNat n.toNat]
  | .srai d a n => [wordI 2 6 d.toNat a.toNat n.toNat]
  | .slti d a i => [wordI 2 7 d.toNat a.toNat i.toNat]
  | .sltui d a i => [wordI 2 8 d.toNat a.toNat i.toNat]
  | .lui d v => [wordI 2 9 d.toNat 0 v.toNat]
  | .liw d w => [wordI 2 10 d.toNat 0 0, w]
  | .lid d lo hi => [wordI 2 11 d.toNat 0 0, lo, hi]
  | .addiw d a i => [wordI 2 12 d.toNat a.toNat i.toNat]
  | .beq a b o => [wordI 5 0 a.toNat b.toNat o.toNat]
  | .bne a b o => [wordI 5 1 a.toNat b.toNat o.toNat]
  | .blt a b o => [wordI 5 2 a.toNat b.toNat o.toNat]
  | .bge a b o => [wordI 5 3 a.toNat b.toNat o.toNat]
  | .bltu a b o => [wordI 5 4 a.toNat b.toNat o.toNat]
  | .bgeu a b o => [wordI 5 5 a.toNat b.toNat o.toNat]
  | .bbs a b o => [wordI 5 6 a.toNat b.toNat o.toNat]
  | .bbc a b o => [wordI 5 7 a.toNat b.toNat o.toNat]
  | .bp a b o => [wordI 5 8 a.toNat b.toNat o.toNat]
  | .bnp a b o => [wordI 5 9 a.toNat b.toNat o.toNat]
  | .jal d o => [wordJ 0 (d.toNat * 2 ^ 21 + o.toNat)]
  | .jalr d a i => [wordJ 1 (d.toNat * 2 ^ 21 + a.toNat * 2 ^ 16 + i.toNat)]
  | .loop a e => [wordJ 2 (a.toNat * 2 ^ 21 + e.toNat * 2 ^ 9)]
  | .loopi c e => [wordJ 3 (c.toNat * 2 ^ 14 + e.toNat * 4)]
  | .ldb d a i => [wordI 7 0 d.toNat a.toNat i.toNat]
  | .ldbu d a i => [wordI 7 1 d.toNat a.toNat i.toNat]
  | .ldh d a i => [wordI 7 2 d.toNat a.toNat i.toNat]
  | .ldhu d a i => [wordI 7 3 d.toNat a.toNat i.toNat]
  | .ldw d a i => [wordI 7 4 d.toNat a.toNat i.toNat]
  | .ldwu d a i => [wordI 7 5 d.toNat a.toNat i.toNat]
  | .ldd d a i => [wordI 7 6 d.toNat a.toNat i.toNat]
  | .stb d a i => [wordI 7 7 d.toNat a.toNat i.toNat]
  | .sth d a i => [wordI 7 8 d.toNat a.toNat i.toNat]
  | .stw d a i => [wordI 7 9 d.toNat a.toNat i.toNat]
  | .std d a i => [wordI 7 10 d.toNat a.toNat i.toNat]
  | .ldaq d a s z => [wordI 7 11 d.toNat a.toNat (scopeCode s * 2 ^ 11 + sizeCode z * 2 ^ 9)]
  | .strl d a s z => [wordI 7 12 d.toNat a.toNat (scopeCode s * 2 ^ 11 + sizeCode z * 2 ^ 9)]
  | .amo d a v o z s => [wordI 7 13 d.toNat a.toNat (v.toNat * 2 ^ 9 + amoCode o * 2 ^ 5 + sizeCode z * 8 + scopeCode s)]
  | .cas d a n z s => [wordI 7 14 d.toNat a.toNat (n.toNat * 2 ^ 9 + sizeCode z * 8 + scopeCode s)]
  | .vadd d a b p x => wordR 8 0 d.toNat a.toNat (bsrcCode b).2 ((bsrcCode b).1 * 32 + p.toNat * 4 + xmodeCode x) :: bsrcLit b
  | .vsub d a b p x => wordR 8 1 d.toNat a.toNat (bsrcCode b).2 ((bsrcCode b).1 * 32 + p.toNat * 4 + xmodeCode x) :: bsrcLit b
  | .vmul d a b p x => wordR 8 2 d.toNat a.toNat (bsrcCode b).2 ((bsrcCode b).1 * 32 + p.toNat * 4 + xmodeCode x) :: bsrcLit b
  | .vfma d a b p x => wordR 8 3 d.toNat a.toNat (bsrcCode b).2 ((bsrcCode b).1 * 32 + p.toNat * 4 + xmodeCode x) :: bsrcLit b
  | .vfms d a b p x => wordR 8 4 d.toNat a.toNat (bsrcCode b).2 ((bsrcCode b).1 * 32 + p.toNat * 4 + xmodeCode x) :: bsrcLit b
  | .vfnma d a b p x => wordR 8 5 d.toNat a.toNat (bsrcCode b).2 ((bsrcCode b).1 * 32 + p.toNat * 4 + xmodeCode x) :: bsrcLit b
  | .vmin d a b p => wordR 8 6 d.toNat a.toNat (bsrcCode b).2 ((bsrcCode b).1 * 32 + p.toNat * 4) :: bsrcLit b
  | .vmax d a b p => wordR 8 7 d.toNat a.toNat (bsrcCode b).2 ((bsrcCode b).1 * 32 + p.toNat * 4) :: bsrcLit b
  | .vabs d a p => [wordR 8 8 d.toNat a.toNat 0 (p.toNat * 4)]
  | .vneg d a p => [wordR 8 9 d.toNat a.toNat 0 (p.toNat * 4)]
  | .vmulh d a b p => wordR 8 10 d.toNat a.toNat (bsrcCode b).2 ((bsrcCode b).1 * 32 + p.toNat * 4) :: bsrcLit b
  | .vand d a b p => wordR 8 11 d.toNat a.toNat (bsrcCode b).2 ((bsrcCode b).1 * 32 + p.toNat * 4) :: bsrcLit b
  | .vor d a b p => wordR 8 12 d.toNat a.toNat (bsrcCode b).2 ((bsrcCode b).1 * 32 + p.toNat * 4) :: bsrcLit b
  | .vxor d a b p => wordR 8 13 d.toNat a.toNat (bsrcCode b).2 ((bsrcCode b).1 * 32 + p.toNat * 4) :: bsrcLit b
  | .vshl d a b p => wordR 8 14 d.toNat a.toNat (bsrcCode b).2 ((bsrcCode b).1 * 32 + p.toNat * 4) :: bsrcLit b
  | .vshr d a b p => wordR 8 15 d.toNat a.toNat (bsrcCode b).2 ((bsrcCode b).1 * 32 + p.toNat * 4) :: bsrcLit b
  | .vsra d a b p => wordR 8 16 d.toNat a.toNat (bsrcCode b).2 ((bsrcCode b).1 * 32 + p.toNat * 4) :: bsrcLit b
  | .vcmpeq d a b p => wordR 8 17 d.toNat a.toNat (bsrcCode b).2 ((bsrcCode b).1 * 32 + p.toNat * 4) :: bsrcLit b
  | .vcmplt d a b p => wordR 8 18 d.toNat a.toNat (bsrcCode b).2 ((bsrcCode b).1 * 32 + p.toNat * 4) :: bsrcLit b
  | .vcmple d a b p => wordR 8 19 d.toNat a.toNat (bsrcCode b).2 ((bsrcCode b).1 * 32 + p.toNat * 4) :: bsrcLit b
  | .vsel d a b p => wordR 8 20 d.toNat a.toNat (bsrcCode b).2 ((bsrcCode b).1 * 32 + p.toNat * 4) :: bsrcLit b
  | .vcvt d a sc t n p x => [wordR 8 21 d.toNat a.toNat (b2n sc * 16 + etyCode t) (n.toNat * 32 + p.toNat * 4 + xmodeCode x)]
  | .vrsum d a p x => [wordR 8 22 d.toNat a.toNat 0 (p.toNat * 4 + xmodeCode x)]
  | .vrmax d a p => [wordR 8 23 d.toNat a.toNat 0 (p.toNat * 4)]
  | .vrmin d a p => [wordR 8 24 d.toNat a.toNat 0 (p.toNat * 4)]
  | .vperm d a b p => [wordR 8 25 d.toNat a.toNat b.toNat (p.toNat * 4)]
  | .vbcast d a b p => [wordR 8 26 d.toNat a.toNat b.toNat (96 + p.toNat * 4)]
  | .vslide d a b p => [wordR 8 27 d.toNat a.toNat b.toNat (96 + p.toNat * 4)]
  | .vcmprs d a p => [wordR 8 28 d.toNat a.toNat 0 (p.toNat * 4)]
  | .vexpnd d a p => [wordR 8 29 d.toNat a.toNat 0 (p.toNat * 4)]
  | .vnz d a p => [wordR 8 30 d.toNat a.toNat 0 (p.toNat * 4)]
  | .vpopc d a p => [wordR 8 31 d.toNat a.toNat 0 (p.toNat * 4)]
  | .vxchg d a => [wordR 8 32 d.toNat a.toNat 0 0]
  | .vdot4 d a b p x => wordR 8 33 d.toNat a.toNat (bsrcCode b).2 ((bsrcCode b).1 * 32 + p.toNat * 4 + xmodeCode x) :: bsrcLit b
  | .vmovsIns d a b => [wordR 8 34 d.toNat a.toNat b.toNat 96]
  | .vmovsExt d a b => [wordR 8 34 d.toNat a.toNat b.toNat 100]
  | .vrcp d a p x => [wordR 8 35 d.toNat a.toNat 0 (p.toNat * 4 + xmodeCode x)]
  | .vrsq d a p x => [wordR 8 36 d.toNat a.toNat 0 (p.toNat * 4 + xmodeCode x)]
  | .vexp2 d a p x => [wordR 8 37 d.toNat a.toNat 0 (p.toNat * 4 + xmodeCode x)]
  | .vlog2 d a p x => [wordR 8 38 d.toNat a.toNat 0 (p.toNat * 4 + xmodeCode x)]
  | .vsin d a p x => [wordR 8 39 d.toNat a.toNat 0 (p.toNat * 4 + xmodeCode x)]
  | .vcos d a p x => [wordR 8 40 d.toNat a.toNat 0 (p.toNat * 4 + xmodeCode x)]
  | .vtanh d a p x => [wordR 8 41 d.toNat a.toNat 0 (p.toNat * 4 + xmodeCode x)]
  | .vsqrt d a p x => [wordR 8 42 d.toNat a.toNat 0 (p.toNat * 4 + xmodeCode x)]
  | .vdiv d a b p x => wordR 8 43 d.toNat a.toNat (bsrcCode b).2 ((bsrcCode b).1 * 32 + p.toNat * 4 + xmodeCode x) :: bsrcLit b
  | .vclass d a p => [wordR 8 44 d.toNat a.toNat 0 (p.toNat * 4)]
  | .vvsel d a b p => wordR 8 45 d.toNat a.toNat (bsrcCode b).2 ((bsrcCode b).1 * 32 + p.toNat * 4) :: bsrcLit b
  | .vvcmp d a b p => wordR 8 46 d.toNat a.toNat (bsrcCode b).2 ((bsrcCode b).1 * 32 + p.toNat * 4) :: bsrcLit b
  | .pand d a b => [wordR 8 48 d.toNat a.toNat b.toNat 0]
  | .por d a b => [wordR 8 49 d.toNat a.toNat b.toNat 0]
  | .pxor d a b => [wordR 8 50 d.toNat a.toNat b.toNat 0]
  | .pnot d a => [wordR 8 51 d.toNat a.toNat 0 0]
  | .psetn d a => [wordR 8 52 d.toNat a.toNat 0 0]
  | .vfaddi d i => [wordF 0 d.toNat i.toNat]
  | .vfmuli d i => [wordF 1 d.toNat i.toNat]
  | .vfmini d i => [wordF 2 d.toNat i.toNat]
  | .vfmaxi d i => [wordF 3 d.toNat i.toNat]
  | .vmovi d i => [wordF 4 d.toNat i.toNat]
  | .vfrsubi d i => [wordF 5 d.toNat i.toNat]
  | .vld d a b p => [wordR 10 0 d.toNat a.toNat b.toNat p.toNat]
  | .vst d a b p => [wordR 10 1 d.toNat a.toNat b.toNat p.toNat]
  | .vlds d a b p => [wordR 10 2 d.toNat a.toNat b.toNat p.toNat]
  | .vsts d a b p => [wordR 10 3 d.toNat a.toNat b.toNat p.toNat]
  | .vgath d a b p => [wordR 10 4 d.toNat a.toNat b.toNat p.toNat]
  | .vscat d a b p => [wordR 10 5 d.toNat a.toNat b.toNat p.toNat]
  | .vldbc d a b p => [wordR 10 6 d.toNat a.toNat b.toNat p.toNat]
  | .strm d a b wr g => [wordR 10 7 d.toNat a.toNat b.toNat (b2n wr * 4 + g.toNat)]
  | .unbnd d => [wordR 10 8 d.toNat 0 0 0]
  | .qbind d e => [wordR 10 9 d.toNat 0 0 (qendCode e)]
  | .qmark d a => [wordR 10 10 d.toNat a.toNat 0 0]
  | .qstat d => [wordR 10 11 d.toNat 0 0 0]
  | .vldk d a n => [wordR 10 12 d.toNat a.toNat 0 n.toNat]
  | .send d a b r nb c => [wordR 13 0 d.toNat a.toNat b.toNat (b2n r * 64 + b2n nb * 32 + c.toNat)]
  | .sendk d a b r nb c => [wordR 13 1 d.toNat a.toNat b.toNat (b2n r * 64 + b2n nb * 32 + c.toNat)]
  | .start d a b nb => [wordR 13 2 d.toNat a.toNat b.toNat (b2n nb)]
  | .retire => [wordR 13 3 0 0 0 0]
  | .bar d a b s => [wordR 13 4 d.toNat a.toNat b.toNat (scopeCode s)]
  | .barw d a b s => [wordR 13 5 d.toNat a.toNat b.toNat (scopeCode s)]
  | .waitx d a b p => [wordR 13 6 d.toNat a.toNat b.toNat (b2n p)]
  | .inbox d nb => [wordR 13 7 d.toNat 0 0 (b2n nb)]
  | .lzdef d a b p => [wordR 13 8 d.toNat a.toNat b.toNat p.toNat]
  | .lzres d a b nb => [wordR 13 9 d.toNat a.toNat b.toNat (b2n nb)]
  | .lzwait d a b nb p => [wordR 13 10 d.toNat a.toNat b.toNat (b2n nb * 4 + p.toNat)]
  | .lzrelRearm d p => [wordR 13 11 d.toNat 0 0 p.toNat]
  | .lzrelUndef d p => [wordR 13 11 d.toNat 0 0 (4 + p.toNat)]
  | .lzrelBk d a => [wordR 13 11 d.toNat a.toNat 0 8]
  | .tkacq d a nb => [wordR 13 12 d.toNat a.toNat 0 (b2n nb)]
  | .tkdup d a nb => [wordR 13 13 d.toNat a.toNat 0 (b2n nb)]
  | .tkrel d a nb => [wordR 13 14 d.toNat a.toNat 0 (b2n nb)]
  | .tksplit d a nb => [wordR 13 15 d.toNat a.toNat 0 (b2n nb)]
  | .tkmerge d a nb => [wordR 13 16 d.toNat a.toNat 0 (b2n nb)]
  | .tkqry d a => [wordR 13 17 d.toNat a.toNat 0 0]
  | .leaveGet d a => [wordR 13 18 d.toNat a.toNat 0 0]
  | .leavePut d => [wordR 13 18 d.toNat 0 0 1]
  | .enq d a e => [wordR 13 19 d.toNat a.toNat 0 (engineCode e)]
  | .epoll d a e => [wordR 13 20 d.toNat a.toNat 0 (engineCode e)]
  | .ecancel d a e => [wordR 13 21 d.toNat a.toNat 0 (engineCode e)]
  | .srel d a b => [wordR 13 22 d.toNat a.toNat b.toNat 0]
  | .swait d a b => [wordR 13 23 d.toNat a.toNat b.toNat 0]
  | .qslope d a b => [wordR 13 24 d.toNat a.toNat b.toNat 0]
  | .depdecDec d a b => [wordR 13 25 d.toNat a.toNat b.toNat 0]
  | .depdecArm d a b => [wordR 13 25 d.toNat a.toNat b.toNat 1]
  | .illegalWord _ _ => []
  | .deferredTrapEntry _ => []
  | .missedPromise _ => []
  | .sleepuWake _ => []
  | .streamReadahead _ _ => []
  | .queueEntryLand _ _ => []
  | .sfuServiceStart _ => []
  | .sfuResult _ => []
  | .vxchgComplete _ => []
  | .activeMessageArrival _ => []
  | .pageTableWalk _ _ => []
  | .patrolScrub _ _ _ => []
  | .flitReceive _ _ => []
  | .replayLimit _ => []
  | .fecLockLossTimeout _ => []
  | .ackCreditTimeout _ => []
  | .portRetrain _ => []
  | .packetArrival _ => []
  | .resendTimeout _ => []
  | .deliveryTimeout _ => []
  | .linkDownNotice _ => []
  | .mc1LossTimeout _ => []
  | .arrivalNotice _ => []
  | .completionNotice _ => []
  | .peerRequest _ => []
  | .peerAnswer _ => []
  | .peerStoreAck _ => []
  | .tokenRequest _ => []
  | .tokenRevoke _ => []
  | .tokenRevokeAck _ => []
  | .tokenGrant _ => []
  | .tokenAnswer _ => []
  | .noneStateAccess _ => []
  | .commandDecode _ _ => []
  | .commandCompletion _ _ => []
  | .heldMessageDeposit _ => []
  | .xsend _ => []
  | .xloop _ => []
  | .xloopChunkStart _ => []
  | .xfill _ => []
  | .gath _ => []
  | .grem _ => []
  | .gremRemoteGather _ => []
  | .gpage _ => []
  | .scat _ => []
  | .bookingRequest _ => []
  | .bookingAnswer _ => []
  | .pegArrival _ => []
  | .bookingLost _ _ _ => []
  | .pitchSaveTimeout _ _ => []
  | .leaveGrant _ => []
  | .mma _ => []
  | .mmaq _ => []
  | .mdist _ => []
  | .mtopk _ => []
  | .mverd _ => []
  | .mzero _ => []
  | .mldacc _ => []
  | .mstacc _ => []
  | .mxuTile _ => []
  | .gangStart _ => []
  | .qgraph _ => []
  | .qvar _ => []
  | .qrun _ => []
  | .qstop _ => []
  | .qsample _ => []
  | .qstorm _ => []
  | .spktab _ => []
  | .spkstep _ => []
  | .phaseAChoose _ => []
  | .rootBroadcast _ => []
  | .phaseBFire _ => []
  | .eventDelivery _ => []
  | .phaseCRespond _ => []
  | .slopeReport _ => []
  | .sampleTake _ => []
  | .spikeRoute _ => []
  | .stepBarrierComplete _ => []
  | .launchRecordArrival _ => []
  | .launchAdmit _ => []
  | .dependenceDecrement _ => []
  | .corePartEnd _ => []
  | .launchCompletion _ => []
  | .preemptionStop _ => []
  | .preemptionDrain _ => []
  | .preemptionWrite _ => []
  | .preemptionRelease _ => []
  | .restore _ => []
  | .launchFault _ => []
  | .faultNotice _ => []
  | .launchWatchdog _ => []
  | .progressWatchdog _ => []
  | .jobWatchdog _ => []
  | .debugHalt _ => []
  | .debugResume _ => []
  | .debugHoldNotice _ => []
  | .hostRegisterWrite _ _ _ _ => []
  | .counterClear _ => []
  | .hqenWrite _ => []
  | .hqsizeWrite _ => []
  | .hqtailWrite _ => []
  | .hostQueueEntry => []
  | .msixUnmask _ => []
  | .spkownWrite _ => []
  | .pcapWrite _ => []
  | .lbudgetWrite _ _ => []
  | .jobWatchdogRefresh _ => []
  | .attestationRequest => []
  | .attestationReport => []
  | .recoveryGo => []
  | .recoveryVerifyDone => []
  | .boot => []
  | .thermalSample _ => []
  | .deviceReset => []
  | .fecBlockLockLoss _ => []
  | .fecBlockLockRegain _ => []
  | .qslopeAnswer _ => []
  | .dependenceTableAnswer _ => []
  | .debugStep _ _ => []

/-- The `k` bytes of a number, the first the least significant (R4). -/
def bytesOfNat (k w : Nat) : List Byte :=
  match k with
  | 0 => []
  | k + 1 => BitVec.ofNat 8 w :: bytesOfNat k (w / 2 ^ 8)

/-- The instruction whose bits are those of `w`, bit 0 the least significant of its first word; every bit above `nbits` is 0. -/
def decodeTableWord (nbits w : Nat) : Option Instr :=
  match (decodeBytes (bytesOfNat 12 (w % 2 ^ nbits))).1 with
  | .ok i => some i
  | .error _ => none

end Sys2Proof
end

