-- ==== Sys2Proof/Machine/KMap.lean ====
section
/-!
DEFINITION. Sparse data by key: a list of key and value pairs in rising key order, and memory as a list of cells in one
canonical form. What an unlisted key reads as is given by the reader.
-/
namespace Sys2Proof.Machine

/-- A map from numbers to data: pairs in strictly rising key order. -/
abbrev KMap (α : Type) := List (Nat × α)

/-- The value at a key; `d` when the key is not listed. -/
def kget {α : Type} (d : α) (m : KMap α) (k : Nat) : α :=
  match m with
  | [] => d
  | (j, v) :: t => if j = k then v else kget d t k

/-- Whether a key is listed. -/
def kmem {α : Type} (m : KMap α) (k : Nat) : Bool := m.any (fun p => decide (p.1 = k))

/-- The map with a value put at a key. -/
def kset {α : Type} (m : KMap α) (k : Nat) (v : α) : KMap α :=
  match m with
  | [] => [(k, v)]
  | (j, w) :: t => if k < j then (k, v) :: (j, w) :: t else if k = j then (k, v) :: t else (j, w) :: kset t k v

/-- The map without a key. -/
def kdel {α : Type} (m : KMap α) (k : Nat) : KMap α := m.filter (fun p => decide (p.1 ≠ k))

/-- Keys in strictly rising order. -/
def ksorted {α : Type} (m : KMap α) : Bool :=
  match m with
  | [] => true
  | (j, _) :: t => t.all (fun p => decide (j < p.1)) && ksorted t

/-- Memory: cells of the slices, the local DRAM and the host memory, by one key space (`Ops.lean`). -/
abbrev Memory := List Host.Cell

/-- What an unlisted cell reads as: zero, by R473 for slices and local DRAM, and for host memory by log 2. -/
def emptyByte : Byte := 0

/-- One byte of memory. DESIGN CHOICE (log 2). -/
def mget (m : Memory) (a : Nat) : Byte := kget emptyByte m a

/-- Memory with one byte written: a byte equal to what an unlisted cell reads as is not listed. -/
def mset (m : Memory) (a : Nat) (b : Byte) : Memory := if b = emptyByte then kdel m a else kset m a b

/-- Canonical form: addresses strictly rising, no entry equal to what an unlisted cell reads as. -/
def memoryWf (m : Memory) : Bool := ksorted m && m.all (fun p => decide (p.2 ≠ emptyByte))

/-- Bytes written at addresses, in order. -/
def msetAll (m : Memory) (cells : List (Nat × Byte)) : Memory := cells.foldl (fun m c => mset m c.1 c.2) m

/-- An element of a list replaced. -/
def lset {α : Type} (l : List α) (n : Nat) (x : α) : List α := l.set n x

/-- The first element that meets a test, with its place. -/
def lfind {α : Type} (p : α → Bool) (l : List α) : Option (Nat × α) :=
  match l with
  | [] => none
  | x :: t => if p x then some (0, x) else (lfind p t).map (fun r => (r.1 + 1, r.2))

/-- The `n`-th element that meets a test, with its place. -/
def lfindN {α : Type} (p : α → Bool) (l : List α) (n : Nat) : Option (Nat × α) :=
  match l with
  | [] => none
  | x :: t =>
    if p x then
      match n with
      | 0 => some (0, x)
      | n + 1 => (lfindN p t n).map (fun r => (r.1 + 1, r.2))
    else (lfindN p t n).map (fun r => (r.1 + 1, r.2))

/-- The list without the element at a place. -/
def ldel {α : Type} (l : List α) (n : Nat) : List α := l.eraseIdx n

end Sys2Proof.Machine
end

