-- ==== Sys2Proof/Machine/Types.lean ====
section
/-!
DEFINITION. The records of State: what a context, a core, an octet, a cluster, a die and a launch hold. Units are named by
number: core k = 1,152·die + 48·cluster + core (R459), octet k/8, cluster 24·die + cluster, context 16·core + index.
-/
namespace Sys2Proof.Machine

/-- The four states of a context (R141). -/
inductive Status where
  | free | ready | blocked | halted
  deriving DecidableEq, Repr

/-- What a BLOCKED context waits for (R92, R141, R227). The waits from `sfu` on are ended by the event that brings the answer;
the others end when their condition holds, and the instruction is executed again. -/
inductive Wait where
  | sleep (t : Nat) (d : Reg)
  | acks
  | stream (g : BitVec 2)
  | qEmpty (high : Bool)
  | qFull (core : Nat) (high : Bool)
  | markerT
  | qbind (e : QEnd)
  | start
  | send (target : Nat) (cls : Nat)
  | barw (scope : Scope) (id : Nat) (target : Word)
  | waitx (id : Word)
  | prom (id : Word) (t : Word) (d : Reg)
  | inbox
  | lzwait (p : BitVec 2) (gen : Word)
  | swait (id : Word) (chunk : Word)
  | enq (e : Engine)
  | lzresBusy
  | sfuFull
  | vxBusy
  | sfu
  | vxchg
  | leave (units : Word) (d : Reg)
  | far
  | token (d : Reg)
  | book (d : Reg)
  | slope (d : Reg)
  | dep (d : Reg)
  | gen (d : Reg)
  deriving DecidableEq, Repr

/-- A group that a read stream has read ahead (R150, R247): it has come, or a fault is held with it. Its bytes are those at the pop,
which is the read that memory ordering counts (R403, R407). -/
inductive Ahead where
  | came
  | fault (cause : Nat) (va : Word)
  deriving DecidableEq, Repr

/-- An address generator bound to a register (R150, R246). -/
structure Stream where
  reg    : Reg
  wr     : Bool
  next   : Word
  stride : Word
  left   : Nat
  ahead  : List Ahead
  deriving DecidableEq, Repr

/-- A deferred trap held by its context (R172): ctl.tcause and ctl.tval. -/
structure Deferred where
  cause : Nat
  tval  : Word
  deriving DecidableEq, Repr

/-- A token that a store over several tokens holds until all are checked (R13, R71): its region, the module that keeps its place
(this module for one it holds itself), the request. -/
structure Hold where
  base : Nat
  node : Nat
  tag  : Nat
  deriving DecidableEq, Repr

/-- A hardware context (R142). -/
structure Ctx where
  /-- FREE, READY, BLOCKED or HALTED (R141). -/
  st : Status := .free
  /-- The program counter. -/
  pc : Word := 0
  /-- S0-s31 (R144). -/
  s : Vector Word 32 := Vector.replicate 32 0
  /-- V0-v31 (R147). -/
  v : Vector Vec 32 := Vector.replicate 32 0
  /-- P0-p7 (R145). -/
  p : Vector (BitVec 16) 8 := Vector.replicate 8 0
  /-- The constant bank k0-k31 (R146). -/
  k : Vector Word32 32 := Vector.replicate 32 0
  /-- ctl.status.MKR: the marker handler is active (R153). -/
  mkr : Bool := false
  /-- ctl.status.PM (R153). -/
  pm : Bool := false
  /-- ctl.status.SM (R153). -/
  sm : Bool := false
  /-- ctl.status.T (R153). -/
  t : Bool := false
  /-- ctl.tvec. -/
  tvec : Word := 0
  /-- ctl.tpc. -/
  tpc : Word := 0
  /-- ctl.tcause. -/
  tcause : Word := 0
  /-- ctl.tval. -/
  tval : Word := 0
  /-- ctl.mvec. -/
  mvec : Word := 0
  /-- ctl.mpc. -/
  mpc : Word := 0
  /-- ctl.mrk. -/
  mrk : Word := 0
  /-- ctl.vfmt. -/
  vfmt : BitVec 4 := 8
  /-- ctl.fcsr (R154). -/
  fcsr : Word := 0
  /-- ctl.fmode. -/
  fmode : Bool := false
  /-- ctl.rng (R177). -/
  rng : Word := 0
  /-- ctl.oor (R132). -/
  oor : Word := 0
  /-- The command whose offence ctl.oor holds: a lower byte that it reaches later lowers ADDR (R132). -/
  oorBy : Option Nat := none
  /-- ctl.wid0-ctl.wid7 (R383). -/
  wid : Vector Word 8 := Vector.replicate 8 0
  /-- ctl.mfmt (R155). -/
  mfmt : Word := 0x8BB
  /-- ctl.ascale. -/
  ascale : Word := 0
  /-- ctl.bscale. -/
  bscale : Word := 0
  /-- ctl.xprom (R95). -/
  xprom : Word := 0
  /-- The loop counts (R149). -/
  lc : Vector Word 4 := Vector.replicate 4 0
  /-- The loop starts. -/
  ls : Vector Word 4 := Vector.replicate 4 0
  /-- The loop ends. -/
  le : Vector Word 4 := Vector.replicate 4 0
  /-- ctl.ldepth. -/
  ldepth : Nat := 0
  /-- ctl.bankst.UB (R147). -/
  ub : BitVec 2 := 0
  /-- ctl.prio.MAX (R156). -/
  prioMax : BitVec 2 := 0
  /-- ctl.prio.PRIO (R156). -/
  prio : BitVec 2 := 0
  /-- The address generators of streams (R150). -/
  gens : Vector (Option Stream) 4 := Vector.replicate 4 none
  /-- The queue bindings (R151). -/
  qb : List (Reg × QEnd) := []
  /-- What a blocked context waits for (R141). -/
  wait : Option Wait := none
  /-- The order in which waits began (model). -/
  waitSeq : Nat := 0
  /-- When the wait began (R441). -/
  blockedAt : Nat := 0
  /-- Bytes of a remote access already answered (R65; model). -/
  answers : List (Word × Byte) := []
  /-- The remote access awaited (model). -/
  farTag : Option Nat := none
  /-- The regions whose tokens a store over several of them holds (R13, R71). -/
  holds : List Hold := []
  /-- Peer stores not yet acknowledged (R65). -/
  acks : List Nat := []
  /-- Deferred traps (R172). -/
  held : List Deferred := []
  /-- Leave units held (R401). -/
  leave : Nat := 0
  /-- Leave units to ask for again after a restore (R401). -/
  reask : Nat := 0
  /-- The class of the message that started the helper (R254). -/
  cls : Option Nat := none
  /-- What the device started the helper for (R349, R371). -/
  origin : Origin := .plain
  /-- The number of the start, by which late answers are told apart (model). -/
  start : Nat := 0
  /-- Cycles able and not issued (R397). -/
  age : Nat := 0
  /-- The cycle until which YIELD keeps it from issuing (R229). -/
  yieldTo : Nat := 0
  /-- The dirty bits of s0-s31, v0-v31, p0-p7 and k0-k31 (R437), set by the start of a launch and by each write. -/
  sd : BitVec 32 := 0
  vd : BitVec 32 := 0
  pd : BitVec 8 := 0
  kd : BitVec 32 := 0
  deriving DecidableEq, Repr

/-- A command of an engine queue (R85-R89, R93): its words, what was sampled at ENQ, its phase and its progress. `pos` is how
far the command has come in its own units; `out` counts pushes not yet acknowledged; `caps` are the vector registers captured at
ENQ (R304); `idx` the index array once it is read (R119); `flushed` and `abands` the elements 384·I + J of a matrix result that flushed or read an abandoned value (R171, R182);
`buf` the bytes read for a booking, by offset in the pitch; `parts` the participants of a spiking step. -/
structure EngCmd where
  uid    : Nat
  word   : Cmd
  id     : Nat
  ctx    : Nat
  start  : Nat
  priv   : Bool
  enqAt  : Nat := 0
  mfmt   : Word := 0
  ascale : Word := 0
  bscale : Word := 0
  fmode  : Bool := false
  phase  : Nat := 0
  status : Nat := 0
  grant  : Nat := 0
  asked  : Bool := false
  pos    : Nat := 0
  out    : Nat := 0
  moved  : Nat := 0
  fill   : Nat := 0
  rel    : Nat := 0
  word2  : Nat := 0
  flags  : Nat := 0
  traps  : List Deferred := []
  flushed : List Nat := []
  abands : List Nat := []
  caps   : List Vec := []
  buf    : List (Nat × Byte) := []
  parts  : List Nat := []
  idx    : Option (List Nat) := none
  answers : List (Word × Byte) := []
  farTag : Option Nat := none
  deriving DecidableEq, Repr

/-- A command that is complete (R96): its place in ENQ order, its id or tag, its status, and the chunks
filled of an XLOOP. -/
structure CmdPast where
  uid    : Nat
  id     : Nat
  status : Nat
  fill   : Option Nat := none
  deriving DecidableEq, Repr

/-- One engine queue of a core (R85): its commands in ENQ order, the past ones newest first, a held completion (R100). -/
structure EngQueue where
  cmds : List EngCmd := []
  past : List CmdPast := []
  deriving DecidableEq, Repr

/-- The state of a peg (R114). -/
inductive Peg where
  | free | booked (serial : Nat) | arrived | dead
  deriving DecidableEq, Repr

/-- A live booking as the owner of a pitch keeps it (R113, R114). -/
structure OwnBook where
  serial : Nat
  node   : Nat
  core   : Nat
  first  : Nat
  count  : Nat
  deriving DecidableEq, Repr

/-- A pitch (R110, R112, R114). `state` is the STATE field of ctl.lzst, `back` the one held before SAVING; `gone` are the serials
of cancelled bookings with the status their transfers complete with. -/
structure Pitch where
  base  : Nat := 0
  sz    : Nat := 0
  npeg  : Nat := 0
  tgt   : Nat := 0
  bind  : Nat := 0
  cls   : Nat := 0
  depe  : Nat := 0
  gen   : BitVec 32 := 0
  state : Nat := 0
  back  : Nat := 0
  arrived : Nat := 0
  last  : Nat := 0
  serial : Nat := 1
  pegs  : List Peg := []
  books : List OwnBook := []
  gone  : List (Nat × Nat) := []
  since : Nat := 0
  deriving DecidableEq, Repr

/-- A booking in its sender's table (R113): the id, the pegs pushed under it, the transfers not yet complete. -/
structure SendBook where
  id     : BookId
  pushed : List Nat := []
  open_  : List Nat := []
  deriving DecidableEq, Repr

/-- An entry of a neighbour queue (R151, R250): data or a marker code; it lands when its result is ready. `owed` is the context whose
result the slot was taken for and has not come. -/
structure QEntry where
  data   : Vec
  marker : Option (BitVec 31)
  landed : Bool
  ready  : Nat
  owed   : Option Nat := none
  deriving DecidableEq, Repr

/-- An entry of the inbox spill area (R100, R137): the message, whether it belongs to the completion queue, the place its bytes
fill, and the number of the unspecified bytes put there. -/
structure SpillEnt where
  compl : Bool
  msg   : Msg
  slot  : Nat
  tag   : Nat
  deriving DecidableEq, Repr

/-- A core (R17, R142). The handler table holds the image words of R384; `wdBase` is when its last engine command ended (R441);
`lzresTo` the node that its LZRES in flight asks, `stepOf` the context a debugger steps (R443); `ended` says that its part has ended (R393);
`slots` are the issue slots used in the core's current cycle and `issued` the contexts that have issued in it (R396, R397). -/
structure Core where
  launch : Option Nat := none
  lcore  : Word := 0
  svec   : Word := 0
  hand   : Vector Word 20 := Vector.replicate 20 0
  eng    : Vector EngQueue 4 := Vector.replicate 4 {}
  nextId : Nat := 0
  xwm    : Nat := 0
  doneIds : List Nat := []
  books  : List SendBook := []
  lzres  : Option Nat := none
  lzresTo : Nat := 0
  pitch  : Vector Pitch 4 := Vector.replicate 4 {}
  ql     : List QEntry := []
  qh     : List QEntry := []
  sp     : Nat := 16384
  spill  : List SpillEnt := []
  spillAt : Nat := 0
  refused : List Msg := []
  heldMsg : List (Engine × Msg) := []
  lastIss : Vector Nat 8 := Vector.replicate 8 10
  halted : Bool := false
  stepOf : Option Nat := none
  wdBase : Nat := 0
  ended  : Bool := false
  slots  : List Nat := []
  issued : List Nat := []
  deriving DecidableEq, Repr

/-- What a vector instruction writes when it completes: a vector, a predicate or a scalar register, flags, ctl.rng. -/
structure VRes where
  v     : Option (Reg × Vec) := none
  p     : Option (PReg × BitVec 16) := none
  s     : Option (Reg × Word) := none
  flags : Nat := 0
  rng   : Option Word := none
  deriving DecidableEq, Repr

/-- A request of the special-function unit (R284): its instruction, the registers it reads, what it will write, computed from
the operands read at issue, its cycles in service and when that began. -/
structure SfuReq where
  ctx   : Nat
  i     : Instr
  reads : List Reg
  res   : VRes
  cycles : Nat
  begun : Option Nat
  deriving DecidableEq, Repr

/-- An arrival at the octet exchange (R282): its context, its registers, the source read at issue, the cycle it came. -/
structure VxArr where
  ctx  : Nat
  d    : Reg
  a    : Reg
  src  : Vec
  time : Nat
  deriving DecidableEq, Repr

/-- The monitor state of an MVERD (R326): the elements 128·i + j that are abandoned, and G of the elements (unlisted: +0). -/
structure Monitor where
  dead  : List Nat := []
  g     : KMap Nat := []
  deriving DecidableEq, Repr

/-- An accumulator bank of the matrix unit (R297): the launch that claims it, its elements (unlisted: +0), the monitor state of each MVERD
that runs on it, by command (R326), the pairs of elements that hold a soft error, with whether it cannot be corrected (R299). -/
structure Bank where
  owner : Option Nat := none
  acc   : KMap Word32 := []
  errs  : List (Nat × Bool) := []
  mons  : KMap Monitor := []
  deriving DecidableEq, Repr

/-- An octet (R17): the arbiter's weights, the SFU, the exchange, the matrix unit with its arbiter's round (R294): where the next
round starts, the cores left in this one, its weights, the tiles the first of them has run; whether a gang holds the unit; the core
whose queue the copy engine served last (R85). -/
structure Octet where
  mxwt : Word := 0
  sfuq : List SfuReq := []
  vx   : List VxArr := []
  banks : Vector Bank 4 := Vector.replicate 4 {}
  turn : Nat := 0
  order : List Nat := []
  wts  : Word := 0
  used : Nat := 0
  stopped : Bool := false
  cpeLast : Nat := 0
  deriving DecidableEq, Repr

/-- Who asks for leave (R123, R399): a context, a command of a core's queue, a remote gather performed here. -/
inductive LeaveBy where
  | ctx (x : Nat)
  | cmd (core : Nat) (uid : Nat)
  | grem (uid : Nat)
  deriving DecidableEq, Repr

/-- A waiting request for leave (R399, R400). -/
structure LeaveReq where
  who   : LeaveBy
  units : Nat
  deriving DecidableEq, Repr

/-- The phase of a crossing engine's run (R347, R351, R352). -/
inductive CrePhase where
  | idle | choose | fire | wait | respond
  deriving DecidableEq, Repr

/-- A woken dependant (R348, R349): its index, how many events named it, whether it has reported. -/
structure Woken where
  ix    : Nat
  count : Nat
  reported : Bool := false
  deriving DecidableEq, Repr

/-- A crossing engine with the model bound to it (R357, R358): the launch and core that bound it, the model, its time, the step it is
at: phase, set time, sets of the run so far, whether its proposal is sent, events not acknowledged, whether it has fired and may
respond, its woken dependants, the mirror words written in this set with the place of the last writer in the order of R347, the time below
which samples are due while no run is active (R362). From `joins` on, what the root of a group keeps: participants that have joined, the proposals and
ends of phase B that have come, times broadcast, where pacing began. -/
structure Cre where
  owner  : Option Nat := none
  core   : Nat := 0
  priv   : Bool := false
  mid    : Nat := 0
  nbead  : Nat := 0
  btab   : Nat := 0
  parts  : List Nat := []
  t0     : Nat := 0
  time   : Nat := 0
  phase  : CrePhase := .idle
  setT   : Nat := 0
  nset   : Nat := 0
  sent   : Bool := false
  owed   : Nat := 0
  fired  : Bool := false
  respond : Bool := false
  woken  : List Woken := []
  mirs   : KMap Nat := []
  dueTo  : Nat := 0
  joins  : List Nat := []
  props  : List Proposal := []
  firedBy : List Nat := []
  nsent  : Nat := 0
  runD0  : Nat := 0
  runTs  : Nat := 0
  deriving DecidableEq, Repr

/-- A request to the gang sequencer (R312): the core, the command, whether it has been served. -/
structure GangReq where
  core : Nat
  uid  : Nat
  running : Bool := false
  deriving DecidableEq, Repr

/-- A cluster (R17): the governor's grants and waiting requests, the gang sequencer, the crossing engine, the core whose queue the
gather engine served last (R85). -/
structure Cluster where
  held  : Nat := 0
  waits : List LeaveReq := []
  gang  : List GangReq := []
  cre   : Cre := {}
  gteLast : Nat := 0
  deriving DecidableEq, Repr

/-- The state of a dependence-table entry (R390). -/
inductive DepSt where
  | idle | armed | firing
  deriving DecidableEq, Repr

/-- An entry of a dependence table (R390): locator, count, state, the job of its owner. -/
structure Dep where
  loc   : Word := 0
  count : Nat := 0
  st    : DepSt := .idle
  job   : Nat := 16
  deriving DecidableEq, Repr

/-- A launch record with its handler image, as the stage keeps it (R385); `host` is the host-queue entry that is still to be reported
(R461). -/
structure Pending where
  key   : Nat
  words : List Word
  image : List Word
  tacc  : Nat
  seq   : Nat
  root  : Nat
  rank  : Nat
  job   : Nat := 16
  restore : Bool := false
  host   : Option Nat := none
  deriving DecidableEq, Repr

/-- A die (R17): its launch stage, with the class-19 messages that wait for it, and its dependence table; the row of R471 in
force and since when it is cool. -/
structure Die where
  pend  : List Pending := []
  inbox : List Msg := []
  dep   : KMap Dep := []
  row   : Nat := 0
  cool  : Option Nat := none
  deriving DecidableEq, Repr

/-- A save image of one core of a launch (R434-R437): its number then; where it lies in DRAM, its length, the address of the launch's
previous image of the core, or zero; its core record; its live contexts, and the control context (R143), by index, each with the dirty
bits that say which registers the image holds; the lines of its slice that were dirty and the bytes of them that are not zero, by offset. -/
structure CoreImage where
  slot  : Nat
  addr  : Nat := 0
  len   : Nat := 0
  prev  : Nat := 0
  core  : Core
  ctxs  : List (Nat × Ctx)
  lines : List Nat
  bytes : List (Nat × Byte)
  deriving DecidableEq, Repr

/-- The saved state of a bank, by its old octet and place (R435). -/
structure BankImage where
  oct   : Nat
  bank  : Nat
  data  : Bank
  deriving DecidableEq, Repr

/-- The steps of a pre-emption (R433); `back` is a part that is restored and waits for the others (R438). -/
inductive Preempt where
  | no | stop | drain | write | release | saved | back
  deriving DecidableEq, Repr

/-- A launch on this module (R380-R394, R433): its record and handler image, the die that admitted it, its cores here in hardware order;
times; its modules, the root and this module's rank among them; faults; whether LAUNCH_FAULT has stopped it; pre-emptions and running
time (`ran` until `mark`); the step of a pre-emption, reports of other modules (8·node + step), the step
ordered, what was saved, newest first; when it was admitted; at the root the modules whose parts
have not ended, and those that have not freed what they held; whether every part has ended and this one has freed what it held (R393);
whether it used the module window (R438); when its last QRUN ended, and the QRUNs active at other modules (R441); its cores that a
debugger halts, at any module (R433); the ASIDs that ctl.ptroot has named beside the record's (R48); whether the completion record was
written, and by which remote access. -/
structure Launch where
  words  : List Word := []
  image  : List Word := []
  die    : Nat := 0
  asid   : Nat := 0
  job    : Nat := 16
  ptroot : Word := 0
  cores  : List Nat := []
  tacc   : Nat := 0
  tstart : Nat := 0
  tend   : Nat := 0
  seq    : Nat := 0
  nodes  : List Nat := []
  root   : Nat := 0
  rank   : Nat := 0
  began  : Bool := false
  fcnt   : Nat := 0
  first  : Option FaultRec := none
  stopped : Bool := false
  npre   : Nat := 0
  ran    : Nat := 0
  mark   : Nat := 0
  pre    : Preempt := .no
  preDone : List Nat := []
  preOrder : Nat := 0
  admitted : Nat := 0
  partsLeft : List Nat := []
  freeLeft : List Nat := []
  localEnd : Bool := false
  reported : Bool := false
  images : List CoreImage := []
  banks  : List BankImage := []
  cres   : List (Nat × Cre) := []
  modWin : Bool := false
  preSince : Nat := 0
  wdBase : Nat := 0
  qruns  : Nat := 0
  halts  : Nat := 0
  asids  : List Nat := []
  recSent : Bool := false
  recTag : Option Nat := none
  deriving DecidableEq, Repr

/-- A hardware barrier (R258, R259): launch, scope, unit, id; generation, open phase count, arrivals. -/
structure Barrier where
  launch : Nat
  scope  : Scope
  unit   : Nat
  id     : Nat
  gen    : BitVec 32 := 0
  need   : Option Nat := none
  came   : Nat := 0
  deriving DecidableEq, Repr

/-- The translation caches (R45): a core's for instructions and for data, a copy engine's by octet, a cluster's. -/
inductive Tlb where
  | inst (core : Nat)
  | data (core : Nat)
  | cpe (oct : Nat)
  | clus (c : Nat)
  deriving DecidableEq, Repr

/-- A table pointer in the walk cache of a die (R45): ASID, level of the table, the address bits that led to it, the table. -/
structure WalkEntry where
  die  : Nat
  asid : Nat
  lvl  : Nat
  hi   : Nat
  table : Nat
  deriving DecidableEq, Repr

/-- A cached translation of a page (R42, R45): the cache, ASID, page base, size, physical base, attributes of the leaf. -/
structure TlbEntry where
  tlb  : Tlb
  asid : Nat
  va   : Nat
  size : Nat
  pa   : Nat
  ent  : Word
  deriving DecidableEq, Repr

/-- The directory entry of a token at its home (R70). -/
structure DirEnt where
  excl : Option Nat
  dups : List Nat
  deriving DecidableEq, Repr

/-- A token transition in progress at the home (R70, R73, R74, R78): the request, the parties still to acknowledge with the state each
comes to hold, the grant that follows (whether with a copy), whether a party is lost (R84). DESIGN CHOICE (log 12). -/
structure TokJob where
  tag  : Nat
  node : Nat
  op   : TokOp
  sub  : Option Nat
  prev : TokSt
  waiting : List (Nat × TokSt)
  grant : Option (TokSt × Bool) := none
  lost : Bool := false
  deriving DecidableEq, Repr

/-- A store that a home has checked and keeps in its place until it is told to perform it or not (R13, R71): who asked, and what. -/
structure Lock where
  node : Nat
  tag  : Nat
  acc  : FarAcc
  deriving DecidableEq, Repr

/-- A region of tracked memory (R66-R70): home, the offset of the home's backing and of the module's own, own token states (one, or 32
when split), the lines written since EXCL was gained (R73), this module's requests in flight with the sub-region of each, bytes of a
grant copy that have come; at the home the directory, the transition in progress, a store checked and not yet performed. -/
structure Region where
  base   : Nat
  size   : Nat
  home   : Nat
  back   : Nat
  homeBack : Nat := 0
  split  : Bool := false
  own    : Vector TokSt 32 := Vector.replicate 32 .none
  lines  : List Nat := []
  pend   : List (Nat × Option Nat) := []
  copied : Nat := 0
  dir    : Vector DirEnt 32 := Vector.replicate 32 { excl := none, dups := [] }
  job    : Option TokJob := none
  lock   : Option Lock := none
  deriving DecidableEq, Repr

/-- A region as firmware creates it at a module (R69): the home holds EXCL, every other module NONE. -/
def newRegion (me base home back homeBack : Nat) : Region :=
  { base := base, size := 2 ^ 21, home := home, back := back, homeBack := homeBack
    own := Vector.replicate 32 (if home = me then .excl else .none)
    dir := Vector.replicate 32 { excl := some home, dups := [] } }

/-- A fabric port (R52, R53, R56): failed replays in a row of flits received and of flits sent, the next link sequence number to send
and the next to receive, the flits sent and not acknowledged with the packet of each, when FEC block lock was lost, when the last
acknowledgement or credit came, the free credits of each class at the far end, the packets that wait for credits. -/
structure Port where
  up     : Bool := false
  fails  : Nat := 0
  naks   : Nat := 0
  seq    : BitVec 12 := 0
  rseq   : BitVec 12 := 0
  retry  : List (BitVec 12 × Packet) := []
  lossAt : Option Nat := none
  ackAt  : Nat := 0
  credit : List Nat := []
  queue  : List Packet := []
  deriving DecidableEq, Repr

/-- A packet sent and not yet acknowledged (R54, R62): first and latest sending, the launch it serves, the port it left by, its number
among those sent, the context that caused it. -/
structure Sent where
  pkt   : Packet
  first : Nat
  last  : Nat
  launch : Option Nat
  port  : Option Nat := none
  num   : Nat := 0
  who   : Option Nat := none
  deriving DecidableEq, Repr

/-- A flow of a class between two nodes (R62): the next SEQ to send and the next one to deliver. -/
structure Flow where
  peer : Nat
  cls  : Nat
  tx   : Nat
  rx   : Nat
  deriving DecidableEq, Repr

/-- Who waits for the answer of a remote access (R65, R71): a context, a command, a launch whose completion record it is (R393). -/
inductive Asker where
  | ctx (x : Nat) (start : Nat)
  | cmd (core : Nat) (e : Engine) (uid : Nat)
  | record (launch : Nat)
  deriving DecidableEq, Repr

/-- A remote access, a token request or a push that has left and is not answered (R63, R65, R78): its virtual addresses, kind, node, the
places of the bytes answered, when it left; whether it is a push; whether its answer comes in order. -/
structure FarReq where
  tag   : Nat
  who   : Asker
  kind  : AccKind
  vas   : List Nat
  node  : Nat
  launch : Option Nat
  got   : List Nat := []
  since : Nat := 0
  push  : Bool := false
  ob    : Bool := false
  deriving DecidableEq, Repr

/-- A known link-down notice (R82): the two nodes, the dimension, when it came. -/
structure LinkDown where
  a : Nat
  b : Nat
  dim : Nat
  time : Nat
  swept : Bool := false
  deriving DecidableEq, Repr

/-- A transfer being received (R63): the sender, the bytes that have come of its total (zero: not known yet), those written, the status,
the place of the byte that met an error; the launch it serves; the bytes that have come for each peg. -/
structure Xfer where
  node : Nat
  core : Nat
  tag  : Nat
  launch : Option Nat := none
  got  : Nat
  total : Nat
  bytes : Nat
  status : Nat
  place : Nat := 0
  pegs : KMap Nat := []
  deriving DecidableEq, Repr

/-- A remote gather at the module that owns the rows (R120, R121, R123): the requester, its command, what it asks for, the cluster
whose engine reads the rows, its leave; once the rows are read, the pushes not acknowledged and what they came to, and the pegs pushed. -/
structure Grem where
  uid  : Nat
  node : Nat
  core : Nat
  cmd  : Nat
  launch : Option Nat := none
  nidx : Nat := 0
  idx  : List Nat := []
  base : Nat := 0
  lo   : Nat := 0
  hi   : Nat := 0
  row  : Nat := 0
  rstr : Nat := 0
  book : BookId := 0
  ord  : Bool := false
  clus : Nat := 0
  asked : Bool := false
  grant : Nat := 0
  started : Bool := false
  left : Nat := 0
  bytes : Nat := 0
  status : Nat := 0
  place : Nat := 0
  pegs : List Nat := []
  deriving DecidableEq, Repr

/-- The spike router (R367): 16-byte entries and list words by index. -/
structure SpikeRouter where
  ents : KMap (BitVec 128) := []
  list : KMap (BitVec 16) := []
  deriving DecidableEq, Repr

/-- A step of a spiking group at the module of its root (R371, R372): the participants, the step, who has joined and when last, the
spikes made and routed by their hops, copies delivered to cores and handlers retired, lost spikes; once it is complete, when.
DEDUCED (log 17). -/
structure StepGroup where
  parts  : List Nat
  step   : Nat
  joined : List Nat := []
  lastJoin : Nat := 0
  tstep  : Nat := 0
  made   : KMap Nat := []
  routed : KMap Nat := []
  loc    : Nat := 0
  retired : Nat := 0
  lost   : Nat := 0
  done   : Option Nat := none
  deriving DecidableEq, Repr

/-- A job slot (R442, R445): since when its watchdog counts, what it counted before, debug holds in force, when the first began. -/
structure Job where
  since : Nat := 0
  count : Nat := 0
  holds : Nat := 0
  heldAt : Nat := 0
  deriving DecidableEq, Repr

/-- A register that a debugger names (R443). -/
inductive RegName where
  | s (r : Reg)
  | v (r : Reg)
  | p (r : PReg)
  | k (r : Reg)
  | pc
  deriving DecidableEq, Repr

/-- What reaches the module from outside and has no row of its own in the opcode table (log 73): a soft error that appears (R29, R139,
R299) or is found (R432), in one bit or in two; a read of BAR0 by the host (R451); a debugger's write of a register or of a slice byte
of a halted core (R443); what firmware sets up for a job: a region (R66, R69), the DRAM for save images (R437). -/
inductive Input where
  | softError (site : EccSite) (double : Bool)
  | hostRead (off : Nat) (len : Nat)
  | debugReg (x : Nat) (r : RegName) (w : Vec)
  | debugByte (core : Nat) (off : Nat) (b : Byte)
  | declare (base : Nat) (home : Nat) (back : Nat) (homeBack : Nat)
  | reserve (base : Nat) (size : Nat)
  deriving DecidableEq, Repr

/-- What comes next (log 4): an event, the issue of a context's next instruction, or an input. -/
inductive Act where
  | event (i : Instr)
  | issue (x : Nat)
  | input (i : Input)
  deriving DecidableEq, Repr

/-- An interrupt sent (R462), or a host-visible write in order. -/
abbrev Irq := Nat

end Sys2Proof.Machine
end

