-- ==== Sys2Proof/Machine/State.lean ====
section
/-!
DEFINITION. The state of one MZ-FJ48 module (INVENTORY.md, State), the reasons a step may stop, and the state after reset.
-/
namespace Sys2Proof.Machine

/-- Why a step stops with a fault. No instruction of this machine does: an architectural fault (R428) is a next state in
which the launch is marked, and `stuck` is raised by nothing. -/
inductive Fault where
  /-- Raised by nothing: every trap and fault of the spec is a next state. Safe. -/
  | stuck
  deriving DecidableEq, Repr

/-- Why a step is refused. -/
inductive Refusal where
  /-- The dispatcher: an instruction whose meaning is not written yet, by name. Safe. -/
  | notModelled (mnemonic : String)
  deriving DecidableEq, Repr

/-- The state of the module. `turn`, `agenda`, `nonce`, `flip` and `uid` are the model's own (log 4, log 5). -/
structure State where
  /-- The context whose instruction executes (model). -/
  turn : Nat
  /-- Acts that come next, before the machine's own choice (model, log 4). -/
  agenda : List Act
  /-- The number of the next free value (model). -/
  nonce : Nat
  /-- Events and issues take turns (model, log 4). -/
  flip : Bool
  /-- The number of the next request, command, start or key (model). -/
  uid : Nat
  /-- Device time in ns, and core cycles (R159; log 5). -/
  cycle : Nat
  /-- The bytes of slices, local DRAM and host memory (R28, R37, R126), by one key space. -/
  mem : Memory
  /-- Units of memory with an uncorrectable error, by their first cell: 8 bytes of a slice, 64 bytes of DRAM (R29, R139). -/
  poison : List Nat
  /-- Units of memory with a single-bit error, by their first cell (R29, R139). -/
  soft : List Nat
  /-- Lines of 256 bytes of slices that are not dirty (R129). -/
  clean : List Nat
  /-- Cached translations (R45). -/
  tlb : List TlbEntry
  /-- Cached table pointers (R45). -/
  walks : List WalkEntry
  /-- Contexts, by 16·core + index (R141). -/
  ctxs : KMap Ctx
  /-- Cores (R18). -/
  cores : KMap Core
  /-- Octets with their matrix unit, exchange and special-function unit (R19). -/
  octs : KMap Octet
  /-- Clusters with their governor and crossing engine (R20, R399). -/
  clus : KMap Cluster
  /-- Dies with their launch stage and dependence table (R17, R385, R390). -/
  dies : KMap Die
  /-- Launches with a part here, by key (R388). -/
  launches : KMap Launch
  /-- Hardware barriers in use (R258, R259). -/
  bars : List Barrier
  /-- Shared regions of the job with their tokens (R66-R70). -/
  regions : List Region
  /-- The eight fabric ports (R52). -/
  ports : Vector Port 8
  /-- Sequence numbers by peer and class (R62). -/
  flows : List Flow
  /-- Packets kept until acknowledged (R62, R63). -/
  sent : List Sent
  /-- Packets delivered here that wait for their unit (R61). -/
  arrived : List Packet
  /-- Remote accesses that wait for answers (R65, R71). -/
  fars : List FarReq
  /-- Link-down notices known (R82). -/
  notices : List LinkDown
  /-- Transfers counted by their receiver (R63). -/
  xfers : List Xfer
  /-- Remote gathers performed here (R120). -/
  grems : List Grem
  /-- The spike router (R367). -/
  spk : SpikeRouter
  /-- Steps of spiking groups counted here (R371). -/
  steps : List StepGroup
  /-- Registers of BAR0 that have been written (R451-R459); another holds its reset value. -/
  regs : KMap Word
  /-- Job slots: watchdogs and debug holds (R442, R445). -/
  jobs : KMap Job
  /-- The job's extents X, Y, Z, W (R57). -/
  dims : Nat × Nat × Nat × Nat
  /-- The firmware image in the package flash (R465). -/
  flash : List Byte
  /-- An image read from the host, in verification (R467). -/
  recov : Option (List Byte)
  /-- Measurement M1 (R469). -/
  measured : BitVec 384
  /-- MSI-X vectors sent, oldest first (R462). -/
  irqs : List Irq
  /-- Packets put on ports, oldest first (R54). -/
  outbox : List (Nat × Packet)
  /-- The DRAM that firmware keeps for save images (R437): its offset and its size. -/
  saveArea : Nat × Nat
  /-- The host window base before firmware changed it while a launch was on the module (R452). -/
  hwOld : Option Word
  deriving DecidableEq, Repr

/-- The machine right after reset (R10, R463, R473): RESET state of BSTAT, nothing running, ports down, every byte zero. -/
def State.reset : State where
  turn := 0
  agenda := []
  nonce := 0
  flip := false
  uid := 0
  cycle := 0
  mem := []
  poison := []
  soft := []
  clean := []
  tlb := []
  walks := []
  ctxs := []
  cores := []
  octs := []
  clus := []
  dies := []
  launches := []
  bars := []
  regions := []
  ports := Vector.replicate 8 {}
  flows := []
  sent := []
  arrived := []
  fars := []
  notices := []
  xfers := []
  grems := []
  spk := {}
  steps := []
  regs := []
  jobs := []
  dims := (1, 1, 1, 1)
  flash := []
  recov := none
  measured := 0
  irqs := []
  outbox := []
  saveArea := (0, 0)
  hwOld := none

end Sys2Proof.Machine
end

