-- ==== Sys2Proof/Machine/Route.lean ====
section
/-!
DEFINITION. Topology and routes (R57-R60, R82): coordinates, neighbours, the deterministic route with its detours, and which
nodes a module can reach. A port is numbered 0-7 for +X, -X, +Y, -Y, +Z, -Z, +W, -W; a dimension 0-3 for X, Y, Z, W.
-/
namespace Sys2Proof.Machine

/-- The coordinate of a node in a dimension (R57). -/
def coord (n d : Nat) : Nat :=
  match d with
  | 0 => n % 4 | 1 => n / 4 % 4 | 2 => n / 16 % 16 | _ => n / 256 % 16

/-- The weight of a dimension in a node id (R57). -/
def dimUnit (d : Nat) : Nat :=
  match d with
  | 0 => 1 | 1 => 4 | 2 => 16 | _ => 256

/-- The extent of the job in a dimension. -/
def extent (s : State) (d : Nat) : Nat :=
  match d with
  | 0 => s.dims.1 | 1 => s.dims.2.1 | 2 => s.dims.2.2.1 | _ => s.dims.2.2.2

/-- The neighbour of a node in a dimension and direction (R57): X and Y are meshes, Z and W wrap; none where the port is
unconnected. -/
def neighbour (s : State) (n d : Nat) (plus : Bool) : Option Nat :=
  let c := coord n d
  let e := extent s d
  let base := n - c * dimUnit d
  if d < 2 then
    (if plus then (if c + 1 < e then some (base + (c + 1) * dimUnit d) else none)
     else (if 0 < c then some (base + (c - 1) * dimUnit d) else none))
  else if e ≤ 1 then none
  else if plus then some (base + (c + 1) % e * dimUnit d)
  else some (base + (c + e - 1) % e * dimUnit d)

/-- The direction a route takes in a dimension (R58): in a torus the shorter way, + when both are equal. -/
def direction (s : State) (at_ dst d : Nat) : Bool :=
  let c := coord at_ d
  let t := coord dst d
  if d < 2 then decide (c < t)
  else decide ((t + extent s d - c) % extent s d * 2 ≤ extent s d)

/-- The port of a dimension and direction. -/
def portOf (d : Nat) (plus : Bool) : Nat := 2 * d + (if plus then 0 else 1)

/-- A known notice names this link (R82). -/
def linkNoticed (l : List LinkDown) (a b d : Nat) : Bool :=
  l.any (fun x => x.dim == d && ((x.a == a && x.b == b) || (x.a == b && x.b == a)))

/-- The link from a node in a dimension and direction is usable, as the module `me` knows; its far end. -/
def linkTo (s : State) (l : List LinkDown) (me n d : Nat) (plus : Bool) : Option Nat :=
  match neighbour s n d plus with
  | some b =>
    if linkNoticed l n b d then none
    else if n = me ∧ ((s.ports.toList.getD (portOf d plus) {}).up = false) then none
    else if b = me ∧ ((s.ports.toList.getD (portOf d (!plus)) {}).up = false) then none
    else some b
  | none => none

/-- A hop of a route: from, to, dimension, direction. -/
structure Hop where
  a : Nat
  b : Nat
  dim : Nat
  plus : Bool
  deriving DecidableEq, Repr

/-- The first hop among dimensions and directions tried in turn. -/
def firstHop (s : State) (l : List LinkDown) (me n : Nat) (tries : List (Nat × Bool)) : Option Hop :=
  tries.findSome? (fun t => (linkTo s l me n t.1 t.2).map (fun b => { a := n, b := b, dim := t.1, plus := t.2 }))

/-- A sidestep and the wanted hop after it (R59). -/
def aroundHops (s : State) (l : List LinkDown) (me n d : Nat) (plus : Bool) (tries : List (Nat × Bool)) : Option (List Hop) :=
  tries.findSome? (fun t =>
    match linkTo s l me n t.1 t.2 with
    | some b =>
      (linkTo s l me b d plus).map (fun c => [{ a := n, b := b, dim := t.1, plus := t.2 }, { a := b, b := c, dim := d, plus := plus }])
    | none => none)

/-- The hops from a node toward a destination in the next dimension to correct (R58), or the detour around them (R59). -/
def nextHops (s : State) (l : List LinkDown) (me n dst : Nat) : Option (List Hop) :=
  match [2, 3, 1, 0].find? (fun d => coord n d != coord dst d) with
  | none => some []
  | some d =>
    let plus := direction s n dst d
    match linkTo s l me n d plus with
    | some b => some [{ a := n, b := b, dim := d, plus := plus }]
    | none =>
      if 2 ≤ d then (firstHop s l me n [(0, true), (0, false), (1, true), (1, false)]).map (fun h => [h])
      else if d = 0 then aroundHops s l me n 0 plus [(1, true), (1, false)]
      else aroundHops s l me n 1 plus [(0, true), (0, false)]

/-- The deterministic route (R58, R59): its hops, or none. -/
def routeFrom (s : State) (l : List LinkDown) (me fuel n dst : Nat) : Option (List Hop) :=
  match fuel with
  | 0 => none
  | fuel + 1 =>
    if n = dst then some []
    else
      match nextHops s l me n dst with
      | some (h :: t) => (routeFrom s l me fuel (((h :: t).getLast?.map (fun x => x.b)).getD n) dst).map (fun r => h :: t ++ r)
      | _ => none

/-- The route of the module to a node, by what it knows now. -/
def routeTo (s : State) (me dst : Nat) : Option (List Hop) := routeFrom s s.notices me 80 me dst

/-- The node can be reached (R59). -/
def reachable (s : State) (me dst : Nat) : Bool := decide (dst = me) || (routeTo s me dst).isSome

/-- The port by which the deterministic route to a node leaves, if any. -/
def leavePort (s : State) (me dst : Nat) : Option Nat :=
  match routeTo s me dst with
  | some (h :: _) => some (portOf h.dim h.plus)
  | _ => none

/-- A packet that came in by a port of the Y dimension from a node whose Y was right has been passed around an X hop (R59): it takes
that hop next. -/
def aroundX (s : State) (me dst : Nat) (via : Option Nat) : Option Nat :=
  match via with
  | some i =>
    if i / 2 = 1 ∧ coord me 0 ≠ coord dst 0 ∧ coord me 2 = coord dst 2 ∧ coord me 3 = coord dst 3
        ∧ ((neighbour s me 1 (decide (i % 2 = 0))).map (fun f => coord f 1)) = some (coord dst 1) then
      (linkTo s s.notices me me 0 (direction s me dst 0)).map (fun _ => portOf 0 (direction s me dst 0))
    else none
  | none => none

/-- The hops that lie between two nodes in a dimension, and in all. -/
def dimDist (s : State) (a b d : Nat) : Nat :=
  if d < 2 then max (coord a d) (coord b d) - min (coord a d) (coord b d)
  else min ((coord a d + extent s d - coord b d) % extent s d) ((coord b d + extent s d - coord a d) % extent s d)
def dist (s : State) (a b : Nat) : Nat := dimDist s a b 0 + dimDist s a b 1 + dimDist s a b 2 + dimDist s a b 3

/-- The up ports of a node that shorten the remaining distance to another (R60). -/
def shortPorts (s : State) (me dst : Nat) : List Nat :=
  (List.range 8).filter (fun i =>
    match linkTo s s.notices me me (i / 2) (decide (i % 2 = 0)) with
    | some b => decide (dist s b dst < dist s me dst)
    | none => false)

/-- The free credits of a class on a port (R53). -/
def portCredit (s : State) (cls i : Nat) : Nat := (s.ports.toList.getD i {}).credit.getD cls 0

/-- The port with the most free credits of a class, the lowest of equals. DESIGN CHOICE (log 15). -/
def mostCredit (s : State) (cls : Nat) (l : List Nat) : Option Nat :=
  l.foldl (fun acc i => match acc with
    | none => some i
    | some j => if portCredit s cls j < portCredit s cls i then some i else some j) none

/-- Traffic that is routed adaptively (R60): MC1 without the ordered bit, MC4. -/
def adaptive (p : Packet) : Bool := decide (p.cls = 4) || (decide (p.cls = 1) && !p.ord)

/-- The port by which a packet leaves, if any: adaptive traffic by an up port that shortens its way, chosen by credits, where there is
one; all else by the deterministic route or its detour (R58-R60). `via` is the port that it came in by. DESIGN CHOICE (log 15). -/
def packetPort (s : State) (me : Nat) (p : Packet) (via : Option Nat) : Option Nat :=
  match (if adaptive p then mostCredit s p.cls (shortPorts s me p.dst) else none), aroundX s me p.dst via with
  | some i, _ => some i
  | none, some i => some i
  | none, none => leavePort s me p.dst

/-- The link between two nodes lies on a shortest way from one node to another. -/
def onShortest (s : State) (x : LinkDown) (a b : Nat) : Bool :=
  decide (dist s a x.a + 1 + dist s x.b b = dist s a b ∨ dist s a x.b + 1 + dist s x.a b = dist s a b)

end Sys2Proof.Machine
end

