-- ==== Sys2Proof/Machine/Ops.lean ====
section
/-!
DEFINITION. The named operations over the state: units and registers, device time, the registers of BAR0, packets,
address translation and the bytes of memory, faults, taking a trap and returning from one, and how an instruction ends.
-/
namespace Sys2Proof.Machine

/-! ## Units -/

/-- The core of a context number (Types.lean). -/
def coreOf (x : Nat) : Nat := x / 16
/-- The index of a context number within its core. -/
def idxOf (x : Nat) : Nat := x % 16
/-- The context number of a core and an index. -/
def ctxNo (k i : Nat) : Nat := 16 * k + i
/-- The octet of a core (R19). -/
def octOf (k : Nat) : Nat := k / 8
/-- The cluster index 24·die + cluster of a core (R457). -/
def clusOf (k : Nat) : Nat := k / 48
/-- The die of a core. -/
def dieOf (k : Nat) : Nat := k / 1152
/-- ctl.coreid of a core: die, cluster, core (R152). -/
def coreId (k : Nat) : Nat := k / 1152 * 2 ^ 11 + k / 48 % 24 * 2 ^ 6 + k % 48
/-- The core of a ctl.coreid layout; `none` for a unit that does not exist (R33). -/
def coreOfId (w : Nat) : Option Nat :=
  if w / 2 ^ 6 % 32 < 24 ∧ w % 64 < 48 then some (w / 2 ^ 11 % 4 * 1152 + w / 2 ^ 6 % 32 * 48 + w % 64) else none

/-- A context of the state. -/
def getCtx (s : State) (x : Nat) : Ctx := kget {} s.ctxs x
/-- The state with a context replaced. -/
def setCtx (s : State) (x : Nat) (c : Ctx) : State := { s with ctxs := kset s.ctxs x c }
/-- The context whose instruction executes. -/
def cur (s : State) : Ctx := getCtx s s.turn
/-- The state with the executing context replaced. -/
def setCur (s : State) (c : Ctx) : State := setCtx s s.turn c
/-- The core of the executing context. -/
def curCore (s : State) : Nat := coreOf s.turn

/-- A core of the state. -/
def getCore (s : State) (k : Nat) : Core := kget {} s.cores k
/-- The state with a core replaced. -/
def setCore (s : State) (k : Nat) (c : Core) : State := { s with cores := kset s.cores k c }
/-- An octet of the state. -/
def getOct (s : State) (o : Nat) : Octet := kget {} s.octs o
/-- The state with an octet replaced. -/
def setOct (s : State) (o : Nat) (c : Octet) : State := { s with octs := kset s.octs o c }
/-- A cluster of the state. -/
def getClus (s : State) (c : Nat) : Cluster := kget {} s.clus c
/-- The state with a cluster replaced. -/
def setClus (s : State) (c : Nat) (d : Cluster) : State := { s with clus := kset s.clus c d }
/-- A die of the state. -/
def getDie (s : State) (d : Nat) : Die := kget {} s.dies d
/-- The state with a die replaced. -/
def setDie (s : State) (d : Nat) (e : Die) : State := { s with dies := kset s.dies d e }
/-- A launch of the state. -/
def getLaunch (s : State) (l : Nat) : Launch := kget {} s.launches l
/-- The state with a launch replaced. -/
def setLaunch (s : State) (l : Nat) (x : Launch) : State := { s with launches := kset s.launches l x }
/-- The launch a core takes part in (R388). -/
def launchOf (s : State) (k : Nat) : Option Nat := (getCore s k).launch
/-- The launch record of a core's launch; an empty one for a core with none. -/
def launchRec (s : State) (k : Nat) : Launch :=
  match launchOf s k with
  | some l => getLaunch s l
  | none => {}

/-- The launch of a core lets its contexts run: none of stopped, faulted, being pre-empted, or saved. -/
def launchRuns (s : State) (k : Nat) : Bool :=
  match launchOf s k with
  | some l =>
    let x := getLaunch s l
    !x.stopped && x.first.isNone && decide (x.pre = .no)
  | none => false

/-! ## Registers of a context -/

/-- s[r]: s0 reads zero (R144). -/
def sread (c : Ctx) (r : Reg) : Word := if r = 0 then 0 else c.s[r.toNat]
/-- A write to s[r]; one to s0 is discarded (R144); its dirty bit is set (R437). -/
def swrite (c : Ctx) (r : Reg) (w : Word) : Ctx :=
  if r = 0 then c else { c with s := c.s.set r.toNat w, sd := c.sd ||| 1#32 <<< r.toNat }
/-- v[r] as the register file holds it. -/
def vfile (c : Ctx) (r : Reg) : Vec := c.v[r.toNat]
/-- v[r] written in the register file; its dirty bit is set (R437). -/
def vput (c : Ctx) (r : Reg) (w : Vec) : Ctx := { c with v := c.v.set r.toNat w, vd := c.vd ||| 1#32 <<< r.toNat }
/-- p[r]: p0 reads 0xFFFF (R145). -/
def pread (c : Ctx) (r : PReg) : BitVec 16 := if r = 0 then 0xFFFF else c.p[r.toNat]
/-- A write to p[r]; one to p0 is discarded (R145); its dirty bit is set (R437). -/
def pwrite (c : Ctx) (r : PReg) (w : BitVec 16) : Ctx :=
  if r = 0 then c else { c with p := c.p.set r.toNat w, pd := c.pd ||| 1#8 <<< r.toNat }
/-- k[r] (R146). -/
def kread (c : Ctx) (r : Reg) : Word32 := c.k[r.toNat]
/-- k[r] written (R245); its dirty bit is set (R437). -/
def kwrite (c : Ctx) (r : Reg) (w : Word32) : Ctx := { c with k := c.k.set r.toNat w, kd := c.kd ||| 1#32 <<< r.toNat }

/-- s[r] of the executing context. -/
def sreg (s : State) (r : Reg) : Word := sread (cur s) r
/-- The state with s[r] of the executing context written. -/
def setSreg (s : State) (r : Reg) (w : Word) : State := setCur s (swrite (cur s) r w)
/-- p[r] of the executing context. -/
def preg (s : State) (r : PReg) : BitVec 16 := pread (cur s) r
/-- The state with p[r] of the executing context written. -/
def setPreg (s : State) (r : PReg) (w : BitVec 16) : State := setCur s (pwrite (cur s) r w)

/-! ## Time (R159) -/

/-- Device time in ns: the core clock is 3.3 GHz (R20). -/
def nowNs (s : State) : Nat := s.cycle * 10 / 33
/-- ctl.time as a register. -/
def timeWord (s : State) : Word := BitVec.ofNat 64 (nowNs s)

/-- One step's worth of time, and a fresh free value for the next (log 5). -/
def tick (s : State) : State := { s with cycle := s.cycle + 1 + Config.freeTime s.nonce, nonce := s.nonce + 1 }

/-! ## The registers of BAR0 (R451-R459) -/

/-- BSTAT.SVN, which the fuses hold (R463). DESIGN CHOICE (log 64). -/
def svnWord : Word := Config.fusedSvn.setWidth 64 <<< 24
/-- Eight bytes of CERT from an offset on (R455): the certificate in its first CERTLEN bytes, zeros after it. DESIGN CHOICE (log 9). -/
def certWord (o : Nat) : Word :=
  BitVec.ofNat 64 ((List.range 8).foldr (fun i acc =>
    (if o + i < Config.certLen.toNat then (Config.certByte (o + i)).toNat else 0) + 256 * acc) 0)
/-- The reset value of a BAR0 register, by its offset (R453-R459, R463); an MSI-X vector is masked (log 33). DESIGN CHOICE (log 1). -/
def barReset (off : Nat) : Word :=
  if off = 0 then svnWord
  else if off = 0x001010 then 4
  else if off = 0x002008 then Config.certLen.setWidth 64
  else if 0x002800 ≤ off ∧ off < 0x003000 then certWord (off - 0x002800)
  else if off = 0x020000 then 3200
  else if 0x020100 ≤ off ∧ off < 0x020100 + 8 * 96 then 512
  else if off = 0x090000 then 500
  else if off = 0x090008 then 10000000
  else if 0x090100 ≤ off ∧ off < 0x090180 then 60000
  else if 0x100000 ≤ off ∧ off < 0x108000 ∧ off % 16 = 8 then 2 ^ 32
  else 0

/-- A BAR0 register; BSTAT reads its fused field beside what the device has set (R463). DESIGN CHOICE (log 61).
DESIGN CHOICE (log 64). -/
def bar (s : State) (off : Nat) : Word :=
  if off = 0 then kget 0 s.regs 0 ||| svnWord else if kmem s.regs off then kget 0 s.regs off else barReset off
/-- The state with a BAR0 register set by the device. -/
def setBar (s : State) (off : Nat) (w : Word) : State := { s with regs := kset s.regs off w }
/-- A counter raised by `n`, saturating at all ones (R458). -/
def countUp (s : State) (off : Nat) (n : Nat) : State :=
  setBar s off (BitVec.ofNat 64 (min ((bar s off).toNat + n) (2 ^ 64 - 1)))
/-- The bits of a word from `lo` up, `k` of them. -/
def bits (w : Word) (lo k : Nat) : Nat := w.toNat / 2 ^ lo % 2 ^ k
/-- The module's node id, ctl.node (R456). -/
def myNode (s : State) : Nat := bits (bar s 0x010008) 0 12
/-- BSTAT.STATE (R463). -/
def bootState (s : State) : Nat := bits (kget 0 s.regs 0) 0 3
/-- BSTAT.STATE replaced. -/
def setBootState (s : State) (n : Nat) : State :=
  setBar s 0 (BitVec.ofNat 64 ((kget 0 s.regs 0).toNat / 8 * 8 + n))

/-- A node id of a module of the running job (R57). -/
def jobNode (s : State) (n : Nat) : Bool :=
  decide (n % 4 < s.dims.1 ∧ n / 4 % 4 < s.dims.2.1 ∧ n / 16 % 16 < s.dims.2.2.1 ∧ n / 256 < s.dims.2.2.2)

/-- Every module of the job (R57). -/
def jobNodes (s : State) : List Nat :=
  (List.range s.dims.2.2.2).flatMap (fun w => (List.range s.dims.2.2.1).flatMap (fun z =>
    (List.range s.dims.2.1).flatMap (fun y => (List.range s.dims.1).map (fun x => x + 4 * y + 16 * z + 256 * w))))

/-- The job slot of an ASID: the first valid register that names it (R456); 16 when none does. DEDUCED (log 24). -/
def jobOfAsid (s : State) (asid : Nat) : Nat :=
  match (List.range 256).find? (fun j => bits (bar s (0x010100 + 8 * j)) 63 1 == 1 && bits (bar s (0x010100 + 8 * j)) 0 12 == asid) with
  | some j => bits (bar s (0x010100 + 8 * j)) 48 4
  | none => 16

/-! ## Packets (R54, R61, R62) -/

/-- The classes that are end-to-end reliable (R61). -/
def reliable (cls : Nat) : Bool := decide (cls = 0 ∨ cls = 2 ∨ cls = 3 ∨ cls = 5)

/-- The flow of a class with a peer. -/
def flowOf (s : State) (peer cls : Nat) : Flow :=
  (s.flows.find? (fun f => f.peer == peer && f.cls == cls)).getD { peer := peer, cls := cls, tx := 0, rx := 0 }
/-- The flow replaced. -/
def setFlow (s : State) (f : Flow) : State :=
  { s with flows := f :: s.flows.filter (fun g => !(g.peer == f.peer && g.cls == f.cls)) }

/-- A packet with the fields that its body does not give left zero. -/
def mkPacket (s : State) (cls dst : Nat) (k : Nat) (body : Body) : Packet :=
  { cls := cls, kind := (Config.kindCode cls (bodyKind body)).toNat, dst := dst, src := myNode s, die := k / 1152, clus := k / 48 % 24,
    core := k % 48, stage := false, seq := 0, ord := false, mcast := false, ndf := bodyFlits body, addr := bodyAddr body,
    tag := bodyTag body, resv := 0, body := body }

/-- A port of the module. -/
def getPort (s : State) (i : Nat) : Port := s.ports.toList.getD i {}
/-- The state with a port replaced. -/
def setPort (s : State) (i : Nat) (p : Port) : State := { s with ports := s.ports.setIfInBounds i p }

/-- A packet sent on a port (R53): its flits take sequence numbers and credits of its class, and stay in the retry buffer. -/
def sendFlits (s : State) (i : Nat) (p : Packet) : State :=
  let q := getPort s i
  let n := 1 + p.ndf
  setPort { s with outbox := s.outbox ++ [(i, p)] } i
    { q with
      seq := q.seq + BitVec.ofNat 12 n
      retry := q.retry ++ (List.range n).map (fun j => (q.seq + BitVec.ofNat 12 j, p))
      credit := q.credit.set p.cls (q.credit.getD p.cls 0 - n)
      ackAt := if q.retry.isEmpty then nowNs s else q.ackAt }

/-- The packets that wait at a port, sent in order as far as the credits of their class go; one that waits holds back those of its own
class only (R53). -/
def drainPort (s : State) (i : Nat) (l : List Packet) (kept : List Packet) : State :=
  match l with
  | [] => setPort s i { getPort s i with queue := kept }
  | p :: t =>
    if kept.any (fun q => q.cls == p.cls) || decide ((getPort s i).credit.getD p.cls 0 < 1 + p.ndf) then drainPort s i t (kept ++ [p])
    else drainPort (sendFlits s i p) i t kept

/-- A packet put on a port (R53, R54). -/
def putOut (s : State) (i : Nat) (p : Packet) : State := drainPort s i ((getPort s i).queue ++ [p]) []

/-- A packet put on the port of its route, where there is one (R58-R60). -/
def emitPacket (s : State) (p : Packet) (via : Option Nat := none) : State :=
  match packetPort s (myNode s) p via with
  | some port => putOut s port p
  | none => s

/-- What the sender keeps: packets of reliable classes, and pushes and data of MC1 whose end its own module learns of (R62, R63, R82). -/
def kept (p : Packet) : Bool :=
  reliable p.cls ||
    (match p.body with
     | .pushPeg _ _ _ _ _ _ _ _ _ _ => true | .pushMem _ _ _ _ _ _ => true | .grem _ _ _ _ _ _ _ _ _ _ _ _ _ => true
     | .accData _ _ _ _ => true | .grantCopy _ _ _ => true | _ => false)

/-- A packet leaves: one for this module waits here for its unit; one for another module takes the next SEQ of its flow, and is
kept until it is acknowledged or its transfer complete (R62, R63), where its sender learns of that. A loss names the context `who`
(R428). -/
def sendPacket (s : State) (launch : Option Nat) (p : Packet) (who : Option Nat := none) : State :=
  if p.dst = myNode s then { s with arrived := s.arrived ++ [p] }
  else
    let f := flowOf s p.dst p.cls
    let p := { p with seq := f.tx }
    let s1 := setFlow s { f with tx := (f.tx + 1) % 2 ^ 16 }
    let rec_ : Sent := { pkt := p, first := nowNs s, last := nowNs s, launch := launch, port := packetPort s (myNode s) p none, num := s.uid, who := who }
    let s2 := { s1 with sent := s1.sent ++ [rec_], uid := s1.uid + 1 }
    emitPacket (if kept p then s2 else s1) p

/-- A packet sent for one context, which its loss names (R428). -/
def sendBy (s : State) (launch : Option Nat) (x : Nat) (p : Packet) : State := sendPacket s launch p (some x)

/-- The `n`-th waiting packet that meets a test, and the state without it. -/
def takeArrived (s : State) (p : Packet → Bool) (n : Nat) : Option (Packet × State) :=
  match lfindN p s.arrived n with
  | some (i, q) => some (q, { s with arrived := ldel s.arrived i })
  | none => none

/-- The `n`-th waiting packet that meets a test of it and its place, with its place. -/
def nthAt (s : State) (t : Nat → Packet → Bool) (n : Nat) : Option (Nat × Packet) :=
  (((List.range s.arrived.length).zip s.arrived).filter (fun q => t q.1 q.2))[n]?

/-- The `n`-th waiting packet that meets a test, with its place, of those that nothing in one order with them came before: `before` says
which earlier packet of the same source and class is in one order with a later one (R61). -/
def nextArrived (s : State) (before : Packet → Packet → Bool) (p : Packet → Bool) (n : Nat) : Option (Nat × Packet) :=
  nthAt s (fun i q => p q && !(s.arrived.take i).any (fun r => r.src == q.src && r.cls == q.cls && before r q)) n

/-- That packet taken, and the state without it. -/
def takeOrdered (s : State) (before : Packet → Packet → Bool) (p : Packet → Bool) (n : Nat) : Option (Packet × State) :=
  (nextArrived s before p n).map (fun q => (q.2, { s with arrived := ldel s.arrived q.1 }))

/-- The order of MC1: strict among ordered packets (R61). -/
def ordBefore (r q : Packet) : Bool := r.ord && q.ord

/-! ## Faults (R428, R51) -/

/-- The fault codes of R428. -/
def faultXlate : Nat := 0x20
def faultProt : Nat := 0x21
def faultEcc (sub : Nat) : Nat := sub * 256 + 0x22
def faultLink (cls : Nat) : Nat := cls * 256 + 0x23
def faultDog (sub : Nat) : Nat := sub * 256 + 0x24
def faultDouble (sub : Nat) : Nat := sub * 256 + 0x25

/-- A fault recorded in a launch (R51): it counts, and the first is kept; at one time the lower core is first. A part that is
not the root's tells the root, and the root tells every other part (R430). DEDUCED (log 49). -/
def faultLaunch (s : State) (l : Nat) (f : FaultRec) : State :=
  let x := getLaunch s l
  let first := match x.first with
    | none => f
    | some g => if g.time = f.time ∧ f.core < g.core then f else g
  let s1 := setLaunch s l { x with fcnt := min (x.fcnt + 1) 0xFFFF, first := some first }
  if x.first.isSome then s1
  else if x.root = myNode s then
    x.nodes.foldl (fun st n => if n = myNode s then st else sendPacket st (some l) (mkPacket st 0 n 0 (.faultNotice l f))) s1
  else sendPacket s1 (some l) (mkPacket s1 0 x.root 0 (.faultNotice l f))

/-- A fault raised for a context (R428): CORE and CTX name it. -/
def raiseFault (s : State) (x : Nat) (cause : Nat) (fva : Word) : State :=
  match launchOf s (coreOf x) with
  | some l => faultLaunch s l { core := coreId (coreOf x), ctx := idxOf x, cause := cause, fva := fva, time := nowNs s }
  | none => s

/-- The lowest core of a launch on this module, of a saved one the lowest that it left. -/
def lowestCore (x : Launch) : Nat :=
  match x.cores with
  | k :: _ => k
  | [] => (x.images.map (fun i => i.slot)).foldl (fun acc k => if acc ≤ k then acc else k) ((x.images.map (fun i => i.slot)).headD 0)

/-- A fault that no single context caused: context 0 of the launch's lowest core (R428). -/
def raiseFaultL (s : State) (l : Nat) (cause : Nat) : State :=
  faultLaunch s l { core := coreId (lowestCore (getLaunch s l)), ctx := 0, cause := cause, fva := 0, time := nowNs s }

/-! ## Traps (R230, R424, R427) -/

/-- The trap causes of R424, as ctl.tcause holds them: sub-cause·256 + cause. -/
def trapIllegal (sub : IllSub) : Nat := illSubCode sub * 256 + 0x01
def trapPriv : Nat := 0x02
def trapAlign : Nat := 0x03
def trapLoop (sub : Nat) : Nat := sub * 256 + 0x04
def trapAband (sub : Nat) : Nat := sub * 256 + 0x05
def trapSubn : Nat := 0x06
def trapMissed : Nat := 0x07
def trapToken : Nat := 0x08
def trapStorm : Nat := 0x09
def trapOverrun : Nat := 0x0A
def trapAlias : Nat := 0x0B
def trapBank : Nat := 0x0C
def trapBrk : Nat := 0x0D
def trapSys : Nat := 0x0E

/-- The target of a trap and the mode it enters (R230). DEDUCED (log 25). -/
def trapTarget (c : Ctx) (svec : Word) (cause : Nat) : Bool × Word :=
  if cause % 256 = trapSys ∨ c.sm = true then (true, svec) else (c.sm, c.tvec)

/-- What trap entry writes in its context (R230): the return address `ret`, the cause, the value, the mode, the target. -/
def trapCtx (c : Ctx) (svec ret : Word) (cause : Nat) (val : Word) : Ctx :=
  { c with
    tpc := ret, tcause := BitVec.ofNat 64 cause, tval := val, pm := c.sm, t := true,
    sm := (trapTarget c svec cause).1, pc := (trapTarget c svec cause).2, st := .ready, wait := none,
    answers := [], farTag := none }

/-- Taking a trap in a context, in place of every effect of its instruction (R230): a double trap is a fault (R427). `ret` is
the address ctl.tpc receives. -/
def takeTrap (s : State) (x : Nat) (ret : Word) (cause : Nat) (val : Word) : State :=
  let c := getCtx s x
  let svec := (getCore s (coreOf x)).svec
  if c.t = true then raiseFault s x (faultDouble (cause % 256)) ret
  else if (trapTarget c svec cause).2 = 0 then raiseFault s x (faultDouble (cause % 256)) ret
  else setCtx s x (trapCtx c svec ret cause val)

/-- Returning from a trap or from the marker handler (R232), where one is active. -/
def returnCtx (c : Ctx) : Option Ctx :=
  if c.t = true then some { c with pc := c.tpc, sm := c.pm, t := false }
  else if c.mkr = true then some { c with pc := c.mpc, mkr := false }
  else none

/-! ## How an instruction ends -/

/-- The bytes an instruction occupies (R198). -/
def lenOf (i : Instr) : Nat := 4 * (encode i).length
/-- The first word of an instruction, zero-extended, as ctl.tval holds it (R197). -/
def wordVal (i : Instr) : Word := ((encode i).headD 0).setWidth 64

/-- The loop-end test at address `a` with `n` live loops (R222): the context with the counts and depth that follow, and where
control goes when a loop continues. -/
def loopEnd (c : Ctx) (a : Word) (n : Nat) : Ctx × Option Word :=
  match n with
  | 0 => (c, none)
  | n + 1 =>
    if h : n < 4 then
      if c.le[n] = a then
        if c.lc[n].toNat > 1 then ({ c with lc := c.lc.set n (c.lc[n] - 1) }, some c.ls[n])
        else loopEnd { c with lc := c.lc.set n 0, ls := c.ls.set n 0, le := c.le.set n 0, ldepth := n } a n
      else (c, none)
    else (c, none)

/-- The context after an instruction of `len` bytes that completes without a control transfer (R198, R222). -/
def nextPc (c : Ctx) (len : Nat) : Ctx :=
  match loopEnd c c.pc c.ldepth with
  | (c1, some t) => { c1 with pc := t, answers := [], farTag := none, wait := none }
  | (c1, none) => { c1 with pc := c.pc + BitVec.ofNat 64 len, answers := [], farTag := none, wait := none }

/-- What the meaning of a fetched instruction comes to: completed in sequence, control transferred, a trap with its cause and
value, a fault with its cause and address, blocked, or a state that stands as it is. -/
inductive Eff where
  | ok (s : State)
  | jump (s : State) (t : Word)
  | trap (s : State) (cause : Nat) (val : Word)
  | fault (s : State) (cause : Nat) (fva : Word)
  | wait (s : State) (w : Wait)
  | stay (s : State)
  deriving DecidableEq, Repr

/-- A context blocked on something (R141). -/
def blockCtx (s : State) (x : Nat) (w : Wait) : State :=
  let c := getCtx s x
  setCtx { s with nonce := s.nonce + 1 } x
    { c with st := .blocked, wait := some w,
             blockedAt := if c.wait.isSome then c.blockedAt else nowNs s,
             waitSeq := if c.wait.isSome then c.waitSeq else s.nonce }

/-- The state after an instruction, by what its meaning came to (R13, R198, R222, R230). -/
def endState (i : Instr) (e : Eff) : State :=
  match e with
  | .ok s => setCur s (nextPc (cur s) (lenOf i))
  | .jump s t => setCur s { cur s with pc := t, answers := [], farTag := none, wait := none }
  | .trap s cause val => takeTrap s s.turn (cur s).pc cause val
  | .fault s cause fva => raiseFault s s.turn cause fva
  | .wait s w => blockCtx s s.turn w
  | .stay s => s

/-- The outcome of a fetched instruction. -/
def finish (i : Instr) (e : Eff) : Host.Outcome State Fault Refusal := .next (endState i e)

/-- The illegal-instruction trap of an instruction (R197). -/
def illegal (i : Instr) (s : State) (sub : IllSub) : Eff := .trap s (trapIllegal sub) (wordVal i)

end Sys2Proof.Machine
end

