-- ==== Sys2Proof/Machine/Mem.lean ====
section
/-!
DEFINITION. Address translation and the bytes of memory (R32-R50, R65, R71, R126-R140): where a virtual address leads, page
walks, region tokens, and the reading and writing of a list of bytes, which is checked whole before any byte is accessed.
-/
namespace Sys2Proof.Machine

/-! ## Keys of memory cells -/

/-- The cell of a local-DRAM offset (R28): the mapping of offsets to dies, stacks, channels and places is one-to-one, and the offset
names the cell. -/
def dramKey (o : Nat) : Nat := o
/-- The die whose stacks hold an offset, the stack of the module, the pseudo-channel in the stack, the place in it (R28). -/
def dramDie (o : Nat) : Nat := o / 2 ^ 37 % 4
def dramStack (o : Nat) : Nat := 2 * dramDie o + (o / 2 ^ 8 + o / 2 ^ 17) % 2
def dramChannel (o : Nat) : Nat := (o / 2 ^ 9 % 2 ^ 8) ^^^ (o / 2 ^ 17 % 2 ^ 8)
def dramPlace (o : Nat) : Nat := o / 2 ^ 17 % 2 ^ 20 * 2 ^ 8 + o % 2 ^ 8
/-- The cell of a slice offset (R126). -/
def sliceKey (k o : Nat) : Nat := 2 ^ 39 + k * 2 ^ 18 + o
/-- The cell of a PCIe address in host memory (R37). DESIGN CHOICE (log 2). DESIGN CHOICE (log 70). -/
def hostKey (a : Nat) : Nat := 2 ^ 40 + a
/-- Whether a cell lies in a slice, and the core that owns it. -/
def sliceOfKey (key : Nat) : Option Nat := if 2 ^ 39 ≤ key ∧ key < 2 ^ 40 then some ((key - 2 ^ 39) / 2 ^ 18) else none

/-! ## Error protection (R29, R139, R140) -/

/-- The bytes of the unit that one code protects: 8 of a slice, 64 of DRAM. -/
def eccLen (key : Nat) : Nat := if (sliceOfKey key).isSome then 8 else 64
/-- The first cell of the protected unit of a cell. -/
def eccBase (key : Nat) : Nat := key / eccLen key * eccLen key
/-- The unit of a cell holds an uncorrectable error; host memory is not protected by the device. -/
def poisoned (s : State) (key : Nat) : Bool := decide (key < 2 ^ 40) && s.poison.contains (eccBase key)
/-- Cells that are all of the unit of a cell. -/
def wholeUnit (keys : List Nat) (key : Nat) : Bool := (List.range (eccLen key)).all (fun i => keys.contains (eccBase key + i))
/-- The counter of soft errors of a cell (R458): of its cluster or of its stack. -/
def eccCounter (key : Nat) (double : Bool) : Nat :=
  (match sliceOfKey key with
   | some k => 0x040000 + 16 * (k / 48)
   | none => 0x041000 + 16 * dramStack key) + (if double then 8 else 0)
/-- The ECC fault of a cell: scratchpad or DRAM (R428). -/
def eccOf (key : Nat) : Nat := faultEcc (if (sliceOfKey key).isSome then 0 else 1)
/-- Cells read: a single-bit error in one of their units is corrected and counted (R29, R139). -/
def noteRead (s : State) (keys : List Nat) : State :=
  if s.soft.isEmpty then s
  else
    let hit := s.soft.filter (fun b => keys.any (fun k => eccBase k == b))
    hit.foldl (fun st b => countUp st (eccCounter b false) 1) { s with soft := s.soft.filter (fun b => !hit.contains b) }
/-- An access that finds an uncorrectable error in DRAM counts it for its stack (R29, R458); in a slice the scrubber counts (R140). -/
def noteDouble (s : State) (key : Nat) : State := if (sliceOfKey key).isSome then s else countUp s (eccCounter key true) 1

/-- `n` bytes from a cell on, little-endian (R4, R12). -/
def readNat (m : Memory) (key n : Nat) : Nat :=
  match n with
  | 0 => 0
  | n + 1 => (mget m key).toNat + 2 ^ 8 * readNat m (key + 1) n

/-- The number of a list of bytes, the first the least significant (R4). -/
def natOfBytes (bs : List Byte) : Nat :=
  match bs with
  | [] => 0
  | b :: t => b.toNat + 2 ^ 8 * natOfBytes t

/-! ## Page walks (R36-R42) -/

/-- The physical-address fields of a page base obey R36. -/
def physOk (pa : Nat) : Bool :=
  let ty := pa / 2 ^ 52 % 16
  let node := pa / 2 ^ 40 % 4096
  decide (ty ≤ 2) && decide (pa / 2 ^ 39 % 2 = 0) && (decide (ty = 2) || decide (node = 0))

/-- The result of a walk (R42): a page of `size` bytes, its physical base and its entry. -/
structure Page where
  size : Nat
  pa   : Nat
  ent  : Word
  deriving DecidableEq, Repr

/-- What a walk comes to: a page, the translation fault, or an uncorrectable error in the entry at a cell (R29, R47). -/
inductive Walk where
  | page (p : Page)
  | fault
  | ecc (key : Nat)
  deriving DecidableEq, Repr

/-- The cell of the entry that a level of the walk reads. -/
def entryKey (table lvl va : Nat) : Nat := dramKey (table + 8 * (va / 2 ^ (39 - 9 * lvl) % 512))

/-- One level of the walk of R42 and those below it. -/
def walkFrom (s : State) (lvls : List Nat) (table va : Nat) : Walk :=
  match lvls with
  | [] => .fault
  | lvl :: rest =>
    if poisoned s (entryKey table lvl va) then .ecc (entryKey table lvl va)
    else
      let e := readNat s.mem (entryKey table lvl va) 8
      if e % 2 = 0 ∨ e / 2 ^ 11 % 2 = 1 then .fault
      else if e / 2 ^ 3 % 2 = 1 ∧ e / 2 ^ 2 % 2 = 0 then .fault
      else if e / 2 % 2 = 0 then
        if lvl = 3 ∨ e / 2 ^ 2 % 2 ^ 9 ≠ 0 ∨ e / 2 ^ 39 % 2 ^ 17 ≠ 0 then .fault
        else walkFrom s rest (e / 2 ^ 12 % 2 ^ 44 * 2 ^ 12) va
      else
        let span := e / 2 ^ 8 % 8
        let size := 4 ^ span * 2 ^ (12 + 9 * (3 - lvl))
        let base := e / 2 ^ 12 % 2 ^ 44 * 2 ^ 12
        if lvl = 0 then .fault
        else if (lvl = 1 ∧ span > 0) ∨ (lvl = 2 ∧ span > 3) ∨ (lvl = 3 ∧ span > 4) then .fault
        else if base % size ≠ 0 then .fault
        else if physOk base = false then .fault
        else .page { size := size, pa := base, ent := BitVec.ofNat 64 e }

/-- The walk of R42 from ctl.ptroot. -/
def walk (s : State) (ptroot : Word) (va : Nat) : Walk :=
  let table := bits ptroot 12 44 * 2 ^ 12
  if table / 2 ^ 39 ≠ 0 then .fault else walkFrom s [0, 1, 2, 3] table va

/-- The tables that a walk reads, by level, as far as pointers lead. -/
def walkTables (s : State) (lvls : List Nat) (table va : Nat) : List (Nat × Nat) :=
  match lvls with
  | [] => []
  | lvl :: rest =>
    let e := readNat s.mem (entryKey table lvl va) 8
    (lvl, table) :: (if e % 2 = 1 ∧ e / 2 % 2 = 0 then walkTables s rest (e / 2 ^ 12 % 2 ^ 44 * 2 ^ 12) va else [])

/-- The maker of an access: its core, its launch, whether it has S privilege, the kind of access, the engine that makes it, and for an
engine source the limit of R24 to the issuer's own slice and module-local memory, or of R119 to that slice alone. -/
structure Acc where
  core : Nat
  priv : Bool
  kind : AccKind
  own  : Bool := false
  slice : Bool := false
  eng  : Option Engine := none
  deriving DecidableEq, Repr

/-- The caches that an access looks into, in order (R45). -/
def cachesOf (a : Acc) : List Tlb :=
  (match a.eng, a.kind with
   | some .cpe, _ => [.cpe (octOf a.core)]
   | some _, _ => []
   | none, .fetch => [.inst a.core]
   | none, _ => [.data a.core]) ++ [.clus (clusOf a.core)]

/-- The cached translation that an access finds. -/
def cached (s : State) (a : Acc) (asid va : Nat) : Option TlbEntry :=
  (cachesOf a).findSome? (fun t =>
    s.tlb.find? (fun e => e.tlb == t && e.asid == asid && decide (e.va ≤ va) && decide (va < e.va + e.size)))

/-- The walk of an access: from the deepest table that the walk cache of its die names, else from the root (R45). -/
def walkBy (s : State) (a : Acc) (ptroot : Word) (va : Nat) : Walk :=
  match [3, 2, 1].findSome? (fun l => (s.walks.find? (fun e =>
      e.die == dieOf a.core && e.asid == bits ptroot 0 12 && e.lvl == l && e.hi == va / 2 ^ (48 - 9 * l))).map (fun e => (l, e.table))) with
  | some (l, table) => walkFrom s ([0, 1, 2, 3].drop l) table va
  | none => walk s ptroot va

/-- A translation by the caches of R45, else by a walk. While an entry is in a cache it is used, even if the table has changed since;
after that the table's entry is (R47 allows either). DESIGN CHOICE (log 72). -/
def translate (s : State) (a : Acc) (ptroot : Word) (va : Nat) : Walk :=
  match cached s a (bits ptroot 0 12) va with
  | some e => .page { size := e.size, pa := e.pa, ent := e.ent }
  | none => walkBy s a ptroot va

/-! ## Regions and tokens (R66-R71) -/

/-- The region that holds a virtual address (R66). -/
def regionOf (s : State) (va : Nat) : Option Region :=
  s.regions.find? (fun r => decide (r.base ≤ va) && decide (va < r.base + r.size))

/-- The place of the token that governs an address (R68): 0 for a whole region. -/
def tokenIx (r : Region) (va : Nat) : Fin 32 :=
  if r.split then ⟨(va - r.base) / 2 ^ 16 % 32, Nat.mod_lt _ (by decide)⟩ else 0

/-- The module's own state of the token of an address (R71). -/
def ownTok (r : Region) (va : Nat) : TokSt := r.own[tokenIx r va]

/-! ## Where an address leads -/

/-- Where one byte of an access leads (R33, R37, R43, R65, R71); `bad` names the table entry whose error stopped its walk. -/
inductive Loc where
  | cell (key : Nat)
  | oor
  | xlate
  | bad (key : Nat)
  | prot
  | token
  | peer (node : Nat) (off : Nat) (ob : Bool)
  | home (node : Nat) (ob : Bool)
  deriving DecidableEq, Repr

/-- Whether a kind of access writes. -/
def isWrite : AccKind → Bool
  | .store => true | .engWrite => true | _ => false

/-- The attributes of a leaf let the access through (R43). -/
def leafOk (a : Acc) (e : Word) : Bool :=
  (a.priv || decide (bits e 5 1 = 1)) &&
    (match a.kind with
     | .load => decide (bits e 2 1 = 1)
     | .engRead => decide (bits e 2 1 = 1)
     | .store => decide (bits e 3 1 = 1)
     | .engWrite => decide (bits e 3 1 = 1)
     | .amo => decide (bits e 2 1 = 1 ∧ bits e 3 1 = 1)
     | .fetch => decide (bits e 4 1 = 1))

/-- An access to a slice through the cluster or module window (R131): the issuer's own, or a core of its launch; an engine
source only the issuer's own (R24). -/
def sliceLoc (s : State) (a : Acc) (k o : Nat) : Loc :=
  if k = a.core then .cell (sliceKey k o)
  else if a.own then .prot
  else
    match launchOf s k, launchOf s a.core with
    | some l, some m => if l = m then .cell (sliceKey k o) else .prot
    | _, _ => .prot

/-- The host window base of an access (R452). -/
def hwBase (s : State) : Word :=
  match s.hwOld with
  | some w => if Config.oldBase s.nonce then w else bar s 0x010000
  | none => bar s 0x010000

/-- The region check of R66 and R71 where RT = 1: own backing, which is where the leaf leads, under EXCL and for reads under DUP; the
home under NONE, in the order that the leaf's OB bit says, whatever its TYPE (R71; R40 would have OB ignored where the TYPE is not 2).
DESIGN CHOICE (log 74). -/
def tokenGate (s : State) (a : Acc) (e : Word) (va : Nat) (backing : Loc) : Loc :=
  if bits e 6 1 = 0 then backing
  else
    match regionOf s va with
    | none => .prot
    | some r =>
      match ownTok r va with
      | .excl => backing
      | .dup =>
        (match a.kind with
         | .store => .token
         | .amo => .token
         | .engWrite => .prot
         | _ => backing)
      | .none => .home r.home (decide (bits e 7 1 = 1))

/-- An access through a translated leaf (R37, R43, R65, R71, R242). A region whose leaf leads to another node has no backing here: an
access that would use it is a protection violation, which the spec does not state. DESIGN CHOICE (log 70, log 74). -/
def leafLoc (s : State) (a : Acc) (p : Page) (va : Nat) : Loc :=
  let pa := p.pa + va % p.size
  let ty := pa / 2 ^ 52
  let node := pa / 2 ^ 40 % 4096
  let off := pa % 2 ^ 39
  if leafOk a p.ent = false then .prot
  else if ty = 1 then
    (match a.kind with
     | .amo => .prot
     | .engRead => .prot
     | _ => tokenGate s a p.ent va (.cell (hostKey (((hwBase s).toNat + off) % 2 ^ 64))))
  else if ty = 0 ∨ node = myNode s then tokenGate s a p.ent va (.cell (dramKey off))
  else if jobNode s node = false then .prot
  else if bits p.ent 6 1 = 1 then tokenGate s a p.ent va .prot
  else if a.kind = .engRead then .prot
  else .peer node off (decide (bits p.ent 7 1 = 1))

/-- Where one byte of an access leads: the virtual map of R32, and below it translation. -/
def resolve (s : State) (a : Acc) (va : Word) : Loc :=
  let v := va.toNat
  if v < 2 ^ 18 then .cell (sliceKey a.core v)
  else if v < 0x1000000 then .xlate
  else if v < 0x1C00000 then sliceLoc s a (a.core / 48 * 48 + (v - 0x1000000) / 2 ^ 18) (v % 2 ^ 18)
  else if v < 2 ^ 32 then .xlate
  else if v < 0x180000000 then
    (match coreOfId (v / 2 ^ 18 % 2 ^ 13) with
     | some k => sliceLoc s a k (v % 2 ^ 18)
     | none => .oor)
  else if v < 2 ^ 40 then .xlate
  else if v < 2 ^ 47 then
    (match translate s a (launchRec s a.core).ptroot v with
     | .page p => if a.slice then .prot else leafLoc s a p v
     | .ecc key => .bad key
     | .fault => .xlate)
  else .xlate

/-- The cells of table entries that an access to an address reads when no cache holds its page (R47). -/
def walkCells (s : State) (a : Acc) (va : Word) : List Nat :=
  let v := va.toNat
  let root := (launchRec s a.core).ptroot
  if v < 2 ^ 40 ∨ 2 ^ 47 ≤ v ∨ (cached s a (bits root 0 12) v).isSome = true then []
  else (walkTables s [0, 1, 2, 3] (bits root 12 44 * 2 ^ 12) v).map (fun t => entryKey t.2 t.1 v)

/-- The region whose token an access to an address is checked against (R43, R71). -/
def tokenOf (s : State) (a : Acc) (va : Word) : Option Nat :=
  let v := va.toNat
  if v < 2 ^ 40 ∨ 2 ^ 47 ≤ v then none
  else
    match translate s a (launchRec s a.core).ptroot v with
    | .page p => if bits p.ent 6 1 = 1 then (regionOf s v).map (fun r => r.base) else none
    | _ => none

/-! ## Reading and writing bytes -/

/-- The lowest virtual address of a list of bytes that meet a test (R425, R132). -/
def lowest (l : List (Word × Loc)) (p : Loc → Bool) : Option Word :=
  l.foldl (fun acc x => if p x.2 then
    (match acc with
     | none => some x.1
     | some w => if x.1.toNat < w.toNat then some x.1 else some w) else acc) none

/-- Why bytes cannot be accessed: a fault with its cause and address, an uncorrectable error in a unit of memory (R139), or the token
trap with its address (R72). -/
inductive Stop where
  | fault (cause : Nat) (va : Word)
  | ecc (key : Nat) (va : Word)
  | token (va : Word)
  deriving DecidableEq, Repr

/-- The unit whose error stops an access at a byte: that of a table entry, or its own, where the access reads it: a write does where it
covers the unit in part (R139). -/
def badUnit (s : State) (keys : List Nat) (writes : Bool) : Loc → Option Nat
  | .bad k => some k
  | .cell k => if poisoned s k && (!writes || !wholeUnit keys k) then some k else none
  | _ => none

/-- The cells of an access. -/
def cellsOf (locs : List (Word × Loc)) : List Nat := locs.filterMap (fun x => match x.2 with | .cell k => some k | _ => none)

/-- The first reason, in the order of R425, why an access is not performed: translation, protection, uncorrectable ECC, token. -/
def stopOf (s : State) (locs : List (Word × Loc)) (writes : Bool) : Option Stop :=
  match lowest locs (fun l => l == .xlate) with
  | some va => some (.fault faultXlate va)
  | none =>
    match lowest locs (fun l => l == .prot) with
    | some va => some (.fault faultProt va)
    | none =>
      let bad := badUnit s (cellsOf locs) writes
      match lowest locs (fun l => (bad l).isSome) with
      | some va => some (.ecc ((locs.findSome? (fun x => if x.1 = va then bad x.2 else none)).getD 0) va)
      | none =>
        match lowest locs (fun l => l == .token) with
        | some va => some (.token va)
        | none => none

/-- Whether a byte is remote. -/
def isFar : Loc → Bool
  | .peer _ _ _ => true | .home _ _ => true | _ => false

/-- The node that performs a remote byte. -/
def farNode : Loc → Nat
  | .peer n _ _ => n | .home n _ => n | _ => 0

/-- The address a remote byte is named by at the node that performs it. -/
def farAddr (va : Word) : Loc → Nat
  | .peer _ o _ => o | _ => va.toNat

/-- An out-of-range access recorded in ctl.oor of a context (R132). -/
def noteOor (s : State) (x : Nat) (kind : Nat) (va : Option Word) : State :=
  match va with
  | none => s
  | some a =>
    let c := getCtx s x
    if bits c.oor 63 1 = 1 then s
    else setCtx s x { c with oor := BitVec.ofNat 64 (2 ^ 63 + kind * 2 ^ 61 + a.toNat % 2 ^ 48), oorBy := none }

/-- The launch has made an access through the module window (R438). -/
def noteWindow (s : State) (k : Nat) (vas : List Word) : State :=
  if vas.any (fun va => decide (2 ^ 32 ≤ va.toNat ∧ va.toNat < 0x180000000)) then
    match launchOf s k with
    | some l => if (getLaunch s l).modWin then s else setLaunch s l { getLaunch s l with modWin := true }
    | none => s
  else s

/-- The 256-byte line of a cell. -/
def lineOf (key : Nat) : Nat := key / 256

/-- Cells written (R129, R139): the lines become dirty, a unit written whole loses its error. -/
def putCells (s : State) (cells : List (Nat × Byte)) : State :=
  let keys := cells.map (·.1)
  { s with
    mem := msetAll s.mem cells
    poison := s.poison.filter (fun b => !wholeUnit keys b)
    soft := s.soft.filter (fun b => !wholeUnit keys b)
    clean := s.clean.filter (fun l => !(keys.any (fun k => lineOf k == l))) }

/-- The lines of regions written while this module, not the home, holds EXCL (R73). -/
def noteLines (s : State) (vas : List Nat) : State :=
  if s.regions.isEmpty then s
  else
    { s with regions := s.regions.map (fun r =>
        let mine := vas.filter (fun v => decide (r.base ≤ v ∧ v < r.base + r.size) && decide (ownTok r v = .excl) && r.home != myNode s)
        { r with lines := mine.foldl (fun ls v => if ls.contains (v / 256) then ls else v / 256 :: ls) r.lines }) }

/-- What reading a list of bytes comes to: the bytes, a reason to stop, or remote bytes still to be asked for. -/
inductive Rd where
  | bytes (bs : List Byte)
  | stop (x : Stop)
  | far (locs : List (Word × Loc))
  deriving DecidableEq, Repr

/-- The answer already come for a byte (R65). -/
def answerOf (answers : List (Word × Byte)) (va : Word) : Option Byte :=
  (answers.find? (fun p => p.1 == va)).map (·.2)

/-- Where the bytes of an access lead; a byte already answered is accessed no more. -/
def locsOf (s : State) (a : Acc) (answers : List (Word × Byte)) (vas : List Word) : List (Word × Loc) :=
  vas.map (fun va => (va, if (answerOf answers va).isSome then Loc.oor else resolve s a va))

/-- The bytes of an access at a list of addresses: checked whole, out-of-range bytes zero (R33, R132, R425). DESIGN CHOICE (log 6). -/
def readBytes (s : State) (a : Acc) (answers : List (Word × Byte)) (vas : List Word) : Rd :=
  let locs := locsOf s a answers vas
  match stopOf s locs false with
  | some x => .stop x
  | none =>
    let missing := locs.filter (fun x => isFar x.2)
    if missing.isEmpty then
      .bytes (locs.map (fun x => match x.2 with
        | .cell k => mget s.mem k
        | _ => (answerOf answers x.1).getD 0))
    else .far missing

/-- The lowest out-of-range address of an access. -/
def oorOf (s : State) (a : Acc) (vas : List Word) : Option Word :=
  lowest (vas.map (fun va => (va, resolve s a va))) (fun l => l == .oor)

/-- What writing a list of bytes comes to: the state with the local bytes written, a reason to stop, or remote bytes. -/
inductive Wr where
  | done (s : State)
  | stop (x : Stop)
  | far (locs : List (Word × Loc)) (s : State)
  deriving DecidableEq, Repr

/-- Bytes written at a list of addresses, later ones winning: checked whole before any is written (R33, R71, R425). Remote
bytes are handed back, with the state in which the local ones are written. DESIGN CHOICE (log 6). -/
def writeBytes (s : State) (a : Acc) (cells : List (Word × Byte)) : Wr :=
  let locs := cells.map (fun c => (c.1, resolve s a c.1))
  match stopOf s locs true with
  | some x => .stop x
  | none =>
    let here := (cells.zip locs).filterMap (fun p => match p.2.2 with | .cell k => some (k, p.1.2) | _ => none)
    let tracked := (locs.filter (fun x => !isFar x.2)).map (fun x => x.1.toNat)
    let s1 := noteLines (putCells s here) tracked
    let far := locs.filter (fun x => isFar x.2)
    if far.isEmpty then .done s1 else .far far s1

/-- `n` addresses from `a` on, modulo 2^64. -/
def addrs (a : Word) (n : Nat) : List Word := (List.range n).map (fun i => a + BitVec.ofNat 64 i)

/-- What an access leaves behind beside its bytes: out-of-range bytes are recorded by the caller; soft errors in the units it read and in
the table entries of its walks are corrected and counted (R29, R139), the use of the module window is noted (R438). A write reads the
units that it covers in part (R139). -/
def noteAccess (s : State) (a : Acc) (vas : List Word) (writes : Bool) : State :=
  let s1 := noteWindow s a.core vas
  if s1.soft.isEmpty then s1
  else
    let keys := cellsOf (vas.map (fun va => (va, resolve s a va)))
    noteRead s1 (vas.flatMap (walkCells s a) ++ (if writes then keys.filter (fun k => !wholeUnit keys k) else keys))

/-! ## Remote accesses of a context (R65, R71) -/

/-- Two remote bytes that one node performs in one way: direct peer accesses of a node, NONE-state accesses of a region. -/
def samePiece (s : State) (x y : Word × Loc) : Bool :=
  match x.2, y.2 with
  | .peer n _ _, .peer m _ _ => n == m
  | .home n _, .home m _ => n == m && (regionOf s x.1.toNat).map (·.base) == (regionOf s y.1.toNat).map (·.base)
  | _, _ => false

/-- The pieces of a remote access that one node performs in one way. -/
def farPiece (s : State) (locs : List (Word × Loc)) : List (Word × Loc) :=
  match locs with
  | [] => []
  | x :: _ => locs.filter (samePiece s x)

/-- Whether a remote byte is a direct peer access, and whether its leaf is ordered (R65, R71). -/
def isPeer : Loc → Bool
  | .peer _ _ _ => true | _ => false
def farOb : Loc → Bool
  | .peer _ _ b => b | .home _ b => b | _ => false

/-- A kind of access that brings data (R65). -/
def bringsData : AccKind → Bool
  | .store => true | .amo => true | .engWrite => true | _ => false

/-- A request sent for a piece of an access (R65, R71): it travels on MC3, its data beside it on MC1, in order where the leaf has OB = 1.
The state that remembers it, and its tag. DEDUCED (log 23). -/
def askFar (s : State) (who : Asker) (launch : Option Nat) (kind : AccKind) (piece : List (Word × Loc)) (data : List Byte)
    (cas : Option (List Byte)) (amo : Option AmoOp) (hold : Bool := false) : State × Nat :=
  let tag := s.uid
  let l := (piece.head?.map (·.2)).getD .oor
  let acc : FarAcc := { kind := kind, addrs := piece.map (fun x => farAddr x.1 x.2), data := [], cas := cas.map (fun _ => []),
                        amo := amo, ob := farOb l }
  let body := if isPeer l then Body.peerReq tag acc else Body.noneReq tag acc hold
  let s1 := { s with uid := s.uid + 1, fars := s.fars ++ [{ tag := tag, who := who, kind := kind, vas := piece.map (fun x => x.1.toNat), node := farNode l, launch := launch, since := nowNs s, ob := farOb l }] }
  let s2 := sendPacket s1 launch (mkPacket s1 3 (farNode l) 0 body)
  (if bringsData kind then
     sendPacket s2 launch { mkPacket s2 1 (farNode l) 0 (.accData (myNode s2) tag data cas) with ord := farOb l }
   else s2, tag)

/-- A read of the executing context sends a request for remote bytes and blocks until they are answered (R65). -/
def askRead (s : State) (kind : AccKind) (locs : List (Word × Loc)) : Eff :=
  let (s1, tag) := askFar s (.ctx s.turn (cur s).start) (launchOf s (curCore s)) kind (farPiece s locs) [] none none
  .wait (setCur s1 { cur s1 with farTag := some tag }) .far

/-- The access a context makes by an instruction: its core, its mode. -/
def accOf (s : State) (kind : AccKind) : Acc := { core := curCore s, priv := (cur s).sm, kind := kind }

/-- A reason to stop, as an instruction meets it (R72, R425). -/
def stopEff (s : State) (x : Stop) : Eff :=
  match x with
  | .fault cause va => .fault s cause va
  | .ecc key va => .fault (noteDouble s key) (eccOf key) va
  | .token va => .trap s trapToken va

/-- A load of the executing context (R235, R236): its bytes go on to `k` with the state in which out-of-range bytes are
recorded. -/
def loadThen (s : State) (vas : List Word) (k : State → List Byte → Eff) : Eff :=
  let a := accOf s .load
  match readBytes s a (cur s).answers vas with
  | .stop x => stopEff s x
  | .far locs => askRead s .load locs
  | .bytes bs => k (noteAccess (noteOor s s.turn 0 (oorOf s a vas)) a vas false) bs

/-- A request that is over is remembered no more. -/
def dropFar (s : State) (tag : Nat) : State :=
  { s with fars := s.fars.filter (fun f => f.tag != tag)
           sent := s.sent.filter (fun p => match p.pkt.body with | .accData n t _ _ => !(n == myNode s && t == tag) | _ => true) }

/-- The tokens that a store of a context holds are given up: the homes that keep its place are told not to perform it (R13, R71). -/
def releaseHolds (s : State) (x : Nat) : State :=
  let c := getCtx s x
  if c.holds.isEmpty then s
  else
    c.holds.foldl (fun st h =>
      if h.tag = 0 then st
      else sendPacket (dropFar st h.tag) (launchOf st (coreOf x)) (mkPacket st 3 h.node 0 (.noneEnd h.tag false)))
      (setCtx s x { c with holds := [] })

/-- Bytes stored directly at peers (R65): they retire at once, and their acknowledgement is awaited by orderings only. -/
def storePeers (fuel : Nat) (s : State) (cells : List (Word × Byte)) (locs : List (Word × Loc)) : State :=
  match fuel with
  | 0 => s
  | fuel + 1 =>
    match locs with
    | [] => s
    | _ :: _ =>
      let piece := farPiece s locs
      let data := piece.map (fun y => ((cells.reverse.find? (fun c => c.1 == y.1)).map (·.2)).getD 0)
      let (s1, tag) := askFar s (.ctx s.turn (cur s).start) (launchOf s (curCore s)) .store piece data none none
      storePeers fuel (setCur s1 { cur s1 with acks := tag :: (cur s1).acks }) cells (locs.filter (fun y => !(piece.contains y)))

/-- The regions whose tokens the bytes of a store are checked against, in rising order: the order in which it holds them. -/
def spanBases (s : State) (a : Acc) (cells : List (Word × Byte)) : List Nat :=
  ((cells.filterMap (fun c => tokenOf s a c.1)).eraseDups).mergeSort (fun x y => decide (x ≤ y))

/-- A store whose NONE-state bytes do not lie all in one region with no other byte (R13, R71): its tokens are held one after another,
each region's at its home or here, and once all are checked every byte is performed, or the token trap is taken at `trap`, a byte that
failed its check here (R72). `far` are its remote bytes, `s1` the state with the local bytes written. While it is performed its context waits for tag 0. DEDUCED (log 20). -/
def spanStore (fuel : Nat) (s s1 : State) (cells : List (Word × Byte)) (far : List (Word × Loc)) (bases : List Nat)
    (trap : Option Word) : Eff :=
  match fuel with
  | 0 => .stay s
  | fuel + 1 =>
    let c := cur s
    match bases.find? (fun b => !c.holds.any (fun h => h.base == b)) with
    | some b =>
      let mine := far.filter (fun x => !isPeer x.2 && (regionOf s x.1.toNat).map (·.base) == some b)
      if mine.isEmpty then
        let hold := fun st => setCtx st s.turn { getCtx st s.turn with holds := (getCtx st s.turn).holds ++ [{ base := b, node := myNode st, tag := 0 }] }
        spanStore fuel (hold s) (hold s1) cells far bases trap
      else
        let data := mine.map (fun y => ((cells.reverse.find? (fun c => c.1 == y.1)).map (·.2)).getD 0)
        let (s2, tag) := askFar s (.ctx s.turn c.start) (launchOf s (curCore s)) .store mine data none none true
        .wait (setCur s2 { cur s2 with farTag := some tag }) .far
    | none =>
      match trap with
      | some va => stopEff (releaseHolds s s.turn) (.token va)
      | none =>
      let s2 := c.holds.foldl (fun st h =>
        if h.tag = 0 then st else sendPacket st (launchOf st (curCore st)) (mkPacket st 3 h.node 0 (.noneEnd h.tag true))) s1
      let s3 := storePeers far.length s2 cells (far.filter (fun x => isPeer x.2))
      let there := far.filter (fun x => !isPeer x.2)
      let done := cells.filter (fun x => !there.any (fun y => y.1 == x.1))
      .wait (setCur s3 { cur s3 with holds := (cur s3).holds.filter (fun h => h.tag != 0), farTag := some 0, answers := (cur s3).answers ++ done }) .far

/-- A store of the executing context (R235, R236): the state with its bytes written goes on to `k`. Bytes of a direct peer access retire
at once; those of a NONE-state access wait for the home's answer (R72), and what is answered or already written is not written again. -/
def storeThen (s : State) (cells : List (Word × Byte)) (k : State → Eff) : Eff :=
  let a := accOf s .store
  let vas := cells.map (·.1)
  let left := cells.filter (fun c => (answerOf (cur s).answers c.1).isNone)
  let note := fun st => noteAccess (noteOor st st.turn 1 (oorOf s a vas)) a vas true
  match writeBytes s a left with
  | .stop (.token va) =>
    let lower := (left.map (fun c => (c.1, resolve s a c.1))).filter (fun x => decide (x.1.toNat < va.toNat) && isFar x.2 && !isPeer x.2)
    let bases := spanBases s a (left.filter (fun c => lower.any (fun x => x.1 == c.1)))
    spanStore (bases.length + 1) s s left lower bases (some va)
  | .stop x => stopEff (releaseHolds s s.turn) x
  | .done s1 => k (note s1)
  | .far locs s1 =>
    let homes := locs.filter (fun x => !isPeer x.2)
    if homes.isEmpty then k (note (storePeers locs.length s1 cells locs))
    else if left.all (fun c => (homes.filter (fun x => (homes.head?.map (samePiece s x)).getD false)).any (fun x => x.1 == c.1)) then
      let data := homes.map (fun y => ((cells.reverse.find? (fun c => c.1 == y.1)).map (·.2)).getD 0)
      let (s2, tag) := askFar s (.ctx s.turn (cur s).start) (launchOf s (curCore s)) .store homes data none none
      .wait (setCur s2 { cur s2 with farTag := some tag }) .far
    else
      let bases := spanBases s a left
      spanStore (bases.length + 1) s s1 cells locs bases none

end Sys2Proof.Machine
end

