-- ==== Sys2Proof/Machine/Flags.lean ====
section
/-!
DEFINITION. Flags and rounding state: the fields of ctl.fcsr (R154) and the rounding mode of an instruction (R163, R164).
-/
namespace Sys2Proof.Machine

/-- The flags of ctl.fcsr by their bits (R154): NX, UF, OF, DZ, NV, UFL, ABD. -/
def flagNX : Nat := 1
def flagUF : Nat := 2
def flagOF : Nat := 4
def flagDZ : Nat := 8
def flagNV : Nat := 16
def flagUFL : Nat := 32
def flagABD : Nat := 64

/-- Flags set in ctl.fcsr: each is sticky (R154). -/
def raiseFlags (c : Ctx) (f : Nat) : Ctx := { c with fcsr := c.fcsr ||| BitVec.ofNat 64 (f % 128) }

/-- The dynamic rounding mode ctl.fcsr.RM; codes 5-7 are reserved (R154). -/
def dynMode (c : Ctx) : Option RMode :=
  match bits c.fcsr 8 3 with
  | 0 => some .rne | 1 => some .rtz | 2 => some .rup | 3 => some .rdn | 4 => some .rna | _ => none

/-- The mode of a scalar float instruction (R164); `none` is the reserved-field trap. -/
def rselMode (c : Ctx) : RSel → Option RMode
  | .rne => some .rne | .rtz => some .rtz | .rup => some .rup | .rdn => some .rdn | .rna => some .rna
  | .dyn => dynMode c

/-- The mode of a vector instruction (R164); `none` is the reserved-field trap. -/
def xMode (c : Ctx) : XMode → Option RMode
  | .dyn => dynMode c | .rne => some .rne | .rtz => some .rtz | .sr => some .sr

end Sys2Proof.Machine
end

