-- ==== Sys2Proof/Machine/Csr.lean ====
section
/-!
DEFINITION. The control registers: their numbers, who may read and write them, their values and the effect of a write
(R9, R39, R94, R95, R110, R132, R148, R149, R152-R158).
-/
namespace Sys2Proof.Machine

/-- The U column of R152. -/
inductive UAcc where
  | r | rw | sOnly
  deriving DecidableEq, Repr

/-- The U access of a control register; `none` for an unassigned number (R152, R157). -/
def csrAcc (n : Nat) : Option UAcc :=
  if n = 0 then some .r
  else if 1 ≤ n ∧ n ≤ 5 then some .rw
  else if n = 6 ∨ n = 7 then some .r
  else if 0x10 ≤ n ∧ n ≤ 0x13 then some .rw
  else if n = 0x18 then some .rw
  else if 0x20 ≤ n ∧ n ≤ 0x32 then some .r
  else if 0x40 ≤ n ∧ n ≤ 0x42 then some .rw
  else if n = 0x48 ∨ n = 0x49 then some .r
  else if 0x50 ≤ n ∧ n ≤ 0x53 then some .rw
  else if 0x54 ≤ n ∧ n ≤ 0x5C then some .r
  else if n = 0x60 ∨ n = 0x61 then some .r
  else if 0x68 ≤ n ∧ n ≤ 0x6A then some .r
  else if n = 0x70 ∨ n = 0x71 then some .rw
  else if 0x78 ≤ n ∧ n ≤ 0x7B then some .r
  else if n = 0x80 then some .r
  else if 0x800 ≤ n ∧ n ≤ 0x802 then some .sOnly
  else none

/-- ctl.status (R153). -/
def statusWord (c : Ctx) : Word := BitVec.ofNat 64 (b2n c.mkr * 8 + b2n c.pm * 4 + b2n c.sm * 2 + b2n c.t)

/-- The registers of a context that are stream- or queue-bound (R150, R151). -/
def boundRegs (c : Ctx) : List Nat :=
  c.gens.toList.filterMap (fun g => g.map (fun x => x.reg.toNat)) ++ c.qb.map (fun q => q.1.toNat)

/-- ctl.bind (R152). -/
def bindWord (c : Ctx) : Word :=
  BitVec.ofNat 64 ((List.range 32).foldr (fun i acc => b2n ((boundRegs c).contains i) + 2 * acc) 0)

/-- ctl.lzst of a pitch (R110). -/
def lzstWord (p : Pitch) : Word :=
  BitVec.ofNat 64 (p.gen.toNat * 2 ^ 32 + p.state * 2 ^ 27
    + (p.pegs.countP (fun g => match g with | .booked _ => true | _ => false)) * 2 ^ 18 + p.arrived * 2 ^ 9)

/-- The dword `i` of a launch record (R380). -/
def recWord (l : Launch) (i : Nat) : Word := l.words.getD i 0

/-- NLEV of a launch (R380). -/
def recLev (l : Launch) : Nat := bits (recWord l 0) 0 4

/-- The value of a control register of the executing context (R152, R225). -/
def csrVal (s : State) (n : Nat) : Word :=
  let c := cur s
  let k := getCore s (curCore s)
  if n = 0 then statusWord c
  else if n = 1 then c.tvec
  else if n = 2 then c.tpc
  else if n = 3 then c.tcause
  else if n = 4 then c.tval
  else if n = 5 then c.mvec
  else if n = 6 then c.mpc
  else if n = 7 then c.mrk
  else if n = 0x10 then c.vfmt.setWidth 64
  else if n = 0x11 then c.fcsr
  else if n = 0x12 then BitVec.ofNat 64 (b2n c.fmode)
  else if n = 0x13 then c.rng
  else if n = 0x18 then c.oor
  else if 0x20 ≤ n ∧ n ≤ 0x27 then c.wid.toList.getD (n - 0x20) 0
  else if 0x28 ≤ n ∧ n ≤ 0x2F then
    (if n - 0x28 < recLev (launchRec s (curCore s)) then BitVec.ofNat 64 (bits (recWord (launchRec s (curCore s)) (8 + (n - 0x28))) 0 32) else 1)
  else if n = 0x30 then recWord (launchRec s (curCore s)) 2
  else if n = 0x31 then k.lcore
  else if n = 0x32 then recWord (launchRec s (curCore s)) 4
  else if n = 0x40 then c.mfmt
  else if n = 0x41 then c.ascale
  else if n = 0x42 then c.bscale
  else if n = 0x48 then BitVec.ofNat 64 k.xwm
  else if n = 0x49 then c.xprom
  else if 0x50 ≤ n ∧ n ≤ 0x53 then c.lc.toList.getD (n - 0x50) 0
  else if 0x54 ≤ n ∧ n ≤ 0x57 then c.ls.toList.getD (n - 0x54) 0
  else if 0x58 ≤ n ∧ n ≤ 0x5B then c.le.toList.getD (n - 0x58) 0
  else if n = 0x5C then BitVec.ofNat 64 c.ldepth
  else if n = 0x60 then timeWord s
  else if n = 0x61 then BitVec.ofNat 64 s.cycle
  else if n = 0x68 then BitVec.ofNat 64 (idxOf s.turn)
  else if n = 0x69 then BitVec.ofNat 64 (coreId (curCore s))
  else if n = 0x6A then BitVec.ofNat 64 (myNode s)
  else if n = 0x70 then c.ub.setWidth 64
  else if n = 0x71 then BitVec.ofNat 64 (c.prioMax.toNat * 16 + c.prio.toNat)
  else if 0x78 ≤ n ∧ n ≤ 0x7B then lzstWord (k.pitch.toList.getD (n - 0x78) {})
  else if n = 0x80 then bindWord c
  else if n = 0x800 then (launchRec s (curCore s)).ptroot
  else if n = 0x801 then k.svec
  else if n = 0x802 then (getOct s (octOf (curCore s))).mxwt
  else 0

/-- The three ways a CSR instruction writes (R224). -/
inductive CsrOp where
  | write | set | clear
  deriving DecidableEq, Repr

/-- A field RW under a mask (R9, R224): the bits outside the mask keep their value. -/
def rwField (op : CsrOp) (mask : Nat) (old a : Word) : Word :=
  let m := BitVec.ofNat 64 mask
  match op with
  | .write => (old &&& ~~~m) ||| (a &&& m)
  | .set => old ||| (a &&& m)
  | .clear => old &&& ~~~(a &&& m)

/-- The upper-bank state after a write of ctl.bankst (R148): 3 changes nothing; entering OFF discards the content. -/
def setBank (c : Ctx) (ub : BitVec 2) : Ctx :=
  if ub = 3 then c
  else if ub = 2 then
    { c with ub := 2, v := Vector.ofFn (fun i : Fin 32 => if i.val < 16 then c.v[i] else 0) }
  else { c with ub := ub }

/-- The lowest bound register of the upper bank (R148). -/
def lowBound (c : Ctx) : Option Nat := (List.range 32).find? (fun i => decide (16 ≤ i) && (boundRegs c).contains i)

/-- A write of ctl.lcN (R149): ignored at or above ctl.ldepth. -/
def setLc (c : Ctx) (j : Nat) (w : Word) : Ctx :=
  if h : j < 4 then (if j < c.ldepth then { c with lc := c.lc.set j w } else c) else c

/-- The effect of a CSR write on the executing context and its units (R148, R152, R157, R224). A write to a field that is RO in
the mode, or reserved, is ignored. An ASID that ctl.ptroot comes to name is flushed with the launch's (R48). -/
def csrPut (s : State) (op : CsrOp) (n : Nat) (a : Word) : State :=
  let c := cur s
  let old := csrVal s n
  let full := rwField op (2 ^ 64 - 1) old a
  if n = 0 then
    (if c.sm then
      let w := rwField op 5 old a
      setCur s { c with pm := decide (bits w 2 1 = 1), t := decide (bits w 0 1 = 1) }
     else s)
  else if n = 1 then setCur s { c with tvec := rwField op (2 ^ 64 - 4) old a }
  else if n = 2 then setCur s { c with tpc := full }
  else if n = 3 then setCur s { c with tcause := rwField op 0xFFFF old a }
  else if n = 4 then setCur s { c with tval := full }
  else if n = 5 then setCur s { c with mvec := rwField op (2 ^ 64 - 4) old a }
  else if n = 0x10 then setCur s { c with vfmt := (rwField op 0xF old a).setWidth 4 }
  else if n = 0x11 then setCur s { c with fcsr := rwField op 0x77F old a }
  else if n = 0x12 then setCur s { c with fmode := decide (bits (rwField op 1 old a) 0 1 = 1) }
  else if n = 0x13 then setCur s { c with rng := full }
  else if n = 0x18 then
    (if op ≠ .set ∧ bits a 63 1 = 1 then setCur s { c with oor := BitVec.ofNat 64 (bits old 0 63) } else s)
  else if n = 0x40 then setCur s { c with mfmt := rwField op 0x1FFF old a }
  else if n = 0x41 then setCur s { c with ascale := rwField op 0xFFFFFFFFFFFC old a }
  else if n = 0x42 then setCur s { c with bscale := rwField op 0xFFFFFFFFFFFC old a }
  else if 0x50 ≤ n ∧ n ≤ 0x53 then setCur s (setLc c (n - 0x50) full)
  else if n = 0x70 then setCur s (setBank c ((rwField op 3 old a).setWidth 2))
  else if n = 0x71 then
    setCur s { c with prio := if bits (rwField op 3 old a) 0 2 ≤ c.prioMax.toNat then (rwField op 3 old a).setWidth 2 else c.prioMax }
  else if n = 0x800 then
    (match launchOf s (curCore s) with
     | some l =>
       let w := rwField op (2 ^ 56 - 1) old a
       let x := getLaunch s l
       setLaunch s l { x with ptroot := w, asids := if x.asid = bits w 0 12 ∨ x.asids.contains (bits w 0 12) then x.asids else bits w 0 12 :: x.asids }
     | none => s)
  else if n = 0x801 then setCore s (curCore s) { getCore s (curCore s) with svec := full }
  else if n = 0x802 then setOct s (octOf (curCore s)) { getOct s (octOf (curCore s)) with mxwt := full }
  else s

/-- The traps of a CSR instruction, in the order of R157, and of a write that would turn the upper bank OFF while one of its
registers is bound (R148). -/
def csrTrap (s : State) (i : Instr) (n : Nat) (w : Option (CsrOp × Word)) : Option Eff :=
  match csrAcc n with
  | none => some (illegal i s .reserved)
  | some u =>
    if (cur s).sm = false ∧ (u = .sOnly ∨ (u = .r ∧ w.isSome)) then some (.trap s trapPriv (BitVec.ofNat 64 n))
    else
      match w with
      | none => none
      | some (op, a) =>
        if n = 0x70 ∧ bits (rwField op 3 (csrVal s n) a) 0 2 = 2 then
          (lowBound (cur s)).map (fun r => .trap s trapBank (BitVec.ofNat 64 r))
        else none

/-- CSRW, CSRS and CSRC (R224): the write, and the old value in s[d]. -/
def csrDo (i : Instr) (op : CsrOp) (d a : Reg) (n : BitVec 12) (s : State) : Eff :=
  match csrTrap s i n.toNat (some (op, sreg s a)) with
  | some e => e
  | none => .ok (setSreg (csrPut s op n.toNat (sreg s a)) d (csrVal s n.toNat))

/-- CSRR (R224). -/
def execCsrr (d : Reg) (n : BitVec 12) (s : State) : Host.Outcome State Fault Refusal :=
  finish (.csrr d n)
    (match csrTrap s (.csrr d n) n.toNat none with
     | some e => e
     | none => .ok (setSreg s d (csrVal s n.toNat)))

/-- CSRW (R224). -/
def execCsrw (d a : Reg) (n : BitVec 12) (s : State) : Host.Outcome State Fault Refusal :=
  finish (.csrw d a n) (csrDo (.csrw d a n) .write d a n s)

/-- CSRS (R224). -/
def execCsrs (d a : Reg) (n : BitVec 12) (s : State) : Host.Outcome State Fault Refusal :=
  finish (.csrs d a n) (csrDo (.csrs d a n) .set d a n s)

/-- CSRC (R224). -/
def execCsrc (d a : Reg) (n : BitVec 12) (s : State) : Host.Outcome State Fault Refusal :=
  finish (.csrc d a n) (csrDo (.csrc d a n) .clear d a n s)

end Sys2Proof.Machine
end

