-- ==== Sys2Proof/Machine/Fetch.lean ====
section
/-!
DEFINITION. Fetching an instruction (R34, R188, R198): its word and its literals at the program counter, and what the
fetch itself can meet.
-/
namespace Sys2Proof.Machine

/-- What a fetch comes to: the three words from the program counter on, those beyond the instruction zero, or an end without
an instruction. -/
inductive Fetched where
  | words (w l1 l2 : Word32) (s : State)
  | ends (e : Eff)
  deriving DecidableEq, Repr

/-- `n` bytes of instruction from the program counter on (R34): the fetch faults of R425, order 1, a remote fetch (R65), or the
bytes, with an out-of-range word recorded (R132). DEDUCED (log 25). -/
def fetchThen (s : State) (pc : Word) (n : Nat) (k : State → List Byte → Fetched) : Fetched :=
  let a := accOf s .fetch
  match readBytes s a (cur s).answers (addrs pc n) with
  | .stop x => .ends (stopEff s x)
  | .far locs => .ends (askRead s .fetch locs)
  | .bytes bs => k (noteAccess (noteOor s s.turn 2 (oorOf s a (addrs pc n))) a (addrs pc n) false) bs

/-- The instruction words at the program counter of the executing context. -/
def fetch (s : State) : Fetched :=
  fetchThen s (cur s).pc 4 fun s1 bs =>
    let w := headWord bs
    if wordsOf w = 1 then .words w 0 0 s1
    else fetchThen s1 ((cur s).pc + 4) (4 * (wordsOf w - 1)) fun s2 cs => .words w (headWord cs) (headWord (cs.drop 4)) s2

/-- The instruction that a word and its literals are: the decoded one, or the illegal-word event with its sub-cause (R197). -/
def instrOf (w l1 l2 : Word32) : Instr :=
  match decode w l1 l2 with
  | .ok i => i
  | .error sub => .illegalWord w sub

end Sys2Proof.Machine
end

