-- ==== Sys2Proof/Machine/Operands.lean ====
section
/-!
DEFINITION. Operand forms: the integer operations of R211-R214 on words of any width, the width W, and the elements and
lane groups of a vector register (R145, R162).
-/
namespace Sys2Proof.Machine

/-! ## Integer operations (R212, R213) -/

def opAdd {n : Nat} (x y : BitVec n) : BitVec n := x + y
def opSub {n : Nat} (x y : BitVec n) : BitVec n := x - y
def opMul {n : Nat} (x y : BitVec n) : BitVec n := x * y
/-- The high half of the signed product. -/
def opMulh {n : Nat} (x y : BitVec n) : BitVec n := BitVec.ofInt n (x.toInt * y.toInt / 2 ^ n)
/-- The high half of the unsigned product. -/
def opMulhu {n : Nat} (x y : BitVec n) : BitVec n := BitVec.ofNat n (x.toNat * y.toNat / 2 ^ n)
/-- The signed quotient of R213: all ones for a zero divisor; MIN over -1 wraps to MIN. -/
def opDiv {n : Nat} (x y : BitVec n) : BitVec n :=
  if y = 0 then BitVec.allOnes n else BitVec.ofInt n (x.toInt.tdiv y.toInt)
/-- The unsigned quotient of R213. -/
def opDivu {n : Nat} (x y : BitVec n) : BitVec n :=
  if y = 0 then BitVec.allOnes n else BitVec.ofNat n (x.toNat / y.toNat)
/-- The signed remainder of R213: the sign of x, or zero; x for a zero divisor. -/
def opRem {n : Nat} (x y : BitVec n) : BitVec n :=
  if y = 0 then x else BitVec.ofInt n (x.toInt.tmod y.toInt)
/-- The unsigned remainder of R213. -/
def opRemu {n : Nat} (x y : BitVec n) : BitVec n :=
  if y = 0 then x else BitVec.ofNat n (x.toNat % y.toNat)
def opAnd {n : Nat} (x y : BitVec n) : BitVec n := x &&& y
def opOr {n : Nat} (x y : BitVec n) : BitVec n := x ||| y
def opXor {n : Nat} (x y : BitVec n) : BitVec n := x ^^^ y
def opAndn {n : Nat} (x y : BitVec n) : BitVec n := x &&& ~~~y
/-- Shifts take the amount modulo the width (R211). -/
def opShl {n : Nat} (x y : BitVec n) : BitVec n := x <<< (y.toNat % n)
def opShr {n : Nat} (x y : BitVec n) : BitVec n := x >>> (y.toNat % n)
def opSra {n : Nat} (x y : BitVec n) : BitVec n := x.sshiftRight (y.toNat % n)
def opRotr {n : Nat} (x y : BitVec n) : BitVec n := x.rotateRight (y.toNat % n)
def opMin {n : Nat} (x y : BitVec n) : BitVec n := if x.toInt < y.toInt then x else y
def opMax {n : Nat} (x y : BitVec n) : BitVec n := if x.toInt < y.toInt then y else x
def opMinu {n : Nat} (x y : BitVec n) : BitVec n := if x.toNat < y.toNat then x else y
def opMaxu {n : Nat} (x y : BitVec n) : BitVec n := if x.toNat < y.toNat then y else x
def opSlt {n : Nat} (x y : BitVec n) : BitVec n := if x.toInt < y.toInt then 1 else 0
def opSltu {n : Nat} (x y : BitVec n) : BitVec n := if x.toNat < y.toNat then 1 else 0
def opSeq {n : Nat} (x y : BitVec n) : BitVec n := if x = y then 1 else 0
/-- The number of leading zero bits. -/
def opClz {n : Nat} (x : BitVec n) : BitVec n := BitVec.ofNat n (if x = 0 then n else n - 1 - x.toNat.log2)
/-- The number of trailing zero bits. -/
def opCtz {n : Nat} (x : BitVec n) : BitVec n := BitVec.ofNat n (((List.range n).find? (fun i => x.getLsbD i)).getD n)
/-- The number of one bits. -/
def opPopc {n : Nat} (x : BitVec n) : BitVec n := BitVec.ofNat n ((List.range n).countP (fun i => x.getLsbD i))
/-- Bit i moved to bit n-1-i. -/
def opBrev {n : Nat} (x : BitVec n) : BitVec n := x.reverse
/-- Byte i moved to byte n/8-1-i. -/
def opBswap {n : Nat} (x : BitVec n) : BitVec n := BitVec.ofNat n (natOfBytes (bytesOfNat (n / 8) x.toNat).reverse)

/-- The low 32 bits of a register. -/
def low32 (x : Word) : Word32 := x.setWidth 32

/-- A two-operand integer operation under the width W (R211): with W = 1 on bits [31:0], the result sign-extended. -/
def widthOp2 (w : Bool) (f : {n : Nat} → BitVec n → BitVec n → BitVec n) (x y : Word) : Word :=
  if w then (f (low32 x) (low32 y)).signExtend 64 else f x y

/-- A one-operand integer operation under the width W (R211). -/
def widthOp1 (w : Bool) (f : {n : Nat} → BitVec n → BitVec n) (x : Word) : Word :=
  if w then (f (low32 x)).signExtend 64 else f x

/-- The bit field of EXT (R214): `l` is the length less one. -/
def extField (x : Word) (sh : Nat) (sx : Bool) (l : BitVec 6) : Word :=
  let f := (x.toNat / 2 ^ sh) % 2 ^ (l.toNat + 1)
  if sx ∧ f / 2 ^ l.toNat = 1 then BitVec.ofInt 64 ((f : Int) - 2 ^ (l.toNat + 1)) else BitVec.ofNat 64 f

/-- A 14-bit immediate, sign-extended (R217). -/
def imm14 (i : BitVec 14) : Word := i.signExtend 64

/-! ## Elements of vectors (R145, R162) -/

/-- The width of an element type (R162). -/
def tyWidth : ETy → Nat
  | .i8 => 8 | .n8 => 8 | .e4m3 => 8 | .e5m2 => 8
  | .i16 => 16 | .n16 => 16 | .bf16 => 16 | .fp16 => 16
  | .i32 => 32 | .n32 => 32 | .fp32 => 32

/-- A float type (R162). -/
def isFloat : ETy → Bool
  | .fp32 => true | .bf16 => true | .fp16 => true | .e4m3 => true | .e5m2 => true | _ => false

/-- A signed integer type. -/
def isSigned : ETy → Bool
  | .i8 => true | .i16 => true | .i32 => true | _ => false

/-- Element `i` of width `w` of a vector. -/
def elem (v : Vec) (w i : Nat) : Nat := v.toNat / 2 ^ (i * w) % 2 ^ w

/-- A vector from its elements of width `w`, the first lowest. -/
def ofElems (w : Nat) (l : List Nat) : Vec :=
  BitVec.ofNat 512 (l.foldr (fun x acc => x % 2 ^ w + 2 ^ w * acc) 0)

/-- The elements of width `w`. -/
def elems (v : Vec) (w : Nat) : List Nat := (List.range (512 / w)).map (fun i => elem v w i)

/-- The lane group of element `i` of width `w` (R145, R263). -/
def groupOf (w i : Nat) : Nat := i * w / 32

/-- A bit of a predicate. -/
def pbit (p : BitVec 16) (g : Nat) : Bool := p.getLsbD g

/-- Element `i` of width `w` is active (R263). -/
def active (p : BitVec 16) (w i : Nat) : Bool := pbit p (groupOf w i)

/-- A 16-bit predicate from its bits. -/
def ofBits16 (f : Nat → Bool) : BitVec 16 :=
  BitVec.ofNat 16 ((List.range 16).foldr (fun g acc => b2n (f g) + 2 * acc) 0)

/-- The vector of 64 bytes, the first lowest (R4). -/
def vecOfBytes (bs : List Byte) : Vec := BitVec.ofNat 512 (natOfBytes bs)
/-- The 64 bytes of a vector. -/
def bytesOfVec (v : Vec) : List Byte := bytesOfNat 64 v.toNat

end Sys2Proof.Machine
end

