-- ==== Sys2Proof/Machine/Scalar.lean ====
section
/-!
DEFINITION. The scalar integer instructions (R211-R214), the immediates and literal loads (R217).
-/
namespace Sys2Proof.Machine

/-- A result written to s[d], and on to the next instruction. -/
def putS (i : Instr) (s : State) (d : Reg) (w : Word) : Host.Outcome State Fault Refusal := finish i (.ok (setSreg s d w))

/-- ADD (R212). -/
def execAdd (d a b : Reg) (w : Bool) (s : State) : Host.Outcome State Fault Refusal :=
  putS (.add d a b w) s d (widthOp2 w opAdd (sreg s a) (sreg s b))

/-- SUB (R212). -/
def execSub (d a b : Reg) (w : Bool) (s : State) : Host.Outcome State Fault Refusal :=
  putS (.sub d a b w) s d (widthOp2 w opSub (sreg s a) (sreg s b))

/-- MUL (R212). -/
def execMul (d a b : Reg) (w : Bool) (s : State) : Host.Outcome State Fault Refusal :=
  putS (.mul d a b w) s d (widthOp2 w opMul (sreg s a) (sreg s b))

/-- MULH (R212). -/
def execMulh (d a b : Reg) (w : Bool) (s : State) : Host.Outcome State Fault Refusal :=
  putS (.mulh d a b w) s d (widthOp2 w opMulh (sreg s a) (sreg s b))

/-- MULHU (R212). -/
def execMulhu (d a b : Reg) (w : Bool) (s : State) : Host.Outcome State Fault Refusal :=
  putS (.mulhu d a b w) s d (widthOp2 w opMulhu (sreg s a) (sreg s b))

/-- DIV (R213). -/
def execDiv (d a b : Reg) (w : Bool) (s : State) : Host.Outcome State Fault Refusal :=
  putS (.div d a b w) s d (widthOp2 w opDiv (sreg s a) (sreg s b))

/-- DIVU (R213). -/
def execDivu (d a b : Reg) (w : Bool) (s : State) : Host.Outcome State Fault Refusal :=
  putS (.divu d a b w) s d (widthOp2 w opDivu (sreg s a) (sreg s b))

/-- REM (R213). -/
def execRem (d a b : Reg) (w : Bool) (s : State) : Host.Outcome State Fault Refusal :=
  putS (.rem d a b w) s d (widthOp2 w opRem (sreg s a) (sreg s b))

/-- REMU (R213). -/
def execRemu (d a b : Reg) (w : Bool) (s : State) : Host.Outcome State Fault Refusal :=
  putS (.remu d a b w) s d (widthOp2 w opRemu (sreg s a) (sreg s b))

/-- AND (R212). -/
def execAnd (d a b : Reg) (w : Bool) (s : State) : Host.Outcome State Fault Refusal :=
  putS (.and d a b w) s d (widthOp2 w opAnd (sreg s a) (sreg s b))

/-- OR (R212). -/
def execOr (d a b : Reg) (w : Bool) (s : State) : Host.Outcome State Fault Refusal :=
  putS (.or d a b w) s d (widthOp2 w opOr (sreg s a) (sreg s b))

/-- XOR (R212). -/
def execXor (d a b : Reg) (w : Bool) (s : State) : Host.Outcome State Fault Refusal :=
  putS (.xor d a b w) s d (widthOp2 w opXor (sreg s a) (sreg s b))

/-- ANDN (R212). -/
def execAndn (d a b : Reg) (w : Bool) (s : State) : Host.Outcome State Fault Refusal :=
  putS (.andn d a b w) s d (widthOp2 w opAndn (sreg s a) (sreg s b))

/-- SHL (R212). -/
def execShl (d a b : Reg) (w : Bool) (s : State) : Host.Outcome State Fault Refusal :=
  putS (.shl d a b w) s d (widthOp2 w opShl (sreg s a) (sreg s b))

/-- SHR (R212). -/
def execShr (d a b : Reg) (w : Bool) (s : State) : Host.Outcome State Fault Refusal :=
  putS (.shr d a b w) s d (widthOp2 w opShr (sreg s a) (sreg s b))

/-- SRA (R212). -/
def execSra (d a b : Reg) (w : Bool) (s : State) : Host.Outcome State Fault Refusal :=
  putS (.sra d a b w) s d (widthOp2 w opSra (sreg s a) (sreg s b))

/-- ROTR (R212). -/
def execRotr (d a b : Reg) (w : Bool) (s : State) : Host.Outcome State Fault Refusal :=
  putS (.rotr d a b w) s d (widthOp2 w opRotr (sreg s a) (sreg s b))

/-- MIN (R212). -/
def execMin (d a b : Reg) (w : Bool) (s : State) : Host.Outcome State Fault Refusal :=
  putS (.min d a b w) s d (widthOp2 w opMin (sreg s a) (sreg s b))

/-- MAX (R212). -/
def execMax (d a b : Reg) (w : Bool) (s : State) : Host.Outcome State Fault Refusal :=
  putS (.max d a b w) s d (widthOp2 w opMax (sreg s a) (sreg s b))

/-- MINU (R212). -/
def execMinu (d a b : Reg) (w : Bool) (s : State) : Host.Outcome State Fault Refusal :=
  putS (.minu d a b w) s d (widthOp2 w opMinu (sreg s a) (sreg s b))

/-- MAXU (R212). -/
def execMaxu (d a b : Reg) (w : Bool) (s : State) : Host.Outcome State Fault Refusal :=
  putS (.maxu d a b w) s d (widthOp2 w opMaxu (sreg s a) (sreg s b))

/-- SLT (R212). -/
def execSlt (d a b : Reg) (w : Bool) (s : State) : Host.Outcome State Fault Refusal :=
  putS (.slt d a b w) s d (widthOp2 w opSlt (sreg s a) (sreg s b))

/-- SLTU (R212). -/
def execSltu (d a b : Reg) (w : Bool) (s : State) : Host.Outcome State Fault Refusal :=
  putS (.sltu d a b w) s d (widthOp2 w opSltu (sreg s a) (sreg s b))

/-- SEQ (R212). -/
def execSeq (d a b : Reg) (w : Bool) (s : State) : Host.Outcome State Fault Refusal :=
  putS (.seq d a b w) s d (widthOp2 w opSeq (sreg s a) (sreg s b))

/-- CLZ (R212). -/
def execClz (d a : Reg) (w : Bool) (s : State) : Host.Outcome State Fault Refusal :=
  putS (.clz d a w) s d (widthOp1 w opClz (sreg s a))

/-- CTZ (R212). -/
def execCtz (d a : Reg) (w : Bool) (s : State) : Host.Outcome State Fault Refusal :=
  putS (.ctz d a w) s d (widthOp1 w opCtz (sreg s a))

/-- POPC (R212). -/
def execPopc (d a : Reg) (w : Bool) (s : State) : Host.Outcome State Fault Refusal :=
  putS (.popc d a w) s d (widthOp1 w opPopc (sreg s a))

/-- BREV (R212). -/
def execBrev (d a : Reg) (w : Bool) (s : State) : Host.Outcome State Fault Refusal :=
  putS (.brev d a w) s d (widthOp1 w opBrev (sreg s a))

/-- BSWAP (R212). -/
def execBswap (d a : Reg) (w : Bool) (s : State) : Host.Outcome State Fault Refusal :=
  putS (.bswap d a w) s d (widthOp1 w opBswap (sreg s a))

/-- EXT (R214): a field of s[a] from bit s[b] mod 64 up, `l` + 1 bits long, zero- or sign-extended. -/
def execExt (d a b : Reg) (x : Bool) (l : BitVec 6) (s : State) : Host.Outcome State Fault Refusal :=
  putS (.ext d a b x l) s d (extField (sreg s a) ((sreg s b).toNat % 64) x l)

/-- SEL (R214): s[a] when bit i of the predicate is 1, else s[b]. -/
def execSel (d a b : Reg) (i : BitVec 4) (p : PReg) (s : State) : Host.Outcome State Fault Refusal :=
  putS (.sel d a b i p) s d (if pbit (preg s p) i.toNat then sreg s a else sreg s b)

/-- MOVP to a scalar (R214). -/
def execMovpToScalar (d : Reg) (p : PReg) (s : State) : Host.Outcome State Fault Refusal :=
  putS (.movpToScalar d p) s d ((preg s p).setWidth 64)

/-- MOVP to a predicate (R214); a write to p0 is discarded (R145). -/
def execMovpToPredicate (p : PReg) (a : Reg) (s : State) : Host.Outcome State Fault Refusal :=
  finish (.movpToPredicate p a) (.ok (setPreg s p ((sreg s a).setWidth 16)))

/-- ADDI (R217). -/
def execAddi (d a : Reg) (i : BitVec 14) (s : State) : Host.Outcome State Fault Refusal :=
  putS (.addi d a i) s d (opAdd (sreg s a) (imm14 i))

/-- ANDI (R217). -/
def execAndi (d a : Reg) (i : BitVec 14) (s : State) : Host.Outcome State Fault Refusal :=
  putS (.andi d a i) s d (opAnd (sreg s a) (imm14 i))

/-- ORI (R217). -/
def execOri (d a : Reg) (i : BitVec 14) (s : State) : Host.Outcome State Fault Refusal :=
  putS (.ori d a i) s d (opOr (sreg s a) (imm14 i))

/-- XORI (R217). -/
def execXori (d a : Reg) (i : BitVec 14) (s : State) : Host.Outcome State Fault Refusal :=
  putS (.xori d a i) s d (opXor (sreg s a) (imm14 i))

/-- SLTI (R217). -/
def execSlti (d a : Reg) (i : BitVec 14) (s : State) : Host.Outcome State Fault Refusal :=
  putS (.slti d a i) s d (opSlt (sreg s a) (imm14 i))

/-- SLTUI (R217). -/
def execSltui (d a : Reg) (i : BitVec 14) (s : State) : Host.Outcome State Fault Refusal :=
  putS (.sltui d a i) s d (opSltu (sreg s a) (imm14 i))

/-- ADDIW (R217). -/
def execAddiw (d a : Reg) (i : BitVec 14) (s : State) : Host.Outcome State Fault Refusal :=
  putS (.addiw d a i) s d (widthOp2 true opAdd (sreg s a) (imm14 i))

/-- SHLI (R217). -/
def execShli (d a : Reg) (n : BitVec 6) (s : State) : Host.Outcome State Fault Refusal :=
  putS (.shli d a n) s d (opShl (sreg s a) (n.setWidth 64))

/-- SHRI (R217). -/
def execShri (d a : Reg) (n : BitVec 6) (s : State) : Host.Outcome State Fault Refusal :=
  putS (.shri d a n) s d (opShr (sreg s a) (n.setWidth 64))

/-- SRAI (R217). -/
def execSrai (d a : Reg) (n : BitVec 6) (s : State) : Host.Outcome State Fault Refusal :=
  putS (.srai d a n) s d (opSra (sreg s a) (n.setWidth 64))

/-- LUI (R217): the 19-bit value, sign-extended, shifted left by 13. -/
def execLui (d : Reg) (v : BitVec 19) (s : State) : Host.Outcome State Fault Refusal :=
  putS (.lui d v) s d (v.signExtend 64 <<< (13 : Nat))

/-- LIW (R217): the literal, sign-extended. -/
def execLiw (d : Reg) (w : Word32) (s : State) : Host.Outcome State Fault Refusal :=
  putS (.liw d w) s d (w.signExtend 64)

/-- LID (R217): the high literal above the low one. -/
def execLid (d : Reg) (lo hi : Word32) (s : State) : Host.Outcome State Fault Refusal :=
  putS (.lid d lo hi) s d (BitVec.ofNat 64 (hi.toNat * 2 ^ 32 + lo.toNat))

end Sys2Proof.Machine
end

