-- ==== Sys2Proof/Machine/Control.lean ====
section
/-!
DEFINITION. Branches, jumps, loops (R218-R223), fences and scheduling (R226-R229), traps and their return (R230-R233), and
the events of a context's traps and waits: ILLEGAL_WORD, MISSED_PROMISE, SLEEPU_WAKE.
-/
namespace Sys2Proof.Machine

/-- The target of a branch (R190). -/
def branchTo (s : State) (o : BitVec 14) : Word := (cur s).pc + o.signExtend 64 * 4

/-- A branch (R218): taken, a control transfer; not taken, in sequence. -/
def branch (i : Instr) (s : State) (o : BitVec 14) (taken : Bool) : Host.Outcome State Fault Refusal :=
  finish i (if taken then .jump s (branchTo s o) else .ok s)

/-- BEQ (R218). -/
def execBeq (a b : Reg) (o : BitVec 14) (s : State) : Host.Outcome State Fault Refusal :=
  branch (.beq a b o) s o (decide (sreg s a = sreg s b))
/-- BNE (R218). -/
def execBne (a b : Reg) (o : BitVec 14) (s : State) : Host.Outcome State Fault Refusal :=
  branch (.bne a b o) s o (decide (sreg s a ≠ sreg s b))
/-- BLT (R218). -/
def execBlt (a b : Reg) (o : BitVec 14) (s : State) : Host.Outcome State Fault Refusal :=
  branch (.blt a b o) s o (decide ((sreg s a).toInt < (sreg s b).toInt))
/-- BGE (R218). -/
def execBge (a b : Reg) (o : BitVec 14) (s : State) : Host.Outcome State Fault Refusal :=
  branch (.bge a b o) s o (decide ((sreg s b).toInt ≤ (sreg s a).toInt))
/-- BLTU (R218). -/
def execBltu (a b : Reg) (o : BitVec 14) (s : State) : Host.Outcome State Fault Refusal :=
  branch (.bltu a b o) s o (decide ((sreg s a).toNat < (sreg s b).toNat))
/-- BGEU (R218). -/
def execBgeu (a b : Reg) (o : BitVec 14) (s : State) : Host.Outcome State Fault Refusal :=
  branch (.bgeu a b o) s o (decide ((sreg s b).toNat ≤ (sreg s a).toNat))
/-- BBS (R218). -/
def execBbs (a b : Reg) (o : BitVec 14) (s : State) : Host.Outcome State Fault Refusal :=
  branch (.bbs a b o) s o ((sreg s a).getLsbD ((sreg s b).toNat % 64))
/-- BBC (R218). -/
def execBbc (a b : Reg) (o : BitVec 14) (s : State) : Host.Outcome State Fault Refusal :=
  branch (.bbc a b o) s o (!(sreg s a).getLsbD ((sreg s b).toNat % 64))
/-- BP (R218). -/
def execBp (a b : PReg) (o : BitVec 14) (s : State) : Host.Outcome State Fault Refusal :=
  branch (.bp a b o) s o (decide (preg s a &&& preg s b ≠ 0))
/-- BNP (R218). -/
def execBnp (a b : PReg) (o : BitVec 14) (s : State) : Host.Outcome State Fault Refusal :=
  branch (.bnp a b o) s o (decide (preg s a &&& preg s b = 0))

/-- JAL (R219): the link, and control to the target. -/
def execJal (d : Reg) (o : BitVec 21) (s : State) : Host.Outcome State Fault Refusal :=
  finish (.jal d o) (.jump (setSreg s d ((cur s).pc + 4)) ((cur s).pc + o.signExtend 64 * 4))

/-- JALR (R219): a target that is not a multiple of 4 is the misalignment trap, and the link is not written. -/
def execJalr (d a : Reg) (i : BitVec 16) (s : State) : Host.Outcome State Fault Refusal :=
  let t := sreg s a + i.signExtend 64
  finish (.jalr d a i)
    (if t.toNat % 4 ≠ 0 then .trap s trapAlign t else .jump (setSreg s d ((cur s).pc + 4)) t)

/-- The exit address of a loop whose last body instruction is at `le` (R220): its word is fetched for its length. -/
def exitThen (s : State) (le : Word) (k : State → Word → Eff) : Eff :=
  let a := accOf s .fetch
  match readBytes s a (cur s).answers (addrs le 4) with
  | .stop x => stopEff s x
  | .far locs => askRead s .fetch locs
  | .bytes bs => k (noteAccess (noteOor s s.turn 2 (oorOf s a (addrs le 4))) a (addrs le 4) false)
      (le + BitVec.ofNat 64 (4 * wordsOf (headWord bs)))

/-- A loop opened (R220): a count of 0 skips the body; a fifth loop is the loop-overflow trap. -/
def openLoop (i : Instr) (s : State) (count : Word) (e : BitVec 12) : Eff :=
  let c := cur s
  let le := c.pc + BitVec.ofNat 64 (4 * e.toNat)
  if count = 0 then exitThen s le (fun s1 t => .jump s1 t)
  else if h : c.ldepth < 4 then
    .jump (setCur s { c with lc := c.lc.set c.ldepth count, ls := c.ls.set c.ldepth (c.pc + 4), le := c.le.set c.ldepth le,
                             ldepth := c.ldepth + 1 }) (c.pc + 4)
  else .trap s (trapLoop 0) (wordVal i)

/-- LOOP (R220). -/
def execLoop (a : Reg) (e : BitVec 12) (s : State) : Host.Outcome State Fault Refusal :=
  finish (.loop a e) (openLoop (.loop a e) s (sreg s a) e)

/-- LOOPI (R220). -/
def execLoopi (c e : BitVec 12) (s : State) : Host.Outcome State Fault Refusal :=
  finish (.loopi c e) (openLoop (.loopi c e) s (c.setWidth 64) e)

/-- The loop stack with every entry from `n` on emptied (R221). -/
def popLoops (c : Ctx) (n : Nat) : Ctx :=
  { c with
    lc := Vector.ofFn (fun i : Fin 4 => if i.val < n then c.lc[i] else 0)
    ls := Vector.ofFn (fun i : Fin 4 => if i.val < n then c.ls[i] else 0)
    le := Vector.ofFn (fun i : Fin 4 => if i.val < n then c.le[i] else 0)
    ldepth := n }

/-- LEXIT (R221): the innermost `l` + 1 loops are left, and control goes to the exit of the outermost of them. -/
def execLexit (l : BitVec 2) (s : State) : Host.Outcome State Fault Refusal :=
  let n := l.toNat + 1
  finish (.lexit l)
    (if (cur s).ldepth < n then .trap s (trapLoop 1) (wordVal (.lexit l))
     else exitThen s ((cur s).le.toList.getD ((cur s).ldepth - n) 0)
       (fun s1 t => .jump (setCur s1 (popLoops (cur s1) ((cur s).ldepth - n))) t))

/-- A release at a scope waits for the acknowledgements of the context's peer stores (R65, R408); at `.ctx` it orders only
within the context. DESIGN CHOICE (log 6). -/
def afterStores (s : State) (scope : Scope) (k : Eff) : Eff :=
  if scope ≠ .ctx ∧ (cur s).acks ≠ [] then .wait s .acks else k

/-- FENCE (R226): the accesses of this machine are performed in program order (log 6), so only peer stores are waited for, by
the masks that order stores. -/
def execFence (o : BitVec 4) (sc : Scope) (s : State) : Host.Outcome State Fault Refusal :=
  finish (.fence o sc) (if o.toNat / 4 = 0 then .ok s else afterStores s sc (.ok s))

/-- SLEEPU (R227). -/
def execSleepu (d a : Reg) (s : State) : Host.Outcome State Fault Refusal :=
  finish (.sleepu d a)
    (if (sreg s a).toNat ≤ nowNs s then .ok (setSreg s d (timeWord s)) else .wait s (.sleep (sreg s a).toNat d))

/-- PRIO (R228). -/
def execPrio (d : Reg) (n : BitVec 2) (s : State) : Host.Outcome State Fault Refusal :=
  let c := cur s
  finish (.prio d n)
    (.ok (setSreg (setCur s { c with prio := if n.toNat ≤ c.prioMax.toNat then n else c.prioMax }) d (c.prio.setWidth 64)))

/-- NOP (R229). -/
def execNop (s : State) : Host.Outcome State Fault Refusal := finish .nop (.ok s)

/-- YIELD (R229): for the next 4 cycles other able contexts go first. DEDUCED (log 63). -/
def execYield (s : State) : Host.Outcome State Fault Refusal :=
  finish .yield (.ok (setCur s { cur s with yieldTo := s.cycle + 5, age := 0 }))

/-- BRK (R231). -/
def execBrk (c : BitVec 12) (s : State) : Host.Outcome State Fault Refusal :=
  finish (.brk c) (.trap s trapBrk (c.setWidth 64))

/-- SYS (R231). -/
def execSys (c : BitVec 12) (s : State) : Host.Outcome State Fault Refusal :=
  finish (.sys c) (.trap s trapSys (c.setWidth 64))

/-- RETT (R232): a return to a misaligned address completes, and the misalignment trap is then taken at that address. -/
def execRett (s : State) : Host.Outcome State Fault Refusal :=
  finish .rett
    (match returnCtx (cur s) with
     | none => illegal .rett s .reserved
     | some c =>
       if c.pc.toNat % 4 ≠ 0 then .trap (setCur s { c with wait := none }) trapAlign c.pc
       else .stay (setCur s { c with wait := none, answers := [], farTag := none }))

/-- The types that an operation of class 8 which never rounds takes, where it consults ctl.vfmt (R265, R268-R288). -/
def neverRounds : Instr → Option (ETy → Bool)
  | .vmin _ _ _ _ => some (fun _ => true) | .vmax _ _ _ _ => some (fun _ => true)
  | .vabs _ _ _ => some (fun _ => true) | .vneg _ _ _ => some (fun _ => true)
  | .vmulh _ _ _ _ => some (fun t => !isFloat t) | .vshl _ _ _ _ => some (fun t => !isFloat t)
  | .vshr _ _ _ _ => some (fun t => !isFloat t) | .vsra _ _ _ _ => some (fun t => !isFloat t)
  | .vcmpeq _ _ _ _ => some (fun _ => true) | .vcmplt _ _ _ _ => some (fun _ => true) | .vcmple _ _ _ _ => some (fun _ => true)
  | .vrmax _ _ _ => some (fun _ => true) | .vrmin _ _ _ => some (fun _ => true)
  | .vperm _ _ _ _ => some (fun _ => true) | .vbcast _ _ _ _ => some (fun _ => true) | .vslide _ _ _ _ => some (fun _ => true)
  | .vnz _ _ _ => some (fun _ => true) | .vpopc _ _ _ => some (fun _ => true)
  | .vmovsIns _ _ _ => some (fun _ => true) | .vmovsExt _ _ _ => some (fun _ => true)
  | .vclass _ _ _ => some isFloat
  | .vvsel _ _ _ _ => some (fun t => t == .fp32) | .vvcmp _ _ _ _ => some (fun t => t == .fp32)
  | _ => none

/-- The sub-cause of a word that fails a check of decoding: where nothing but its X is reserved and ctl.vfmt holds a code that is
illegal or that its entry forbids, X is not examined (R265). -/
def wordSub (c : Ctx) (w : Word32) (sub : IllSub) : IllSub :=
  if sub = .reserved ∧ fld w 28 4 = 8 then
    match decode (w &&& ~~~3#32) 0 0 with
    | .ok i =>
      (match neverRounds i with
       | some ok => if ((etyOf c.vfmt).map ok).getD false then sub else .illType
       | none => sub)
    | .error _ => sub
  else sub

/-- ILLEGAL_WORD (R197, R265): a fetched word that fails a check of decoding. -/
def execIllegalWord (w : Word32) (sub : IllSub) (s : State) : Host.Outcome State Fault Refusal :=
  .next (takeTrap s s.turn (cur s).pc (trapIllegal (wordSub (cur s) w sub)) (w.setWidth 64))

/-- A wait that only its answer ends (R79, R92, R172); a BAR that the root of its launch counts is one (log 31). DEDUCED (log 31). -/
def firmWait : Wait → Bool
  | .token _ => true | .book _ => true | .slope _ => true | .dep _ => true | .gen _ => true | _ => false

/-- The slots taken for a context whose wait is abandoned are free again (R151, R285). -/
def dropSlots (s : State) (x : Nat) : State :=
  let own := fun (e : QEntry) => e.owed == some x
  if s.cores.any (fun c => c.2.ql.any own || c.2.qh.any own) then
    { s with cores := s.cores.map (fun c => (c.1, { c.2 with ql := c.2.ql.filter (fun e => !own e), qh := c.2.qh.filter (fun e => !own e) })) }
  else s

/-- A wait abandoned (R172, R282, R285): its request of the SFU is removed with no trace and its queue slot is free again, its arrival
at the exchange is withdrawn, its LEAVE leaves the governor's queue, the tokens that its store holds are given up. What a restored
context asks the governor for again (R401) stays asked. -/
def abandon (s : State) (x : Nat) : State :=
  let k := coreOf x
  let s0 := dropSlots (releaseHolds s x) x
  let o := getOct s0 (octOf k)
  let g := getClus s0 (clusOf k)
  let s1 := setOct s0 (octOf k) { o with sfuq := o.sfuq.filter (fun r => r.ctx != x), vx := o.vx.filter (fun r => r.ctx != x) }
  let s2 := match (getCtx s1 x).wait with
    | some (.leave _ _) => setClus s1 (clusOf k) { g with waits := g.waits.filter (fun r => r.who != LeaveBy.ctx x) }
    | _ => s1
  let s3 := { s2 with fars := s2.fars.filter (fun r => !(decide (r.kind ≠ AccKind.store) && (match r.who with | Asker.ctx y _ => y == x | _ => false))) }
  setCtx s3 x { getCtx s3 x with st := .ready, wait := none, answers := [], farTag := none }

/-- MISSED_PROMISE (R98): the promise time of a WAITX has come and its transfer is not complete; if it is, WAITX goes on. -/
def missedPromise (s : State) (x : Nat) : State :=
  let c := getCtx s x
  match c.st, c.wait with
  | .blocked, some (.prom id t _) =>
    if t.toNat ≤ nowNs s then
      if (getCore s (coreOf x)).xwm < id.toNat then takeTrap s x c.pc trapMissed id
      else setCtx s x { c with st := .ready }
    else s
  | _, _ => s

/-- MISSED_PROMISE (R98). -/
def execMissedPromise (x : Nat) (s : State) : Host.Outcome State Fault Refusal := .next (missedPromise s x)

/-- A waiting instruction of context `x` completes with s[d] written (R79, R227). -/
def completeWait (s : State) (x : Nat) (d : Reg) (w : Word) (len : Nat) : State :=
  let c := getCtx s x
  let c1 := nextPc (swrite c d w) len
  setCtx s x { c1 with st := if c.st = .halted then .halted else .ready, wait := none }

/-- SLEEPU_WAKE (R227): device time has reached the target; the instruction completes with the time read now. -/
def execSleepuWake (x : Nat) (s : State) : Host.Outcome State Fault Refusal :=
  let c := getCtx s x
  .next (match c.st, c.wait with
    | .blocked, some (.sleep t d) => if t ≤ nowNs s then completeWait s x d (timeWord s) 4 else s
    | _, _ => s)

end Sys2Proof.Machine
end

