-- ==== Sys2Proof/Machine/Float.lean ====
section
/-!
DEFINITION. Floating point (R160-R187): formats, exact dyadic values, one rounding into a format by every mode, the
operations of the scalar and vector units on encodings, conversions, the abandoned encoding, stochastic rounding.
-/
namespace Sys2Proof.Machine

/-- A floating-point format (R160): exponent and fraction bits; `inf` when it has infinities; `e4` for E4M3. -/
structure Fmt where
  eb : Nat
  fb : Nat
  e4 : Bool := false
  small : Bool := false
  deriving DecidableEq, Repr

def fmt64 : Fmt := { eb := 11, fb := 52 }
def fmt32 : Fmt := { eb := 8, fb := 23 }
def fmt16 : Fmt := { eb := 5, fb := 10 }
def fmtB16 : Fmt := { eb := 8, fb := 7 }
def fmtE4 : Fmt := { eb := 4, fb := 3, e4 := true, small := true }
def fmtE5 : Fmt := { eb := 5, fb := 2, small := true }

/-- The format of a float element type; integer types do not reach it. -/
def fmtOf : ETy → Fmt
  | .fp32 => fmt32 | .bf16 => fmtB16 | .fp16 => fmt16 | .e4m3 => fmtE4 | .e5m2 => fmtE5 | _ => fmt32

/-- The format of a scalar float operation. -/
def ffmt : FFmt → Fmt
  | .f32 => fmt32 | .f64 => fmt64

/-- The bits of a format. -/
def fmtBits (f : Fmt) : Nat := 1 + f.eb + f.fb
/-- The bias (R160). -/
def bias (f : Fmt) : Nat := 2 ^ (f.eb - 1) - 1
/-- The sign bit of an encoding. -/
def signBit (f : Fmt) (neg : Bool) : Nat := b2n neg * 2 ^ (f.eb + f.fb)
/-- The canonical quiet NaN (R166). -/
def canonNan (f : Fmt) : Nat := if f.e4 then 0x7F else (2 ^ f.eb - 1) * 2 ^ f.fb + 2 ^ (f.fb - 1)
/-- The largest finite value of a sign (R160). -/
def maxFin (f : Fmt) (neg : Bool) : Nat :=
  signBit f neg + (if f.e4 then 0x7E else (2 ^ f.eb - 1) * 2 ^ f.fb - 1)
/-- Infinity of a sign; E4M3 has none and gives its canonical NaN (R166). -/
def infBits (f : Fmt) (neg : Bool) : Nat := if f.e4 then canonNan f else signBit f neg + (2 ^ f.eb - 1) * 2 ^ f.fb

/-- A value: NaN (signalling or not), infinity, or ±m·2^e. -/
inductive FVal where
  | nan (sig : Bool)
  | inf (neg : Bool)
  | fin (neg : Bool) (m : Nat) (e : Int)
  deriving DecidableEq, Repr

/-- The value of an encoding (R160). -/
def fval (f : Fmt) (w : Nat) : FVal :=
  let neg := decide (w / 2 ^ (f.eb + f.fb) % 2 = 1)
  let ex := w / 2 ^ f.fb % 2 ^ f.eb
  let fr := w % 2 ^ f.fb
  if f.e4 ∧ w % 2 ^ 7 = 0x7F then .nan false
  else if f.e4 = false ∧ ex = 2 ^ f.eb - 1 then
    if fr = 0 then .inf neg else .nan (!f.small && decide (fr / 2 ^ (f.fb - 1) = 0))
  else if ex = 0 then .fin neg fr (1 - (bias f : Int) - f.fb)
  else .fin neg (2 ^ f.fb + fr) ((ex : Int) - bias f - f.fb)

/-- A result: its encoding and the flags it sets (R154). -/
structure FRes where
  w : Nat
  flags : Nat
  deriving DecidableEq, Repr

/-- Whether a truncated magnitude is raised by one unit (R163, R179): `r` of `2^sh` parts are lost, `st` adds a little.
DEDUCED (log 26). -/
def roundUp (mode : RMode) (draw : Nat) (neg odd : Bool) (r sh : Nat) (st : Bool) : Bool :=
  let inexact := decide (r ≠ 0) || st
  let half := 2 ^ sh
  match mode with
  | .rne => decide (2 * r > half) || (decide (2 * r = half) && (st || odd))
  | .rna => decide (2 * r ≥ half) && decide (r ≠ 0)
  | .rtz => false
  | .rup => inexact && !neg
  | .rdn => inexact && neg
  | .sr => decide (draw < r * 2 ^ 32 / 2 ^ sh)

/-- The magnitude m·2^e (with `st`, a little more) in units of 2^q: truncated, and raised by the mode. -/
def unitsOf (mode : RMode) (draw : Nat) (neg : Bool) (m : Nat) (e q : Int) (st : Bool) : Nat × Bool :=
  if q ≤ e then (m * 2 ^ (e - q).toNat + b2n (roundUp mode draw neg (decide (m * 2 ^ (e - q).toNat % 2 = 1)) 0 0 st), st)
  else
    let sh := (q - e).toNat
    let t := m / 2 ^ sh
    let r := m % 2 ^ sh
    (t + b2n (roundUp mode draw neg (decide (t % 2 = 1)) r sh st), decide (r ≠ 0) || st)

/-- One rounding of ±(m·2^e, and a little more with `st`), not zero, into a format (R163, R165, R169, R179). DEDUCED (log 26). -/
def roundTo (f : Fmt) (mode : RMode) (draw : Nat) (neg : Bool) (m : Nat) (e : Int) (st : Bool) : FRes :=
  let emin : Int := 1 - (bias f : Int)
  let q0 : Int := e + m.log2 - f.fb
  let qm : Int := emin - f.fb
  let q := if q0 < qm then qm else q0
  let (u, inexact) := unitsOf mode draw neg m e q st
  let (u0, _) := unitsOf mode draw neg m e q0 st
  let tiny := decide (q0 < qm) && !(decide (q0 + 1 = qm) && decide (u0 = 2 ^ (f.fb + 1)))
  let maxU := if f.e4 then 14 else 2 ^ (f.fb + 1) - 1
  let maxQ : Int := (if f.e4 then 8 else (bias f : Int)) - f.fb
  if maxQ < q ∨ (q = maxQ ∧ maxU < u) then
    let w := if f.small then maxFin f neg
      else match mode with
        | .rtz => maxFin f neg
        | .rup => if neg then maxFin f neg else infBits f neg
        | .rdn => if neg then infBits f neg else maxFin f neg
        | _ => infBits f neg
    { w := w, flags := flagOF + flagNX }
  else
    { w := signBit f neg + (q - qm).toNat * 2 ^ f.fb + u
      flags := (if inexact then flagNX else 0) + (if tiny && inexact then flagUF else 0) }

/-- An infinite result (R166): in E4M3 the canonical NaN, with NV. -/
def infRes (f : Fmt) (neg : Bool) (flags : Nat) : FRes :=
  { w := infBits f neg, flags := if f.e4 then flags ||| flagNV else flags }
/-- A NaN result (R166): NV where an operand signals or the operation is invalid. -/
def nanRes (f : Fmt) (nv : Bool) : FRes := { w := canonNan f, flags := if nv then flagNV else 0 }
/-- A zero result of a sign. -/
def zeroRes (f : Fmt) (neg : Bool) : FRes := { w := signBit f neg, flags := 0 }

/-- An exact number n·2^e. -/
structure Dy where
  n : Int
  e : Int
  deriving DecidableEq, Repr

/-- The number of a finite value. -/
def dyOf (neg : Bool) (m : Nat) (e : Int) : Dy := { n := if neg then -(m : Int) else m, e := e }
/-- The sum of two exact numbers. -/
def dyAdd (a b : Dy) : Dy :=
  if a.e ≤ b.e then { n := a.n + b.n * 2 ^ (b.e - a.e).toNat, e := a.e }
  else { n := a.n * 2 ^ (a.e - b.e).toNat + b.n, e := b.e }
/-- The product of two exact numbers. -/
def dyMul (a b : Dy) : Dy := { n := a.n * b.n, e := a.e + b.e }
/-- The negative of an exact number. -/
def dyNeg (a : Dy) : Dy := { a with n := -a.n }

/-- The sign of an exact zero sum (R163). -/
def zeroNeg (mode : RMode) : Bool := decide (mode = .rdn)

/-- An exact number rounded into a format; zero takes the sign given. -/
def roundDy (f : Fmt) (mode : RMode) (draw : Nat) (d : Dy) (zneg : Bool) : FRes :=
  if d.n = 0 then zeroRes f zneg else roundTo f mode draw (decide (d.n < 0)) d.n.natAbs d.e false

/-- A signalling NaN among values. -/
def anySig (l : List FVal) : Bool := l.any (fun v => v == .nan true)
/-- A NaN among values. -/
def anyNan (l : List FVal) : Bool := l.any (fun v => match v with | .nan _ => true | _ => false)
/-- The sign of a value that is not NaN. -/
def negOf : FVal → Bool
  | .inf n => n | .fin n _ _ => n | .nan _ => false
/-- The value is a zero. -/
def isZero : FVal → Bool
  | .fin _ m _ => decide (m = 0) | _ => false
/-- The value is an infinity. -/
def isInf : FVal → Bool
  | .inf _ => true | _ => false
/-- The exact number of a value; zero where it has none. -/
def dyVal : FVal → Dy
  | .fin n m e => dyOf n m e | _ => { n := 0, e := 0 }
/-- The value with its sign changed. -/
def fneg : FVal → FVal
  | .inf n => .inf (!n) | .fin n m e => .fin (!n) m e | v => v

/-- x + y rounded once (R163, R165, R166). -/
def addV (f : Fmt) (mode : RMode) (draw : Nat) (x y : FVal) : FRes :=
  if anyNan [x, y] then nanRes f (anySig [x, y])
  else match x, y with
    | .inf a, .inf b => if a = b then infRes f a 0 else nanRes f true
    | .inf a, _ => infRes f a 0
    | _, .inf b => infRes f b 0
    | _, _ =>
      let d := dyAdd (dyVal x) (dyVal y)
      roundDy f mode draw d (if isZero x && isZero y && negOf x == negOf y then negOf x else zeroNeg mode)

/-- x·y rounded once. -/
def mulV (f : Fmt) (mode : RMode) (draw : Nat) (x y : FVal) : FRes :=
  if anyNan [x, y] then nanRes f (anySig [x, y])
  else
    let neg := negOf x != negOf y
    if isInf x || isInf y then (if isZero x || isZero y then nanRes f true else infRes f neg 0)
    else roundDy f mode draw (dyMul (dyVal x) (dyVal y)) neg

/-- x·y + z with one rounding; a product 0·∞ is invalid whatever z is (R166). -/
def fmaV (f : Fmt) (mode : RMode) (draw : Nat) (x y z : FVal) : FRes :=
  if (isInf x && isZero y) || (isZero x && isInf y) then nanRes f true
  else if anyNan [x, y, z] then nanRes f (anySig [x, y, z])
  else
    let pneg := negOf x != negOf y
    if isInf x || isInf y then
      (match z with
       | .inf b => if b = pneg then infRes f b 0 else nanRes f true
       | _ => infRes f pneg 0)
    else match z with
      | .inf b => infRes f b 0
      | _ =>
        let p := dyMul (dyVal x) (dyVal y)
        roundDy f mode draw (dyAdd p (dyVal z))
          (if decide (p.n = 0) && isZero z && pneg == negOf z then pneg else zeroNeg mode)

/-- x / y rounded once; a finite nonzero x over zero is infinite, with DZ (R166, R215, R268). -/
def divV (f : Fmt) (mode : RMode) (draw : Nat) (x y : FVal) : FRes :=
  if anyNan [x, y] then nanRes f (anySig [x, y])
  else
    let neg := negOf x != negOf y
    match x, y with
    | .inf _, .inf _ => nanRes f true
    | .inf _, _ => infRes f neg 0
    | _, .inf _ => zeroRes f neg
    | .fin _ m e, .fin _ n k =>
      if n = 0 then (if m = 0 then nanRes f true else infRes f neg flagDZ)
      else if m = 0 then zeroRes f neg
      else roundTo f mode draw neg (m * 2 ^ 160 / n) (e - k - 160) (decide (m * 2 ^ 160 % n ≠ 0))
    | _, _ => nanRes f false

/-- The integer square root of `n`, from bit `k` - 1 down. -/
def isqrtFrom (n : Nat) (k r : Nat) : Nat :=
  match k with
  | 0 => r
  | k + 1 => isqrtFrom n k (if (r + 2 ^ k) * (r + 2 ^ k) ≤ n then r + 2 ^ k else r)

/-- The integer square root. -/
def isqrt (n : Nat) : Nat := isqrtFrom n (n.log2 / 2 + 1) 0

/-- √x rounded once (R166, R215, R283). -/
def sqrtV (f : Fmt) (mode : RMode) (draw : Nat) (x : FVal) : FRes :=
  match x with
  | .nan s => nanRes f s
  | .inf n => if n then nanRes f true else infRes f false 0
  | .fin n m e =>
    if m = 0 then zeroRes f n
    else if n then nanRes f true
    else
      let (m1, e1) := if e % 2 = 0 then (m, e) else (2 * m, e - 1)
      let big := m1 * 2 ^ 240
      let r := isqrt big
      roundTo f mode draw false r (e1 / 2 - 120) (decide (r * r ≠ big))

/-- x < y for values that are not NaN (−0 equals +0). -/
def ltV (x y : FVal) : Bool :=
  match x, y with
  | .inf a, .inf b => a && !b
  | .inf a, _ => a
  | _, .inf b => !b
  | _, _ => decide ((dyAdd (dyVal x) (dyNeg (dyVal y))).n < 0)
/-- x = y for values that are not NaN. -/
def eqV (x y : FVal) : Bool := !ltV x y && !ltV y x

/-- Minimum or maximum on encodings (R167): −0 is below +0. -/
def minMax (f : Fmt) (mx : Bool) (a b : Nat) : FRes :=
  let x := fval f a
  let y := fval f b
  if anySig [x, y] then nanRes f true
  else match x, y with
    | .nan _, .nan _ => nanRes f false
    | .nan _, _ => { w := b, flags := 0 }
    | _, .nan _ => { w := a, flags := 0 }
    | _, _ =>
      let less := ltV x y || (eqV x y && negOf x && !negOf y)
      { w := if less != mx then a else b, flags := 0 }

/-- The class bit of an encoding (R216). -/
def classOf (f : Fmt) (w : Nat) : Nat :=
  match fval f w with
  | .nan s => if s then 8 else 9
  | .inf n => if n then 0 else 7
  | .fin n m _ =>
    if m = 0 then (if n then 3 else 4)
    else if m < 2 ^ f.fb then (if n then 2 else 5)
    else (if n then 1 else 6)

/-- A conversion between float formats (R173). -/
def cvtFF (src dst : Fmt) (mode : RMode) (draw : Nat) (w : Nat) : FRes :=
  match fval src w with
  | .nan s => nanRes dst s
  | .inf n => infRes dst n 0
  | .fin n m e => if m = 0 then zeroRes dst n else roundTo dst mode draw n m e false

/-- The least and greatest values of an integer type of `w` bits. -/
def intLo (signed : Bool) (w : Nat) : Int := if signed then -(2 ^ (w - 1) : Int) else 0
def intHi (signed : Bool) (w : Nat) : Int := if signed then 2 ^ (w - 1) - 1 else 2 ^ w - 1
/-- SAT of R12. -/
def satI (signed : Bool) (w : Nat) (x : Int) : Int :=
  if x < intLo signed w then intLo signed w else if intHi signed w < x then intHi signed w else x
/-- The encoding of an integer in `w` bits. -/
def encI (w : Nat) (x : Int) : Nat := (x % 2 ^ w).toNat
/-- The integer of an encoding of `w` bits. -/
def decI (signed : Bool) (w : Nat) (x : Nat) : Int :=
  if signed ∧ x % 2 ^ w / 2 ^ (w - 1) = 1 then (x % 2 ^ w : Int) - 2 ^ w else (x % 2 ^ w : Nat)

/-- An exact number rounded to an integer by a mode (R174); whether it was inexact. -/
def roundInt (mode : RMode) (draw : Nat) (d : Dy) : Int × Bool :=
  let neg := decide (d.n < 0)
  let (u, inexact) := unitsOf mode draw neg d.n.natAbs d.e 0 false
  (if neg then -(u : Int) else u, inexact)

/-- A value converted to an integer type (R174). -/
def cvtVI (signed : Bool) (w : Nat) (mode : RMode) (draw : Nat) (v : FVal) : FRes :=
  match v with
  | .nan _ => { w := 0, flags := flagNV }
  | .inf n => { w := encI w (if n then intLo signed w else intHi signed w), flags := flagNV }
  | .fin n m e =>
    let (x, inexact) := roundInt mode draw (dyOf n m e)
    let y := satI signed w x
    { w := encI w y, flags := if y ≠ x then flagNV else if inexact then flagNX else 0 }

/-- An integer converted to a float format (R175). -/
def cvtIF (f : Fmt) (mode : RMode) (draw : Nat) (x : Int) : FRes := roundDy f mode draw { n := x, e := 0 } false

/-- The abandoned encoding of binary32 (R181). -/
def isAband (w : Nat) : Bool := decide (w / 2 ^ 16 % 2 ^ 15 = 0x7FBF)

/-- One step of the stochastic-rounding state (R177). -/
def rngStep (x : Word) : Word :=
  let a := x ^^^ (x <<< (13 : Nat))
  let b := a ^^^ (a >>> (7 : Nat))
  b ^^^ (b <<< (17 : Nat))

/-- The seed of ctl.rng at a context's start (R178). -/
def rngSeed (jseed lcore : Word) (ctx : Nat) : Word :=
  let z := jseed ^^^ (lcore * 0x9E3779B97F4A7C15) ^^^ (BitVec.ofNat 64 (ctx + 1) * 0xD1B54A32D192ED03)
  if z = 0 then 0x9E3779B97F4A7C15 else z

/-- FLUSH of R170 on a binary32 encoding: the flushed encoding, and whether it was flushed. -/
def flush32 (w : Nat) : Nat × Bool :=
  if w / 2 ^ 23 % 2 ^ 8 = 0 ∧ w % 2 ^ 23 ≠ 0 then (w / 2 ^ 31 % 2 * 2 ^ 31, true) else (w, false)

end Sys2Proof.Machine
end

