-- ==== Sys2Proof/Machine/FloatOps.lean ====
section
/-!
DEFINITION. The scalar floating-point instructions (R164, R167, R173-R175, R182, R215, R216).
-/
namespace Sys2Proof.Machine

/-- A scalar float operand: bits [31:0] of the register for binary32 (R164, R215). -/
def fOperand : FFmt → Word → Nat
  | .f32, w => w.toNat % 2 ^ 32
  | .f64, w => w.toNat

/-- ctl.tval of the abandoned-operand trap of an operand that is no vector element (R182): LANE 0xFF. -/
def abandVal (enc : Nat) : Word := BitVec.ofNat 64 (0xFF * 2 ^ 32 + enc)

/-- The first binary32 operand that holds the abandoned encoding (R182). -/
def firstAband (f : FFmt) (l : List Nat) : Option Nat :=
  match f with
  | .f32 => l.find? isAband
  | .f64 => none

/-- A scalar float operation (R215): a reserved dynamic rounding mode traps, then an abandoned operand; `k` gives the number
written to s[d] and the flags it sets, from the mode and the operands. -/
def floatOp (i : Instr) (s : State) (f : FFmt) (d : Reg) (mode : Option RMode) (regs : List Word)
    (k : RMode → List Nat → FRes) : Eff :=
  let ops := regs.map (fOperand f)
  match mode with
  | none => illegal i s .reserved
  | some m =>
    match firstAband f ops with
    | some enc => .trap s (trapAband 0) (abandVal enc)
    | none =>
      let r := k m ops
      .ok (setSreg (setCur s (raiseFlags (cur s) r.flags)) d (BitVec.ofNat 64 r.w))

/-- An operation on two operand values. -/
def on2 (f : FFmt) (k : FVal → FVal → FRes) (l : List Nat) : FRes :=
  k (fval (ffmt f) (l.getD 0 0)) (fval (ffmt f) (l.getD 1 0))

/-- FADD (R215). -/
def execFadd (d a b : Reg) (r : RSel) (f : FFmt) (s : State) : Host.Outcome State Fault Refusal :=
  finish (.fadd d a b r f) (floatOp (.fadd d a b r f) s f d (rselMode (cur s) r) [sreg s a, sreg s b]
    (fun m l => on2 f (fun x y => addV (ffmt f) m 0 x y) l))

/-- FSUB (R215). -/
def execFsub (d a b : Reg) (r : RSel) (f : FFmt) (s : State) : Host.Outcome State Fault Refusal :=
  finish (.fsub d a b r f) (floatOp (.fsub d a b r f) s f d (rselMode (cur s) r) [sreg s a, sreg s b]
    (fun m l => on2 f (fun x y => addV (ffmt f) m 0 x (fneg y)) l))

/-- FMUL (R215). -/
def execFmul (d a b : Reg) (r : RSel) (f : FFmt) (s : State) : Host.Outcome State Fault Refusal :=
  finish (.fmul d a b r f) (floatOp (.fmul d a b r f) s f d (rselMode (cur s) r) [sreg s a, sreg s b]
    (fun m l => on2 f (fun x y => mulV (ffmt f) m 0 x y) l))

/-- FFMA (R215): the addend is s[d]. -/
def execFfma (d a b : Reg) (r : RSel) (f : FFmt) (s : State) : Host.Outcome State Fault Refusal :=
  finish (.ffma d a b r f) (floatOp (.ffma d a b r f) s f d (rselMode (cur s) r) [sreg s a, sreg s b, sreg s d]
    (fun m l => on2 f (fun x y => fmaV (ffmt f) m 0 x y (fval (ffmt f) (l.getD 2 0))) l))

/-- FDIV (R215). -/
def execFdiv (d a b : Reg) (r : RSel) (f : FFmt) (s : State) : Host.Outcome State Fault Refusal :=
  finish (.fdiv d a b r f) (floatOp (.fdiv d a b r f) s f d (rselMode (cur s) r) [sreg s a, sreg s b]
    (fun m l => on2 f (fun x y => divV (ffmt f) m 0 x y) l))

/-- FSQRT (R215). -/
def execFsqrt (d a : Reg) (r : RSel) (f : FFmt) (s : State) : Host.Outcome State Fault Refusal :=
  finish (.fsqrt d a r f) (floatOp (.fsqrt d a r f) s f d (rselMode (cur s) r) [sreg s a]
    (fun m l => sqrtV (ffmt f) m 0 (fval (ffmt f) (l.getD 0 0))))

/-- FMIN (R167, R215). -/
def execFmin (d a b : Reg) (f : FFmt) (s : State) : Host.Outcome State Fault Refusal :=
  finish (.fmin d a b f) (floatOp (.fmin d a b f) s f d (some .rne) [sreg s a, sreg s b]
    (fun _ l => minMax (ffmt f) false (l.getD 0 0) (l.getD 1 0)))

/-- FMAX (R167, R215). -/
def execFmax (d a b : Reg) (f : FFmt) (s : State) : Host.Outcome State Fault Refusal :=
  finish (.fmax d a b f) (floatOp (.fmax d a b f) s f d (some .rne) [sreg s a, sreg s b]
    (fun _ l => minMax (ffmt f) true (l.getD 0 0) (l.getD 1 0)))

/-- The comparisons of floats (R215): equal, less, less or equal. -/
inductive FCmp where
  | eq | lt | le
  deriving DecidableEq, Repr

/-- A comparison (R215): false with a NaN; NV for a signalling NaN, and for any NaN unless it is for equality. -/
def cmpV (c : FCmp) (x y : FVal) : FRes :=
  if anyNan [x, y] then { w := 0, flags := if anySig [x, y] || c != .eq then flagNV else 0 }
  else
    { w := b2n (match c with | .eq => eqV x y | .lt => ltV x y | .le => !ltV y x), flags := 0 }

/-- FEQ (R215). -/
def execFeq (d a b : Reg) (f : FFmt) (s : State) : Host.Outcome State Fault Refusal :=
  finish (.feq d a b f) (floatOp (.feq d a b f) s f d (some .rne) [sreg s a, sreg s b] (fun _ l => on2 f (cmpV .eq) l))

/-- FLT (R215). -/
def execFlt (d a b : Reg) (f : FFmt) (s : State) : Host.Outcome State Fault Refusal :=
  finish (.flt d a b f) (floatOp (.flt d a b f) s f d (some .rne) [sreg s a, sreg s b] (fun _ l => on2 f (cmpV .lt) l))

/-- FLE (R215). -/
def execFle (d a b : Reg) (f : FFmt) (s : State) : Host.Outcome State Fault Refusal :=
  finish (.fle d a b f) (floatOp (.fle d a b f) s f d (some .rne) [sreg s a, sreg s b] (fun _ l => on2 f (cmpV .le) l))

/-- Whether an integer type is signed, and its width (R215). -/
def intTy : IntTy → Bool × Nat
  | .i32 => (true, 32) | .i64 => (true, 64) | .n32 => (false, 32) | .n64 => (false, 64)

/-- The register value of an integer result (R215): i32 sign-extended, n32 zero-extended. -/
def intReg (t : IntTy) (w : Nat) : Nat :=
  match t with
  | .i32 => encI 64 (decI true 32 w)
  | _ => w

/-- FCVTFI (R174, R215). -/
def execFcvtfi (d a : Reg) (t : IntTy) (r : RSel) (f : FFmt) (s : State) : Host.Outcome State Fault Refusal :=
  finish (.fcvtfi d a t r f) (floatOp (.fcvtfi d a t r f) s f d (rselMode (cur s) r) [sreg s a]
    (fun m l =>
      let q := cvtVI (intTy t).1 (intTy t).2 m 0 (fval (ffmt f) (l.getD 0 0))
      { w := intReg t q.w, flags := q.flags }))

/-- FCVTIF (R175, R215): its operand is an integer, so no operand can hold the abandoned encoding. -/
def execFcvtif (d a : Reg) (t : IntTy) (r : RSel) (f : FFmt) (s : State) : Host.Outcome State Fault Refusal :=
  finish (.fcvtif d a t r f) (floatOp (.fcvtif d a t r f) s f d (rselMode (cur s) r) []
    (fun m _ => cvtIF (ffmt f) m 0 (decI (intTy t).1 (intTy t).2 (sreg s a).toNat)))

/-- FCVTFF (R173, R215): the operand has the source format, the result the destination format. -/
def execFcvtff (d a : Reg) (src : FFmt) (r : RSel) (f : FFmt) (s : State) : Host.Outcome State Fault Refusal :=
  finish (.fcvtff d a src r f) (floatOp (.fcvtff d a src r f) s src d (rselMode (cur s) r) [sreg s a]
    (fun m l => cvtFF (ffmt src) (ffmt f) m 0 (l.getD 0 0)))

/-- FCLASS (R216). -/
def execFclass (d a : Reg) (f : FFmt) (s : State) : Host.Outcome State Fault Refusal :=
  finish (.fclass d a f) (floatOp (.fclass d a f) s f d (some .rne) [sreg s a]
    (fun _ l => { w := 2 ^ classOf (ffmt f) (l.getD 0 0), flags := 0 }))

end Sys2Proof.Machine
end

