-- ==== Sys2Proof/Machine/MemOps.lean ====
section
/-!
DEFINITION. Scalar loads and stores, acquire and release, atomics (R235-R242).
-/
namespace Sys2Proof.Machine

/-- The address of a class-7 load or store (R235). -/
def eaOf (s : State) (a : Reg) (i : BitVec 14) : Word := sreg s a + imm14 i

/-- Bytes as an unsigned value of 64 bits. -/
def zextBytes (bs : List Byte) : Word := BitVec.ofNat 64 (natOfBytes bs)

/-- Bytes as a signed value of 64 bits. -/
def sextBytes (bs : List Byte) : Word := BitVec.ofInt 64 (decI true (8 * bs.length) (natOfBytes bs))

/-- A load of `n` bytes into s[d] (R235, R236). -/
def loadTo (s : State) (d : Reg) (ea : Word) (n : Nat) (ext : List Byte → Word) : Eff :=
  loadThen s (addrs ea n) (fun s1 bs => .ok (setSreg s1 d (ext bs)))

/-- The cells a store of `n` bytes of a word writes (R235). -/
def storeCells (ea w : Word) (n : Nat) : List (Word × Byte) := (addrs ea n).zip (bytesOfNat n w.toNat)

/-- A store of the low `n` bytes of a word (R235, R236). -/
def storeFrom (s : State) (w ea : Word) (n : Nat) : Eff := storeThen s (storeCells ea w n) (fun s1 => .ok s1)

/-- LDB (R235). -/
def execLdb (d a : Reg) (i : BitVec 14) (s : State) : Host.Outcome State Fault Refusal :=
  finish (.ldb d a i) (loadTo s d (eaOf s a i) 1 sextBytes)
/-- LDBU (R235). -/
def execLdbu (d a : Reg) (i : BitVec 14) (s : State) : Host.Outcome State Fault Refusal :=
  finish (.ldbu d a i) (loadTo s d (eaOf s a i) 1 zextBytes)
/-- LDH (R235). -/
def execLdh (d a : Reg) (i : BitVec 14) (s : State) : Host.Outcome State Fault Refusal :=
  finish (.ldh d a i) (loadTo s d (eaOf s a i) 2 sextBytes)
/-- LDHU (R235). -/
def execLdhu (d a : Reg) (i : BitVec 14) (s : State) : Host.Outcome State Fault Refusal :=
  finish (.ldhu d a i) (loadTo s d (eaOf s a i) 2 zextBytes)
/-- LDW (R235). -/
def execLdw (d a : Reg) (i : BitVec 14) (s : State) : Host.Outcome State Fault Refusal :=
  finish (.ldw d a i) (loadTo s d (eaOf s a i) 4 sextBytes)
/-- LDWU (R235). -/
def execLdwu (d a : Reg) (i : BitVec 14) (s : State) : Host.Outcome State Fault Refusal :=
  finish (.ldwu d a i) (loadTo s d (eaOf s a i) 4 zextBytes)
/-- LDD (R235). -/
def execLdd (d a : Reg) (i : BitVec 14) (s : State) : Host.Outcome State Fault Refusal :=
  finish (.ldd d a i) (loadTo s d (eaOf s a i) 8 zextBytes)
/-- STB (R235). -/
def execStb (d a : Reg) (i : BitVec 14) (s : State) : Host.Outcome State Fault Refusal :=
  finish (.stb d a i) (storeFrom s (sreg s d) (eaOf s a i) 1)
/-- STH (R235). -/
def execSth (d a : Reg) (i : BitVec 14) (s : State) : Host.Outcome State Fault Refusal :=
  finish (.sth d a i) (storeFrom s (sreg s d) (eaOf s a i) 2)
/-- STW (R235). -/
def execStw (d a : Reg) (i : BitVec 14) (s : State) : Host.Outcome State Fault Refusal :=
  finish (.stw d a i) (storeFrom s (sreg s d) (eaOf s a i) 4)
/-- STD (R235). -/
def execStd (d a : Reg) (i : BitVec 14) (s : State) : Host.Outcome State Fault Refusal :=
  finish (.std d a i) (storeFrom s (sreg s d) (eaOf s a i) 8)

/-- The misalignment trap of an address that is not a multiple of `n` (R237, R239); else `k`. -/
def alignedThen (s : State) (ea : Word) (n : Nat) (k : Eff) : Eff :=
  if ea.toNat % n ≠ 0 then .trap s trapAlign ea else k

/-- LDAQ (R237, R238). -/
def execLdaq (d a : Reg) (sc : Scope) (z : Size) (s : State) : Host.Outcome State Fault Refusal :=
  finish (.ldaq d a sc z) (alignedThen s (sreg s a) (sizeBytes z) (loadTo s d (sreg s a) (sizeBytes z) zextBytes))

/-- STRL (R237, R238): a release at its scope, then the store. -/
def execStrl (d a : Reg) (sc : Scope) (z : Size) (s : State) : Host.Outcome State Fault Refusal :=
  finish (.strl d a sc z)
    (alignedThen s (sreg s a) (sizeBytes z) (afterStores s sc (storeFrom s (sreg s d) (sreg s a) (sizeBytes z))))

/-- The order x >ₜ old of AMO FMAX (R240): an abandoned binary32 counts as −∞, −0 lies below +0, NaN never compares. -/
def aboveT (f : FFmt) (x old : Nat) : Bool :=
  let v := fun w => if f = .f32 ∧ isAband w then FVal.inf true else fval (ffmt f) w
  if anyNan [v x, v old] then false
  else ltV (v old) (v x) || (eqV (v old) (v x) && negOf (v old) && !negOf (v x))

/-- The format of an AMO float operation of `n` bytes (R192, R239). -/
def amoFmt (n : Nat) : FFmt := if n = 4 then .f32 else .f64

/-- The value an AMO writes over `old` in `n` bytes (R239, R240); `none` when it writes nothing. -/
def amoNew (o : AmoOp) (n old x : Nat) : Option Nat :=
  let m := 2 ^ (8 * n)
  match o with
  | .add => some ((old + x) % m)
  | .and => some (old &&& x)
  | .or => some (old ||| x)
  | .xor => some (old ^^^ x)
  | .min => some (if decI true (8 * n) x < decI true (8 * n) old then x else old)
  | .max => some (if decI true (8 * n) old < decI true (8 * n) x then x else old)
  | .minu => some (if x < old then x else old)
  | .maxu => some (if old < x then x else old)
  | .swap => some x
  | .fadd =>
    if n = 4 ∧ isAband old then none
    else some (on2 (amoFmt n) (fun u v => addV (ffmt (amoFmt n)) .rne 0 u v) [old, x]).w
  | .fmax => if aboveT (amoFmt n) x old then some x else none

/-- The bytes a read-modify-write writes over the bytes `old` (R239, R241): by AMO's operation, or by CAS where `old` equals
the bytes compared; `none` when it writes nothing. -/
def rmwNew (amo : Option AmoOp) (cas : Option (List Byte)) (data old : List Byte) : Option (List Byte) :=
  match amo with
  | some o => (amoNew o old.length (natOfBytes old) (natOfBytes data)).map (bytesOfNat old.length)
  | none => if cas = some old then some data else none

/-- The cells of local bytes among located bytes. -/
def localCells (locs : List (Word × Loc)) (bs : List Byte) : List (Nat × Byte) :=
  (locs.zip bs).filterMap (fun p => match p.1.2 with | .cell k => some (k, p.2) | _ => none)

/-- A read-modify-write of `n` bytes at `ea` (R239, R241, R242): a release and an acquire at its scope; local, or performed
where the bytes are; s[d] receives the old value. DESIGN CHOICE (log 6). -/
def rmw (s : State) (d : Reg) (ea : Word) (n : Nat) (sc : Scope) (data : List Byte) (cas : Option (List Byte))
    (amo : Option AmoOp) : Eff :=
  let a := accOf s .amo
  let vas := addrs ea n
  afterStores s sc
    (match readBytes s a (cur s).answers vas with
     | .stop x => stopEff s x
     | .far locs =>
       let (s1, tag) := askFar s (.ctx s.turn (cur s).start) (launchOf s (curCore s)) .amo (farPiece s locs) data cas amo
       .wait (setCur s1 { cur s1 with farTag := some tag }) .far
     | .bytes old =>
       if amo = some .fadd ∧ n = 4 ∧ isAband (natOfBytes old) then .trap s (trapAband 0) (abandVal (natOfBytes old))
       else
         let s1 := noteAccess (noteOor s s.turn 0 (oorOf s a vas)) a vas false
         let locs := locsOf s a (cur s).answers vas
         let s2 := match rmwNew amo cas data old with
           | some bs =>
             if localCells locs bs = [] then s1
             else noteLines (putCells s1 (localCells locs bs)) (vas.map (·.toNat))
           | none => s1
         .ok (setSreg s2 d (zextBytes old)))

/-- AMO (R239, R240). -/
def execAmo (d a v : Reg) (o : AmoOp) (z : Size) (sc : Scope) (s : State) : Host.Outcome State Fault Refusal :=
  let n := sizeBytes z
  let x := bytesOfNat n (sreg s v).toNat
  finish (.amo d a v o z sc)
    (alignedThen s (sreg s a) n
      (if o = .fadd ∧ n = 4 ∧ isAband (natOfBytes x) then .trap s (trapAband 0) (abandVal (natOfBytes x))
       else rmw s d (sreg s a) n sc x none (some o)))

/-- CAS (R241): s[d] is compared, s[n] is written. -/
def execCas (d a n : Reg) (z : Size) (sc : Scope) (s : State) : Host.Outcome State Fault Refusal :=
  finish (.cas d a n z sc)
    (alignedThen s (sreg s a) (sizeBytes z)
      (rmw s d (sreg s a) (sizeBytes z) sc (bytesOfNat (sizeBytes z) (sreg s n).toNat)
        (some (bytesOfNat (sizeBytes z) (sreg s d).toNat)) none))

end Sys2Proof.Machine
end

