-- ==== Sys2Proof/Machine/VecUnit.lean ====
section
/-!
DEFINITION. What every vector instruction shares (R147, R150, R151, R164, R197, R247, R250, R263-R266): the checks of its
type and rounding, the upper bank, the pops of bound registers, the marker handler, and the writing of its result.
-/
namespace Sys2Proof.Machine

/-! ## Types and rounding (R265) -/

/-- The element type of ctl.vfmt (R162). -/
def vtype (c : Ctx) : Option ETy := etyOf c.vfmt

/-- The checks of R265: a code that is illegal or forbidden, a nonzero X of an operation that does not round under the type,
a reserved dynamic mode (R164). DEDUCED (log 28). -/
def vcheck (c : Ctx) (ok rounds : ETy → Bool) (x : XMode) : Except IllSub (ETy × RMode) :=
  match vtype c with
  | none => .error .illType
  | some t =>
    if ok t = false then .error .illType
    else if rounds t = false then (if x = .dyn then .ok (t, .rne) else .error .reserved)
    else match xMode c x with
      | some m => .ok (t, m)
      | none => .error .reserved

/-! ## The upper bank (R147) -/

/-- The lowest register of the upper bank among those an instruction names. -/
def lowUpper (l : List Reg) : Option Nat := (List.range 32).find? (fun i => decide (16 ≤ i) && (l.map (·.toNat)).contains i)

/-- The registers named (R147): an OFF bank traps, a RET bank wakes and the wake stands. DEDUCED (log 28). -/
def bankThen (s : State) (named : List Reg) (k : State → Eff) : Eff :=
  match lowUpper named with
  | none => k s
  | some r =>
    if (cur s).ub = 2 then .trap s trapBank (BitVec.ofNat 64 r)
    else if (cur s).ub = 1 then k (setCur s { cur s with ub := 0 })
    else k s

/-! ## Bindings (R150, R151) -/

/-- The address generator a register is bound to. -/
def genOf (c : Ctx) (r : Reg) : Option (Fin 4 × Stream) :=
  (List.finRange 4).findSome? (fun g => match c.gens[g] with
    | some x => if x.reg = r then some (g, x) else none
    | none => none)

/-- The queue end a register is bound to. -/
def endOf (c : Ctx) (r : Reg) : Option QEnd := (c.qb.find? (fun q => q.1 == r)).map (·.2)

/-- The core that holds the queue of an end, and whether it is its H (R151). -/
def queueAt (k : Nat) : QEnd → Nat × Bool
  | .dl => (k, false)
  | .dh => (k, true)
  | .el => (k / 8 * 8 + (k % 8 + 1) % 8, false)
  | .eh => (k / 8 * 8 + (k % 8 + 7) % 8, true)

/-- A dequeue end. -/
def isDeq : QEnd → Bool
  | .dl => true | .dh => true | _ => false

/-- The entries of a queue. -/
def queueOf (s : State) (q : Nat × Bool) : List QEntry := if q.2 then (getCore s q.1).qh else (getCore s q.1).ql

/-- The state with a queue replaced. -/
def setQueue (s : State) (q : Nat × Bool) (l : List QEntry) : State :=
  if q.2 then setCore s q.1 { getCore s q.1 with qh := l } else setCore s q.1 { getCore s q.1 with ql := l }

/-- The state with a generator of the executing context replaced. -/
def setGen (s : State) (g : Fin 4) (x : Option Stream) : State :=
  setCur s { cur s with gens := (cur s).gens.set g x }

/-- The address of the head group of a read stream. -/
def headAddr (x : Stream) : Word := x.next - x.stride * BitVec.ofNat 64 x.ahead.length

/-- What the head of a bound register holds for an instruction that reads it. -/
inductive Head where
  | plain
  | stall (w : Wait)
  | ask (e : Eff)
  | fault (cause : Nat) (va : Word)
  | marker (code : BitVec 31) (q : Nat × Bool)
  | group (g : Fin 4) (v : Vec) (oor : Option Word)
  | entry (v : Vec) (q : Nat × Bool)
  deriving DecidableEq, Repr

/-- The head of a register of the executing context (R150, R151, R247, R250): the bytes of a group are read as it is popped. DEDUCED (log 18). -/
def headOf (s : State) (r : Reg) : Head :=
  match genOf (cur s) r with
  | some (g, x) =>
    if x.wr then .plain
    else match x.ahead with
      | [] => .stall (.stream (BitVec.ofNat 2 g))
      | .fault cause va :: _ => .fault cause va
      | .came :: _ =>
        let vas := addrs (headAddr x) 64
        (match readBytes s (accOf s .load) (cur s).answers vas with
         | .stop (.fault cause va) => .fault cause va
         | .stop (.ecc key va) => .fault (eccOf key) va
         | .stop (.token va) => .fault faultProt va
         | .far locs => .ask (askRead s .load locs)
         | .bytes bs => .group g (vecOfBytes bs) (oorOf s (accOf s .load) vas))
  | none =>
    match endOf (cur s) r with
    | some e =>
      if isDeq e then
        let q := queueAt (curCore s) e
        match queueOf s q with
        | x :: _ =>
          if x.landed then (match x.marker with | some m => .marker m q | none => .entry x.data q)
          else .stall (.qEmpty q.2)
        | [] => .stall (.qEmpty q.2)
      else .plain
    | none => .plain

/-- The state after a register's pop (R150, R151): the register holds what was popped, and a used-up stream is unbound. A group with a
fault brings no value to judge an operand by (R425). -/
def popReg (s : State) (r : Reg) : State :=
  match headOf s r with
  | .group g v oor =>
    (match (cur s).gens[g] with
     | some x =>
       let s1 := setCur s (vput (cur s) r v)
       noteOor (setGen s1 g (if x.left ≤ 1 then none else some { x with left := x.left - 1, ahead := x.ahead.tail })) s.turn 0 oor
     | none => s)
  | .entry v q => setQueue (setCur s (vput (cur s) r v)) q (queueOf s q).tail
  | .fault _ _ => setCur s (vput (cur s) r 0)
  | _ => s

/-- Every register an instruction reads, popped once each. DEDUCED (log 18). -/
def popAll (s : State) (reads : List Reg) : State := reads.eraseDups.foldl popReg s

/-- The groups that an instruction read at issue, kept for the pop at its completion (R282, R284). -/
def keepReads (s : State) (reads : List Reg) : State :=
  reads.eraseDups.foldl (fun st r =>
    match headOf st r with
    | .group g v _ =>
      (match (cur st).gens[g] with
       | some x => setCur st { cur st with answers := (cur st).answers ++ (addrs (headAddr x) 64).zip (bytesOfVec v) }
       | none => st)
    | _ => st) s

/-- Entry to the marker handler (R233, R250, R427). -/
def enterMarker (i : Instr) (s : State) (code : BitVec 31) (q : Nat × Bool) : Eff :=
  let c := cur s
  if c.t then .wait s .markerT
  else if c.mkr then illegal i s .reserved
  else if c.mvec = 0 then .fault s (faultDouble 0x0F) c.pc
  else
    let s1 := setQueue s q (queueOf s q).tail
    .jump (setCur s1 { cur s1 with mrk := BitVec.ofNat 64 (code.toNat * 2 + b2n q.2), mpc := c.pc, mkr := true }) c.mvec

/-- What stops an instruction at the registers it reads and at the one it writes before it issues: a group or entry that has
not come, a full queue, then a marker. DEDUCED (log 18). -/
def stallOf (i : Instr) (s : State) (reads : List Reg) (d : Option Reg) : Option Eff :=
  let heads := reads.eraseDups.map (headOf s)
  match heads.findSome? (fun h => match h with | .stall w => some (Eff.wait s w) | .ask e => some e | _ => none) with
  | some e => some e
  | none =>
    let full := d.bind (fun r => (endOf (cur s) r).bind (fun e =>
      if isDeq e then none
      else if (queueOf s (queueAt (curCore s) e)).length < 8 then none
      else some (Eff.wait s (.qFull (queueAt (curCore s) e).1 (queueAt (curCore s) e).2))))
    match full with
    | some e => some e
    | none => heads.findSome? (fun h => match h with | .marker m q => some (enterMarker i s m q) | _ => none)

/-- One fault comes before another (R425): translation, then protection, then ECC; of one kind the lower address. -/
def faultBefore (a b : Nat × Word) : Bool :=
  decide (a.1 % 256 < b.1 % 256 ∨ (a.1 % 256 = b.1 % 256 ∧ a.2.toNat < b.2.toNat))

/-- The fault held with a group that is popped (R247), the first of several (R425). -/
def heldFault (s : State) (reads : List Reg) : Option (Nat × Word) :=
  (reads.eraseDups.filterMap (fun r => match headOf s r with | .fault cause va => some (cause, va) | _ => none)).foldl
    (fun acc f => match acc with
      | none => some f
      | some g => if faultBefore f g then some f else some g) none

/-! ## Results -/

/-- Flags, ctl.rng, the predicate and the scalar of a result written. -/
def commitRest (s : State) (r : VRes) : State :=
  let c := raiseFlags (cur s) r.flags
  let c1 := match r.rng with | some w => { c with rng := w } | none => c
  let c2 := match r.p with | some (d, w) => pwrite c1 d w | none => c1
  let c3 := match r.s with | some (d, w) => swrite c2 d w | none => c2
  setCur s c3

/-- The cells a 64-byte group fills. -/
def groupCells (a : Word) (v : Vec) : List (Word × Byte) := (addrs a 64).zip (bytesOfVec v)

/-- An entry put into a neighbour queue (R151): into the slot that its instruction took at issue, where it did, so that it lands now
unless an earlier entry has not landed; else into the next slot, to land once it is ready. -/
def putEntry (s : State) (q : Nat × Bool) (v : Vec) (ready : Nat) : State :=
  let l := queueOf s q
  match lfind (fun e => e.owed == some s.turn) l with
  | some (n, e) => setQueue s q (lset l n { e with data := v, owed := none, ready := s.cycle, landed := (l.take n).all (fun x => x.landed) })
  | none => setQueue s q (l ++ [{ data := v, marker := none, landed := false, ready := ready }])

/-- The slot that an instruction takes when it issues and its result comes later (R151). -/
def takeSlot (s : State) (d : Reg) : State :=
  match endOf (cur s) d with
  | some e =>
    if isDeq e then s
    else
      let q := queueAt (curCore s) e
      setQueue s q (queueOf s q ++ [{ data := 0, marker := none, landed := false, ready := 0, owed := some s.turn }])
  | none => s

/-- A result committed (R150, R151): the pops, the flags and the registers; a vector result goes to its register, or is
appended to its stream, or to its queue with `lat` cycles to land, or is discarded where the register is read- or
dequeue-bound. DEDUCED (log 18). -/
def commit (s : State) (reads : List Reg) (lat : Nat) (r : VRes) : Eff :=
  let post := fun st => commitRest (popAll st reads) r
  match r.v with
  | none => .ok (post s)
  | some (d, v) =>
    match genOf (cur s) d with
    | some (g, x) =>
      if x.wr then
        storeThen s (groupCells x.next v) (fun st =>
          let s1 := post st
          .ok (setGen (setCur s1 (vput (cur s1) d v)) g
            (if x.left ≤ 1 then none else some { x with next := x.next + x.stride, left := x.left - 1 })))
      else .ok (post s)
    | none =>
      match endOf (cur s) d with
      | some e =>
        if isDeq e then .ok (post s)
        else
          let s1 := post s
          .ok (putEntry (setCur s1 (vput (cur s1) d v)) (queueAt (curCore s) e) v (s.cycle + lat))
      | none => .ok (setCur (post s) (vput (cur (post s)) d v))

/-- What the work of a vector instruction comes to: a trap, or what it writes. -/
inductive VOut where
  | trap (cause : Nat) (val : Word)
  | res (r : VRes)
  deriving DecidableEq, Repr

/-- The registers a vector instruction reads, popped for its work `body`; `k` goes on with what it writes, from the state
before the pops. DEDUCED (log 19). -/
def readThen (i : Instr) (s : State) (named reads : List Reg) (d : Option Reg) (body : State → VOut)
    (k : State → VRes → Eff) : Eff :=
  bankThen s named (fun s1 =>
    match stallOf i s1 reads d with
    | some e => e
    | none =>
      match body (popAll s1 reads) with
      | .trap cause val => .trap s1 cause val
      | .res r =>
        match heldFault s1 reads with
        | some (cause, va) => .fault s1 cause va
        | none => k s1 r)

/-- A vector instruction that completes at once. DEDUCED (log 28). -/
def vecOp (i : Instr) (s : State) (named reads : List Reg) (d : Option Reg) (lat : Nat) (body : State → VOut) : Eff :=
  readThen i s named reads d body (fun s1 r => commit s1 reads lat r)

end Sys2Proof.Machine
end

