-- ==== Sys2Proof/Machine/Vector.lean ====
section
/-!
DEFINITION. The vector instructions of classes 8 and 9 (R262-R282, R286-R288) but for the special-function unit: element
arithmetic, comparisons, logic, conversion, reductions, moves, counts, dot products, the octet exchange, verdict and predicate
operations, float immediates.
-/
namespace Sys2Proof.Machine

/-! ## Elements -/

/-- Every type; float types; integer types. -/
def anyTy (_ : ETy) : Bool := true
def intTyp (t : ETy) : Bool := !isFloat t
def noTy (_ : ETy) : Bool := false

/-- The vector register among a b operand. -/
def bRegs : BSrc → List Reg
  | .vreg b => [b] | _ => []

/-- The 32-bit value that a b operand broadcasts (R264). -/
def bWord (s : State) : BSrc → Option Nat
  | .vreg _ => none
  | .bank b => some (kread (cur s) b).toNat
  | .lit w => some w.toNat
  | .scal b => some ((sreg s b).toNat % 2 ^ 32)

/-- A broadcast value in an element type, with the flags of its conversion (R264). -/
def bcast (t : ETy) (w : Nat) : FRes :=
  if isFloat t then (if t = .fp32 then { w := w, flags := 0 } else cvtFF fmt32 (fmtOf t) .rne 0 w)
  else { w := w % 2 ^ tyWidth t, flags := 0 }

/-- Element `i` of a b operand in an element type. -/
def bElem (s : State) (t : ETy) (b : BSrc) (i : Nat) : Nat :=
  match b, bWord s b with
  | .vreg r, _ => elem (vfile (cur s) r) (tyWidth t) i
  | _, some w => (bcast t w).w
  | _, none => 0

/-- The 512 bits of a b operand placed in every 32-bit lane group (R264). -/
def bVec (s : State) (b : BSrc) : Vec :=
  match b, bWord s b with
  | .vreg r, _ => vfile (cur s) r
  | _, some w => ofElems 32 (List.replicate 16 w)
  | _, none => 0

/-- The flags that a broadcast's conversion sets, where an element is active (R264). -/
def bFlags (s : State) (t : ETy) (b : BSrc) (p : BitVec 16) : Nat :=
  if p = 0 then 0 else match bWord s b with | some w => (bcast t w).flags | none => 0

/-- The elements of a result (R263, R179): the active ones by `f` of the draw and the index, in ascending index, each consuming a
stochastic step in that mode; the others as they were. -/
def elemLoop (sr : Bool) (rng : Word) (n : Nat) (act : Nat → Bool) (old : Nat → Nat) (f : Nat → Nat → FRes) :
    List Nat × Nat × Word :=
  let r := (List.range n).foldl (fun (acc : List Nat × Nat × Word) i =>
    if act i then
      let g := if sr then rngStep acc.2.2 else acc.2.2
      let q := f (g.toNat % 2 ^ 32) i
      (q.w :: acc.1, acc.2.1 ||| q.flags, g)
    else (old i :: acc.1, acc.2.1, acc.2.2)) ([], 0, rng)
  (r.1.reverse, r.2.1, r.2.2)

/-- ctl.rng as an instruction leaves it. -/
def rngOut (m : RMode) (g : Word) : Option Word := if m = .sr then some g else none

/-- ctl.tval of the abandoned-operand trap of a vector element (R182). -/
def abandLane (lane enc : Nat) : Word := BitVec.ofNat 64 (lane * 2 ^ 32 + enc)

/-- The abandoned-operand trap of elements and of broadcasts (R266): the lowest active element of the operands, else the
broadcast. -/
def abandCheck (n : Nat) (act : Nat → Bool) (ops : List (Nat → Nat)) (bc : Option Nat) : Option VOut :=
  match (List.range n).findSome? (fun i =>
      if act i then (ops.find? (fun o => isAband (o i))).map (fun o => abandLane i (o i)) else none) with
  | some v => some (.trap (trapAband 0) v)
  | none =>
    match bc with
    | some w => if isAband w && (List.range n).any act then some (.trap (trapAband 0) (abandVal w)) else none
    | none => none

/-! ## Element arithmetic (R268-R270) -/

/-- An element operation on x, y and the accumulator z: for floats by format, mode and draw, for integers by sign and width. -/
structure TOp where
  float : Fmt → RMode → Nat → Nat → Nat → Nat → FRes
  int   : Bool → Nat → Nat → Nat → Nat → Nat

/-- A float operation on two values. -/
def f2 (k : Fmt → RMode → Nat → FVal → FVal → FRes) : Fmt → RMode → Nat → Nat → Nat → Nat → FRes :=
  fun f m dr x y _ => k f m dr (fval f x) (fval f y)

def tAdd : TOp := { float := f2 addV, int := fun _ w x y _ => (x + y) % 2 ^ w }
def tSub : TOp := { float := f2 (fun f m dr x y => addV f m dr x (fneg y)), int := fun _ w x y _ => (x + 2 ^ w - y % 2 ^ w) % 2 ^ w }
def tMul : TOp := { float := f2 mulV, int := fun _ w x y _ => x * y % 2 ^ w }
def tMin : TOp := { float := fun f _ _ x y _ => minMax f false x y, int := fun sg w x y _ => if decI sg w x < decI sg w y then x else y }
def tMax : TOp := { float := fun f _ _ x y _ => minMax f true x y, int := fun sg w x y _ => if decI sg w x < decI sg w y then y else x }
def tMulh : TOp := { float := f2 mulV, int := fun sg w x y _ => encI w (decI sg w x * decI sg w y / 2 ^ w) }
def tShl : TOp := { float := f2 mulV, int := fun _ w x y _ => x * 2 ^ (y % w) % 2 ^ w }
def tShr : TOp := { float := f2 mulV, int := fun _ w x y _ => x / 2 ^ (y % w) }
def tSra : TOp := { float := f2 mulV, int := fun _ w x y _ => encI w (decI true w x / 2 ^ (y % w)) }
def tFma : TOp := { float := fun f m dr x y z => fmaV f m dr (fval f x) (fval f y) (fval f z), int := fun _ w x y z => (x * y + z) % 2 ^ w }
def tFms : TOp := { float := fun f m dr x y z => fmaV f m dr (fval f x) (fval f y) (fneg (fval f z)), int := fun _ w x y z => encI w ((x : Int) * y - z) }
def tFnma : TOp := { float := fun f m dr x y z => fmaV f m dr (fneg (fval f x)) (fval f y) (fval f z), int := fun _ w x y z => encI w ((z : Int) - x * y) }
/-- A NaN gives the canonical NaN, NV when it signals (R270). -/
def signOp (f : Fmt) (x y : Nat) : FRes :=
  match fval f x with
  | .nan sg => nanRes f sg
  | _ => { w := y, flags := 0 }
def tAbs : TOp := { float := fun f _ _ x _ _ => signOp f x (x % 2 ^ (f.eb + f.fb)), int := fun sg w x _ _ => if decI sg w x < 0 then encI w (-decI sg w x) else x }
def tNeg : TOp := { float := fun f _ _ x _ _ => signOp f x ((x + 2 ^ (f.eb + f.fb)) % 2 ^ (f.eb + f.fb + 1)), int := fun _ w x _ _ => encI w (-(x : Int)) }

/-- What a typed instruction writes (R263, R264, R266, R268-R270): `z` when the accumulator v[d] is an operand. -/
def typedBody (op : TOp) (z : Bool) (t : ETy) (m : RMode) (d a : Reg) (b : Option BSrc) (p : PReg) (s : State) : VOut :=
  let w := tyWidth t
  let c := cur s
  let pv := preg s p
  let act := active pv w
  let x := elem (vfile c a) w
  let old := elem (vfile c d) w
  let y := fun i => match b with | some q => bElem s t q i | none => 0
  let ops := if t = .fp32 then [x] ++ (match b with | some (.vreg _) => [y] | _ => []) ++ (if z then [old] else []) else []
  let bc := if isFloat t then b.bind (bWord s) else none
  match abandCheck (512 / w) act ops bc with
  | some e => e
  | none =>
    let r := elemLoop (m == .sr) c.rng (512 / w) act old (fun dr i =>
      if isFloat t then op.float (fmtOf t) m dr (x i) (y i) (old i)
      else { w := op.int (isSigned t) w (x i) (y i) (old i), flags := 0 })
    .res { v := some (d, ofElems w r.1), flags := r.2.1 ||| (match b with | some q => bFlags s t q pv | none => 0), rng := rngOut m r.2.2 }

/-- A typed instruction: its checks (R265), then its operation. -/
def typed (i : Instr) (s : State) (op : TOp) (z : Bool) (ok rounds : ETy → Bool) (lat : ETy → Nat) (d a : Reg) (b : Option BSrc)
    (p : PReg) (x : XMode) : Eff :=
  match vcheck (cur s) ok rounds x with
  | .error sub => illegal i s sub
  | .ok (t, m) =>
    let rs := [a] ++ (match b with | some q => bRegs q | none => []) ++ (if z then [d] else [])
    vecOp i s (d :: rs) rs (some d) (lat t) (typedBody op z t m d a b p)

/-- The latency of float arithmetic, and of integer addition and the like (R289). -/
def latArith (t : ETy) : Nat := if isFloat t then 4 else 2
def lat4 (_ : ETy) : Nat := 4
def lat2 (_ : ETy) : Nat := 2

/-- VADD (R268). -/
def execVadd (d a : Reg) (b : BSrc) (p : PReg) (x : XMode) (s : State) : Host.Outcome State Fault Refusal :=
  finish (.vadd d a b p x) (typed (.vadd d a b p x) s tAdd false anyTy isFloat latArith d a (some b) p x)
/-- VSUB (R268). -/
def execVsub (d a : Reg) (b : BSrc) (p : PReg) (x : XMode) (s : State) : Host.Outcome State Fault Refusal :=
  finish (.vsub d a b p x) (typed (.vsub d a b p x) s tSub false anyTy isFloat latArith d a (some b) p x)
/-- VMUL (R268). -/
def execVmul (d a : Reg) (b : BSrc) (p : PReg) (x : XMode) (s : State) : Host.Outcome State Fault Refusal :=
  finish (.vmul d a b p x) (typed (.vmul d a b p x) s tMul false anyTy isFloat lat4 d a (some b) p x)
/-- VFMA (R269). -/
def execVfma (d a : Reg) (b : BSrc) (p : PReg) (x : XMode) (s : State) : Host.Outcome State Fault Refusal :=
  finish (.vfma d a b p x) (typed (.vfma d a b p x) s tFma true anyTy isFloat lat4 d a (some b) p x)
/-- VFMS (R269). -/
def execVfms (d a : Reg) (b : BSrc) (p : PReg) (x : XMode) (s : State) : Host.Outcome State Fault Refusal :=
  finish (.vfms d a b p x) (typed (.vfms d a b p x) s tFms true anyTy isFloat lat4 d a (some b) p x)
/-- VFNMA (R269). -/
def execVfnma (d a : Reg) (b : BSrc) (p : PReg) (x : XMode) (s : State) : Host.Outcome State Fault Refusal :=
  finish (.vfnma d a b p x) (typed (.vfnma d a b p x) s tFnma true anyTy isFloat lat4 d a (some b) p x)
/-- VMIN (R167, R268). -/
def execVmin (d a : Reg) (b : BSrc) (p : PReg) (s : State) : Host.Outcome State Fault Refusal :=
  finish (.vmin d a b p) (typed (.vmin d a b p) s tMin false anyTy noTy latArith d a (some b) p .dyn)
/-- VMAX (R167, R268). -/
def execVmax (d a : Reg) (b : BSrc) (p : PReg) (s : State) : Host.Outcome State Fault Refusal :=
  finish (.vmax d a b p) (typed (.vmax d a b p) s tMax false anyTy noTy latArith d a (some b) p .dyn)
/-- VABS (R270). -/
def execVabs (d a : Reg) (p : PReg) (s : State) : Host.Outcome State Fault Refusal :=
  finish (.vabs d a p) (typed (.vabs d a p) s tAbs false anyTy noTy latArith d a none p .dyn)
/-- VNEG (R270). -/
def execVneg (d a : Reg) (p : PReg) (s : State) : Host.Outcome State Fault Refusal :=
  finish (.vneg d a p) (typed (.vneg d a p) s tNeg false anyTy noTy latArith d a none p .dyn)
/-- VMULH (R268). -/
def execVmulh (d a : Reg) (b : BSrc) (p : PReg) (s : State) : Host.Outcome State Fault Refusal :=
  finish (.vmulh d a b p) (typed (.vmulh d a b p) s tMulh false intTyp noTy lat4 d a (some b) p .dyn)
/-- VSHL (R268). -/
def execVshl (d a : Reg) (b : BSrc) (p : PReg) (s : State) : Host.Outcome State Fault Refusal :=
  finish (.vshl d a b p) (typed (.vshl d a b p) s tShl false intTyp noTy lat2 d a (some b) p .dyn)
/-- VSHR (R268). -/
def execVshr (d a : Reg) (b : BSrc) (p : PReg) (s : State) : Host.Outcome State Fault Refusal :=
  finish (.vshr d a b p) (typed (.vshr d a b p) s tShr false intTyp noTy lat2 d a (some b) p .dyn)
/-- VSRA (R268). -/
def execVsra (d a : Reg) (b : BSrc) (p : PReg) (s : State) : Host.Outcome State Fault Refusal :=
  finish (.vsra d a b p) (typed (.vsra d a b p) s tSra false intTyp noTy lat2 d a (some b) p .dyn)

/-! ## Comparisons, logic, selection (R271, R272) -/

/-- A comparison of elements (R215, R271). -/
def cmpElem (cm : FCmp) (t : ETy) (x y : Nat) : FRes :=
  if isFloat t then cmpV cm (fval (fmtOf t) x) (fval (fmtOf t) y)
  else
    let u := decI (isSigned t) (tyWidth t) x
    let v := decI (isSigned t) (tyWidth t) y
    { w := b2n (match cm with | .eq => decide (u = v) | .lt => decide (u < v) | .le => decide (u ≤ v)), flags := 0 }

/-- What a comparison writes (R271): bit g of an active group is whether every element of the group meets it. -/
def cmpBody (cm : FCmp) (t : ETy) (d : PReg) (a : Reg) (b : BSrc) (p : PReg) (s : State) : VOut :=
  let w := tyWidth t
  let pv := preg s p
  let act := active pv w
  let x := elem (vfile (cur s) a) w
  let y := bElem s t b
  let ops := if t = .fp32 then [x] ++ (match b with | .vreg _ => [y] | _ => []) else []
  match abandCheck (512 / w) act ops (if isFloat t then bWord s b else none) with
  | some e => e
  | none =>
    let res := (List.range (512 / w)).map (fun i => if act i then cmpElem cm t (x i) (y i) else { w := 1, flags := 0 })
    let per := 32 / w
    let bit := fun g => (List.range per).all (fun j => (res.getD (g * per + j) { w := 0, flags := 0 }).w == 1)
    .res { p := some (d, ofBits16 (fun g => if pbit pv g then bit g else pbit (preg s d) g)),
           flags := res.foldl (fun f r => f ||| r.flags) (bFlags s t b pv) }

/-- A comparison instruction (R271). -/
def vcmp (i : Instr) (s : State) (cm : FCmp) (d : PReg) (a : Reg) (b : BSrc) (p : PReg) : Eff :=
  match vcheck (cur s) anyTy noTy .dyn with
  | .error sub => illegal i s sub
  | .ok (t, _) => vecOp i s (a :: bRegs b) (a :: bRegs b) none 2 (cmpBody cm t d a b p)

/-- VCMPEQ (R271). -/
def execVcmpeq (d : PReg) (a : Reg) (b : BSrc) (p : PReg) (s : State) : Host.Outcome State Fault Refusal :=
  finish (.vcmpeq d a b p) (vcmp (.vcmpeq d a b p) s .eq d a b p)
/-- VCMPLT (R271). -/
def execVcmplt (d : PReg) (a : Reg) (b : BSrc) (p : PReg) (s : State) : Host.Outcome State Fault Refusal :=
  finish (.vcmplt d a b p) (vcmp (.vcmplt d a b p) s .lt d a b p)
/-- VCMPLE (R271). -/
def execVcmple (d : PReg) (a : Reg) (b : BSrc) (p : PReg) (s : State) : Host.Outcome State Fault Refusal :=
  finish (.vcmple d a b p) (vcmp (.vcmple d a b p) s .le d a b p)

/-- Lane groups chosen one by one. -/
def groups (f : Nat → Nat) : Vec := ofElems 32 ((List.range 16).map f)

/-- A bitwise operation on the active lane groups (R272). -/
def vlogic (i : Instr) (s : State) (op : Vec → Vec → Vec) (d a : Reg) (b : BSrc) (p : PReg) : Eff :=
  vecOp i s (d :: a :: bRegs b) (a :: bRegs b) (some d) 2 (fun st =>
    let r := op (vfile (cur st) a) (bVec st b)
    .res { v := some (d, groups (fun g => if pbit (preg st p) g then elem r 32 g else elem (vfile (cur st) d) 32 g)) })

/-- VAND (R272). -/
def execVand (d a : Reg) (b : BSrc) (p : PReg) (s : State) : Host.Outcome State Fault Refusal :=
  finish (.vand d a b p) (vlogic (.vand d a b p) s (fun x y => x &&& y) d a b p)
/-- VOR (R272). -/
def execVor (d a : Reg) (b : BSrc) (p : PReg) (s : State) : Host.Outcome State Fault Refusal :=
  finish (.vor d a b p) (vlogic (.vor d a b p) s (fun x y => x ||| y) d a b p)
/-- VXOR (R272). -/
def execVxor (d a : Reg) (b : BSrc) (p : PReg) (s : State) : Host.Outcome State Fault Refusal :=
  finish (.vxor d a b p) (vlogic (.vxor d a b p) s (fun x y => x ^^^ y) d a b p)

/-- VSEL (R272): the predicate selects between v[a] and b. -/
def execVsel (d a : Reg) (b : BSrc) (p : PReg) (s : State) : Host.Outcome State Fault Refusal :=
  finish (.vsel d a b p)
    (vecOp (.vsel d a b p) s (d :: a :: bRegs b) (a :: bRegs b) (some d) 2 (fun st =>
      .res { v := some (d, groups (fun g => if pbit (preg st p) g then elem (vfile (cur st) a) 32 g else elem (bVec st b) 32 g)) }))

/-! ## Conversion (R273, R274) -/

/-- The exact product of two values, with NV when it is invalid or an operand signals (R274). -/
def mulExact (x y : FVal) : FVal × Nat :=
  if anyNan [x, y] then (.nan false, if anySig [x, y] then flagNV else 0)
  else
    let neg := negOf x != negOf y
    if isInf x || isInf y then (if isZero x || isZero y then (.nan false, flagNV) else (.inf neg, 0))
    else
      let p := dyMul (dyVal x) (dyVal y)
      (.fin neg p.n.natAbs p.e, 0)

/-- A value converted into an element type (R173-R175). -/
def cvtTo (t : ETy) (m : RMode) (dr : Nat) (v : FVal) : FRes :=
  if isFloat t then
    (match v with
     | .nan sg => nanRes (fmtOf t) sg
     | .inf n => infRes (fmtOf t) n 0
     | .fin n k e => if k = 0 then zeroRes (fmtOf t) n else roundTo (fmtOf t) m dr n k e false)
  else cvtVI (isSigned t) (tyWidth t) m dr v

/-- The value of an element. -/
def elemVal (t : ETy) (x : Nat) : FVal :=
  if isFloat t then fval (fmtOf t) x
  else
    let v := decI (isSigned t) (tyWidth t) x
    .fin (decide (v < 0)) v.natAbs 0

/-- One element converted (R274), scaled by `sc` where there is one. -/
def cvtElem (src dst : ETy) (m : RMode) (sc : Option Nat) (dr x : Nat) : FRes :=
  match sc with
  | some w =>
    let p := mulExact (elemVal src x) (fval fmt32 w)
    let r := cvtTo dst m dr p.1
    { w := r.w, flags := r.flags ||| p.2 }
  | none =>
    if isFloat src || isFloat dst then cvtTo dst m dr (elemVal src x)
    else { w := encI (tyWidth dst) (satI (isSigned dst) (tyWidth dst) (decI (isSigned src) (tyWidth src) x)), flags := 0 }

/-- The source element of destination element `j` (R274). -/
def cvtSource (ws wd part j : Nat) : Option Nat :=
  let ns := 512 / ws
  let nd := 512 / wd
  if wd ≤ ws then (if part * ns ≤ j ∧ j - part * ns < ns then some (j - part * ns) else none)
  else if j + part * nd < ns then some (j + part * nd) else none

/-- The number of parts of a conversion (R274). -/
def cvtParts (ws wd : Nat) : Nat := if ws = wd then 1 else Nat.max ws wd / Nat.min ws wd

/-- What VCVT writes (R274). -/
def cvtBody (src dst : ETy) (m : RMode) (sc : Bool) (part : Nat) (d a : Reg) (p : PReg) (s : State) : VOut :=
  let ws := tyWidth src
  let wd := tyWidth dst
  let c := cur s
  let pv := preg s p
  let from? := cvtSource ws wd part
  let act := fun j => (from? j).isSome && active pv wd j
  let scw := if sc then some ((sreg s d).toNat % 2 ^ 32) else none
  let x := fun j => elem (vfile c a) ws ((from? j).getD 0)
  let hit := if src = .fp32 then
      (List.range (512 / wd)).findSome? (fun j => if act j && isAband (x j) then some (abandLane ((from? j).getD 0) (x j)) else none)
    else none
  match hit with
  | some v => .trap (trapAband 0) v
  | none =>
    match abandCheck (512 / wd) act [] scw with
    | some e => e
    | none =>
      let r := elemLoop (m == .sr) c.rng (512 / wd) act (elem (vfile c d) wd) (fun dr j => cvtElem src dst m scw dr (x j))
      .res { v := some (d, ofElems wd r.1), flags := r.2.1, rng := rngOut m r.2.2 }

/-- VCVT (R273, R274). -/
def execVcvt (d a : Reg) (sc : Bool) (t : ETy) (n : BitVec 2) (p : PReg) (x : XMode) (s : State) :
    Host.Outcome State Fault Refusal :=
  let i : Instr := .vcvt d a sc t n p x
  finish i
    (match vcheck (cur s) anyTy (fun src => isFloat src || isFloat t) x with
     | .error sub => illegal i s sub
     | .ok (src, m) =>
       if cvtParts (tyWidth src) (tyWidth t) ≤ n.toNat then illegal i s .reserved
       else if sc && !(isFloat src || isFloat t) then illegal i s .reserved
       else vecOp i s [d, a] [a] (some d) 4 (cvtBody src t m sc n.toNat d a p))

/-! ## Reductions (R187, R275) -/

/-- One level of the pairwise tree (R187): neighbours combined in ascending order. -/
def treeLevel (f : Nat → Nat → Nat → FRes) (sr : Bool) (l : List Nat) (acc : Nat × Word) : List Nat × Nat × Word :=
  match l with
  | x :: y :: t =>
    let g := if sr then rngStep acc.2 else acc.2
    let q := f (g.toNat % 2 ^ 32) x y
    let r := treeLevel f sr t (acc.1 ||| q.flags, g)
    (q.w :: r.1, r.2)
  | _ => ([], acc.1, acc.2)

/-- The pairwise tree of R187 over 2^k leaves. -/
def tree (f : Nat → Nat → Nat → FRes) (sr : Bool) (k : Nat) (l : List Nat) (acc : Nat × Word) : Nat × Nat × Word :=
  match k with
  | 0 => (l.headD 0, acc.1, acc.2)
  | k + 1 => let r := treeLevel f sr l acc; tree f sr k r.1 r.2

/-- The three reductions. -/
inductive Red where
  | sum | max | min
  deriving DecidableEq, Repr

/-- The identity of an inactive element (R187). -/
def redId (r : Red) (t : ETy) : Nat :=
  match r with
  | .sum => if isFloat t then signBit (fmtOf t) true else 0
  | .max => if isFloat t then (if t = .e4m3 then maxFin fmtE4 true else infBits (fmtOf t) true) else encI (tyWidth t) (intLo (isSigned t) (tyWidth t))
  | .min => if isFloat t then (if t = .e4m3 then maxFin fmtE4 false else infBits (fmtOf t) false) else encI (tyWidth t) (intHi (isSigned t) (tyWidth t))

/-- The operation of a reduction. -/
def redTop : Red → TOp
  | .sum => tAdd | .max => tMax | .min => tMin

/-- What a reduction writes (R275): element 0, every other bit zero. -/
def redBody (rd : Red) (t : ETy) (m : RMode) (d a : Reg) (p : PReg) (s : State) : VOut :=
  let w := tyWidth t
  let act := active (preg s p) w
  let x := elem (vfile (cur s) a) w
  match abandCheck (512 / w) act (if t = .fp32 then [x] else []) none with
  | some e => e
  | none =>
    let leaves := (List.range (512 / w)).map (fun i => if act i then x i else redId rd t)
    let r := tree (fun dr u v => if isFloat t then (redTop rd).float (fmtOf t) m dr u v 0
      else { w := (redTop rd).int (isSigned t) w u v 0, flags := 0 }) (m == .sr) (512 / w).log2 leaves (0, (cur s).rng)
    .res { v := some (d, BitVec.ofNat 512 r.1), flags := r.2.1, rng := rngOut m r.2.2 }

/-- A reduction instruction. -/
def reduce (i : Instr) (s : State) (rd : Red) (d a : Reg) (p : PReg) (x : XMode) : Eff :=
  match vcheck (cur s) anyTy (fun t => isFloat t && rd == .sum) x with
  | .error sub => illegal i s sub
  | .ok (t, m) => vecOp i s [d, a] [a] (some d) 8 (redBody rd t m d a p)

/-- VRSUM (R275). -/
def execVrsum (d a : Reg) (p : PReg) (x : XMode) (s : State) : Host.Outcome State Fault Refusal :=
  finish (.vrsum d a p x) (reduce (.vrsum d a p x) s .sum d a p x)
/-- VRMAX (R275). -/
def execVrmax (d a : Reg) (p : PReg) (s : State) : Host.Outcome State Fault Refusal :=
  finish (.vrmax d a p) (reduce (.vrmax d a p) s .max d a p .dyn)
/-- VRMIN (R275). -/
def execVrmin (d a : Reg) (p : PReg) (s : State) : Host.Outcome State Fault Refusal :=
  finish (.vrmin d a p) (reduce (.vrmin d a p) s .min d a p .dyn)

/-! ## Moves (R276-R279) -/

/-- An instruction that chooses each active element of v[d] by its index (R276). -/
def vmove (i : Instr) (s : State) (d a : Reg) (more : List Reg) (p : PReg) (f : State → Nat → Nat → Nat → Nat) : Eff :=
  match vcheck (cur s) anyTy noTy .dyn with
  | .error sub => illegal i s sub
  | .ok (t, _) =>
    let w := tyWidth t
    vecOp i s (d :: a :: more) (a :: more) (some d) 3 (fun st =>
      .res { v := some (d, ofElems w ((List.range (512 / w)).map (fun j =>
        if active (preg st p) w j then f st w (512 / w) j else elem (vfile (cur st) d) w j))) })

/-- VPERM (R276). -/
def execVperm (d a b : Reg) (p : PReg) (s : State) : Host.Outcome State Fault Refusal :=
  finish (.vperm d a b p) (vmove (.vperm d a b p) s d a [b] p (fun st w n j =>
    elem (vfile (cur st) a) w (elem (vfile (cur st) b) w j % n)))
/-- VBCAST (R276). -/
def execVbcast (d a b : Reg) (p : PReg) (s : State) : Host.Outcome State Fault Refusal :=
  finish (.vbcast d a b p) (vmove (.vbcast d a b p) s d a [] p (fun st w n _ =>
    elem (vfile (cur st) a) w ((sreg st b).toNat % n)))
/-- VSLIDE (R276). -/
def execVslide (d a b : Reg) (p : PReg) (s : State) : Host.Outcome State Fault Refusal :=
  finish (.vslide d a b p) (vmove (.vslide d a b p) s d a [] p (fun st w n j =>
    let k : Int := (j : Int) + (sreg st b).toInt
    if 0 ≤ k ∧ k < n then elem (vfile (cur st) a) w k.toNat else 0))

/-- The lane groups whose bit is 1, in ascending order. -/
def chosen (p : BitVec 16) : List Nat := (List.range 16).filter (fun g => pbit p g)

/-- VCMPRS (R277). -/
def execVcmprs (d a : Reg) (p : PReg) (s : State) : Host.Outcome State Fault Refusal :=
  finish (.vcmprs d a p) (vecOp (.vcmprs d a p) s [d, a] [a] (some d) 3 (fun st =>
    .res { v := some (d, ofElems 32 ((chosen (preg st p)).map (elem (vfile (cur st) a) 32))) }))

/-- VEXPND (R277). -/
def execVexpnd (d a : Reg) (p : PReg) (s : State) : Host.Outcome State Fault Refusal :=
  finish (.vexpnd d a p) (vecOp (.vexpnd d a p) s [d, a] [a] (some d) 3 (fun st =>
    .res { v := some (d, groups (fun g =>
      if pbit (preg st p) g then elem (vfile (cur st) a) 32 ((chosen (preg st p)).idxOf g) else elem (vfile (cur st) d) 32 g)) }))

/-- The bits of the active nonzero elements (R180, R279). -/
def nonzeroOf (s : State) (t : ETy) (a : Reg) (p : PReg) : List Bool :=
  let w := tyWidth t
  (List.range (512 / w)).map (fun j => active (preg s p) w j && decide (elem (vfile (cur s) a) w j ≠ 0))

/-- An instruction that writes s[d] from the nonzero elements (R279). -/
def vcount (i : Instr) (s : State) (d a : Reg) (p : PReg) (f : List Bool → Nat) : Eff :=
  match vcheck (cur s) anyTy noTy .dyn with
  | .error sub => illegal i s sub
  | .ok (t, _) => vecOp i s [a] [a] none 3 (fun st => .res { s := some (d, BitVec.ofNat 64 (f (nonzeroOf st t a p))) })

/-- VNZ (R279). -/
def execVnz (d a : Reg) (p : PReg) (s : State) : Host.Outcome State Fault Refusal :=
  finish (.vnz d a p) (vcount (.vnz d a p) s d a p (fun l => l.foldr (fun b acc => b2n b + 2 * acc) 0))
/-- VPOPC (R279). -/
def execVpopc (d a : Reg) (p : PReg) (s : State) : Host.Outcome State Fault Refusal :=
  finish (.vpopc d a p) (vcount (.vpopc d a p) s d a p (fun l => l.countP (fun b => b)))

/-- VMOVS, inserting a scalar (R278). -/
def execVmovsIns (d a b : Reg) (s : State) : Host.Outcome State Fault Refusal :=
  let i : Instr := .vmovsIns d a b
  finish i
    (match vcheck (cur s) anyTy noTy .dyn with
     | .error sub => illegal i s sub
     | .ok (t, _) =>
       let w := tyWidth t
       vecOp i s [d] [] (some d) 2 (fun st =>
         .res { v := some (d, ofElems w ((List.range (512 / w)).map (fun j =>
           if j = (sreg st b).toNat % (512 / w) then (sreg st a).toNat else elem (vfile (cur st) d) w j))) }))

/-- VMOVS, extracting an element (R278). -/
def execVmovsExt (d a b : Reg) (s : State) : Host.Outcome State Fault Refusal :=
  let i : Instr := .vmovsExt d a b
  finish i
    (match vcheck (cur s) anyTy noTy .dyn with
     | .error sub => illegal i s sub
     | .ok (t, _) =>
       let w := tyWidth t
       vecOp i s [a] [a] none 2 (fun st =>
         .res { s := some (d, BitVec.ofNat 64 (encI 64 (decI (isSigned t) w (elem (vfile (cur st) a) w ((sreg st b).toNat % (512 / w)))))) }))

/-- VCLASS (R279): the class number of each active element. -/
def execVclass (d a : Reg) (p : PReg) (s : State) : Host.Outcome State Fault Refusal :=
  finish (.vclass d a p) (typed (.vclass d a p) s
    { float := fun f _ _ x _ _ => { w := classOf f x, flags := 0 }, int := fun _ _ x _ _ => x } false isFloat noTy (fun _ => 3) d a none p .dyn)

/-! ## Dot products (R280) -/

/-- A float group of VDOT4 (R184, R280): the accumulator and the exact sum of the products, rounded once. -/
def dotFloat (m : RMode) (dr : Nat) (acc : FVal) (xs : List (FVal × FVal)) : FRes :=
  let bad := xs.any (fun q => anyNan [q.1, q.2] || (isInf q.1 && isZero q.2) || (isZero q.1 && isInf q.2))
  let infs := (xs.filter (fun q => isInf q.1 || isInf q.2)).map (fun q => negOf q.1 != negOf q.2)
  if bad || (infs.contains true && infs.contains false) then nanRes fmt32 true
  else
    match infs with
    | n :: _ =>
      (match acc with
       | .nan sg => nanRes fmt32 sg
       | .inf k => if k = n then infRes fmt32 n 0 else nanRes fmt32 true
       | _ => infRes fmt32 n 0)
    | [] =>
      match acc with
      | .nan sg => nanRes fmt32 sg
      | .inf k => infRes fmt32 k 0
      | _ =>
        let sum := xs.foldl (fun d q => dyAdd d (dyMul (dyVal q.1) (dyVal q.2))) (dyVal acc)
        let signs := negOf acc :: xs.map (fun q => negOf q.1 != negOf q.2)
        let zeros := isZero acc && xs.all (fun q => isZero q.1 || isZero q.2)
        roundDy fmt32 m dr sum (if zeros && signs.all (fun b => b == negOf acc) then negOf acc else zeroNeg m)

/-- The types VDOT4 accepts (R280). -/
def dotTy : ETy → Bool
  | .i32 => false | .n32 => false | .fp32 => false | _ => true

/-- What VDOT4 writes (R280). -/
def dotBody (t : ETy) (m : RMode) (d a : Reg) (b : BSrc) (p : PReg) (s : State) : VOut :=
  let w := tyWidth t
  let c := cur s
  let pv := preg s p
  let old := elem (vfile c d) 32
  match abandCheck 16 (pbit pv) (if isFloat t then [old] else []) none with
  | some e => e
  | none =>
    let pairs := fun g => (List.range (32 / w)).map (fun j =>
      (elem (vfile c a) w (g * (32 / w) + j), elem (bVec s b) w (g * (32 / w) + j)))
    let r := elemLoop (m == .sr) c.rng 16 (pbit pv) old (fun dr g =>
      if isFloat t then dotFloat m dr (fval fmt32 (old g)) ((pairs g).map (fun q => (fval (fmtOf t) q.1, fval (fmtOf t) q.2)))
      else { w := encI 32 ((pairs g).foldl (fun acc q => acc + decI (isSigned t) w q.1 * decI (isSigned t) w q.2) (old g : Int)), flags := 0 })
    .res { v := some (d, ofElems 32 r.1), flags := r.2.1, rng := rngOut m r.2.2 }

/-- VDOT4 (R280). -/
def execVdot4 (d a : Reg) (b : BSrc) (p : PReg) (x : XMode) (s : State) : Host.Outcome State Fault Refusal :=
  let i : Instr := .vdot4 d a b p x
  finish i
    (match vcheck (cur s) dotTy isFloat x with
     | .error sub => illegal i s sub
     | .ok (t, m) => vecOp i s (d :: a :: bRegs b) (a :: d :: bRegs b) (some d) 4 (dotBody t m d a b p))

/-! ## The octet exchange (R281, R282) -/

/-- The eight cores of an octet. -/
def octCores (o : Nat) : List Nat := (List.range 8).map (fun j => 8 * o + j)

/-- VXCHG arrives (R282): it reads v[a] and its context blocks until the exchange completes. -/
def execVxchg (d a : Reg) (s : State) : Host.Outcome State Fault Refusal :=
  let i : Instr := .vxchg d a
  let k := curCore s
  finish i
    (bankThen s [d, a] (fun s1 =>
      if (octCores (octOf k)).any (fun j => launchOf s1 j != launchOf s1 k) then .fault s1 faultProt 0
      else if (getOct s1 (octOf k)).vx.any (fun r => coreOf r.ctx == k) then .wait s1 .vxBusy
      else
        readThen i s1 [d, a] [a] (some d) (fun st => .res { v := some (d, vfile (cur st) a) })
          (fun s2 r =>
            let o := getOct s2 (octOf k)
            .wait (takeSlot (setOct (keepReads s2 [a]) (octOf k)
              { o with vx := o.vx ++ [{ ctx := s2.turn, d := d, a := a, src := (r.v.getD (0, 0)).2, time := s2.cycle }] }) d) .vxchg)))

/-- The chunk of 64 bits `j` of a vector. -/
def chunk (v : Vec) (j : Nat) : Nat := v.toNat / 2 ^ (64 * j) % 2 ^ 64

/-- What the exchange writes for core index `c`, from the sources in core order (R281). -/
def exchanged (srcs : List Vec) (c : Nat) : Vec := ofElems 64 (srcs.map (fun v => chunk v c))

/-- VXCHG_COMPLETE (R282): 8 cycles after the eighth arrival every destination is written and every context is READY. -/
def vxchgComplete (s : State) (o : Nat) : State :=
  let vx := (getOct s o).vx
  let arr := fun j => vx.find? (fun r => coreOf r.ctx == 8 * o + j)
  if (List.range 8).all (fun j => (arr j).isSome) && vx.all (fun r => decide (r.time + 8 ≤ s.cycle)) then
    let srcs := (List.range 8).map (fun j => ((arr j).map (·.src)).getD 0)
    let s1 := setOct s o { getOct s o with vx := [] }
    vx.foldl (fun st r =>
      let st1 := { setCtx st r.ctx { getCtx st r.ctx with st := .ready } with turn := r.ctx }
      endState (.vxchg r.d r.a) (commit st1 [r.a] 8 { v := some (r.d, exchanged srcs (coreOf r.ctx % 8)) })) s1
  else s

/-- VXCHG_COMPLETE (R282). -/
def execVxchgComplete (oct : Nat) (s : State) : Host.Outcome State Fault Refusal := .next (vxchgComplete s oct)

/-! ## Verdict operations (R286) -/

/-- VVSEL (R286): abandoned elements are replaced by b. -/
def execVvsel (d a : Reg) (b : BSrc) (p : PReg) (s : State) : Host.Outcome State Fault Refusal :=
  let i : Instr := .vvsel d a b p
  finish i
    (match vcheck (cur s) (fun t => t == .fp32) noTy .dyn with
     | .error sub => illegal i s sub
     | .ok _ =>
       vecOp i s (d :: a :: bRegs b) (a :: bRegs b) (some d) 3 (fun st =>
         .res { v := some (d, groups (fun g =>
           let x := elem (vfile (cur st) a) 32 g
           if pbit (preg st p) g then (if isAband x then elem (bVec st b) 32 g else x) else elem (vfile (cur st) d) 32 g)) }))

/-- x ≥ₐ y on encodings, and NV for another signalling NaN (R286). -/
def geAband (x y : Nat) : FRes :=
  let v := fun w => if isAband w then FVal.inf (decide (w / 2 ^ 31 % 2 = 1)) else fval fmt32 w
  if anyNan [v x, v y] then { w := 0, flags := if anySig [v x, v y] then flagNV else 0 }
  else { w := b2n (!ltV (v x) (v y)), flags := 0 }

/-- VVCMP (R286). -/
def execVvcmp (d : PReg) (a : Reg) (b : BSrc) (p : PReg) (s : State) : Host.Outcome State Fault Refusal :=
  let i : Instr := .vvcmp d a b p
  finish i
    (match vcheck (cur s) (fun t => t == .fp32) noTy .dyn with
     | .error sub => illegal i s sub
     | .ok _ =>
       vecOp i s (a :: bRegs b) (a :: bRegs b) none 3 (fun st =>
         let res := fun g => geAband (elem (vfile (cur st) a) 32 g) (elem (bVec st b) 32 g)
         let pv := preg st p
         .res { p := some (d, ofBits16 (fun g => if pbit pv g then (res g).w == 1 else pbit (preg st d) g)),
                flags := (List.range 16).foldl (fun f g => if pbit pv g then f ||| (res g).flags else f) 0 }))

/-! ## Predicates (R287) -/

/-- A predicate written, and on to the next instruction. -/
def putP (i : Instr) (s : State) (d : PReg) (w : BitVec 16) : Host.Outcome State Fault Refusal := finish i (.ok (setPreg s d w))

/-- PAND (R287). -/
def execPand (d a b : PReg) (s : State) : Host.Outcome State Fault Refusal := putP (.pand d a b) s d (preg s a &&& preg s b)
/-- POR (R287). -/
def execPor (d a b : PReg) (s : State) : Host.Outcome State Fault Refusal := putP (.por d a b) s d (preg s a ||| preg s b)
/-- PXOR (R287). -/
def execPxor (d a b : PReg) (s : State) : Host.Outcome State Fault Refusal := putP (.pxor d a b) s d (preg s a ^^^ preg s b)
/-- PNOT (R287). -/
def execPnot (d a : PReg) (s : State) : Host.Outcome State Fault Refusal := putP (.pnot d a) s d (~~~preg s a)
/-- PSETN (R287). -/
def execPsetn (d : PReg) (a : Reg) (s : State) : Host.Outcome State Fault Refusal :=
  putP (.psetn d a) s d (ofBits16 (fun g => decide (g < Nat.min (sreg s a).toNat 16)))

/-! ## Float immediates (R168, R288) -/

/-- What a float immediate instruction writes (R288): `useX` when v[d] is an operand. -/
def immBody (f : Fmt → RMode → Nat → Nat → FRes) (useX : Bool) (t : ETy) (m : RMode) (d : Reg) (imm : Nat) (s : State) : VOut :=
  let w := tyWidth t
  let x := elem (vfile (cur s) d) w
  match abandCheck (512 / w) (fun _ => true) (if useX && t == .fp32 then [x] else []) (some imm) with
  | some e => e
  | none =>
    let k := bcast t imm
    let r := elemLoop false (cur s).rng (512 / w) (fun _ => true) x (fun _ j => f (fmtOf t) m (x j) k.w)
    .res { v := some (d, ofElems w r.1), flags := r.2.1 ||| k.flags }

/-- A float immediate instruction (R288). -/
def fimm (i : Instr) (s : State) (f : Fmt → RMode → Nat → Nat → FRes) (rounds useX : Bool) (d : Reg) (imm : BitVec 20) : Eff :=
  match vcheck (cur s) isFloat (fun _ => rounds) .dyn with
  | .error sub => illegal i s sub
  | .ok (t, m) => vecOp i s [d] (if useX then [d] else []) (some d) 4 (immBody f useX t m d (imm.toNat * 2 ^ 12))

/-- VFADDI (R288). -/
def execVfaddi (d : Reg) (i : BitVec 20) (s : State) : Host.Outcome State Fault Refusal :=
  finish (.vfaddi d i) (fimm (.vfaddi d i) s (fun f m x k => addV f m 0 (fval f x) (fval f k)) true true d i)
/-- VFMULI (R288). -/
def execVfmuli (d : Reg) (i : BitVec 20) (s : State) : Host.Outcome State Fault Refusal :=
  finish (.vfmuli d i) (fimm (.vfmuli d i) s (fun f m x k => mulV f m 0 (fval f x) (fval f k)) true true d i)
/-- VFMINI (R288). -/
def execVfmini (d : Reg) (i : BitVec 20) (s : State) : Host.Outcome State Fault Refusal :=
  finish (.vfmini d i) (fimm (.vfmini d i) s (fun f _ x k => minMax f false x k) false true d i)
/-- VFMAXI (R288). -/
def execVfmaxi (d : Reg) (i : BitVec 20) (s : State) : Host.Outcome State Fault Refusal :=
  finish (.vfmaxi d i) (fimm (.vfmaxi d i) s (fun f _ x k => minMax f true x k) false true d i)
/-- VMOVI (R288). -/
def execVmovi (d : Reg) (i : BitVec 20) (s : State) : Host.Outcome State Fault Refusal :=
  finish (.vmovi d i) (fimm (.vmovi d i) s (fun _ _ _ k => { w := k, flags := 0 }) false false d i)
/-- VFRSUBI (R288). -/
def execVfrsubi (d : Reg) (i : BitVec 20) (s : State) : Host.Outcome State Fault Refusal :=
  finish (.vfrsubi d i) (fimm (.vfrsubi d i) s (fun f m x k => addV f m 0 (fval f k) (fneg (fval f x))) true true d i)

end Sys2Proof.Machine
end

