-- ==== Sys2Proof/Machine/Sfu.lean ====
section
/-!
DEFINITION. The special-function unit (R283-R285): each function from a fixed-point value of 480 fraction bits that is correct to
more than 300 bits, rounded once (log 11); the queue of the octet, the start of service and the result.
-/
namespace Sys2Proof.Machine

/-! ## Functions -/

/-- Fraction bits of the fixed-point values. DEDUCED (log 11). -/
def fxBits : Nat := 480
/-- One. -/
def fxOne : Nat := 2 ^ fxBits
/-- π/2. -/
def fxHalfPi : Nat := 4903631156013654104835216594459417753999121174389642500969893891376420597345114094181205771426638395810007501500231852443806468116305670880520922
/-- ln 2. -/
def fxLn2 : Nat := 2163831206068626582013545711676841861948052748333448460576126764197453058704984291728498395082427418541825153072586431322543340688239788857703209

/-- A magnitude m·2^e as a fixed-point value, rounded down. -/
def toFx (m : Nat) (e : Int) : Nat :=
  if 0 ≤ e + fxBits then m * 2 ^ (e + fxBits).toNat else m / 2 ^ (-(e + fxBits)).toNat

/-- The sum of the terms t, t·y/(k(k+1))·… of a Taylor series: `step` gives the divisor of each further term. -/
def taylor (y : Nat) (step : Nat → Nat) (neg : Bool) (fuel : Nat) (k : Nat) (t acc : Int) : Int :=
  match fuel with
  | 0 => acc
  | fuel + 1 =>
    let t1 := t * y / fxOne / (step k : Int)
    let t2 := if neg then -t1 else t1
    taylor y step neg fuel (k + 1) t2 (acc + t2)

/-- e^r for 0 ≤ r < 1. -/
def fxExp (r : Nat) : Nat := (taylor r (fun k => k + 1) false 120 0 fxOne fxOne).toNat
/-- sin r for 0 ≤ r < 1. -/
def fxSin (r : Nat) : Nat := (taylor (r * r / fxOne) (fun k => (2 * k + 2) * (2 * k + 3)) true 70 0 r r).toNat
/-- cos r for 0 ≤ r < 1. -/
def fxCos (r : Nat) : Nat := (taylor (r * r / fxOne) (fun k => (2 * k + 1) * (2 * k + 2)) true 70 0 fxOne fxOne).toNat

/-- z + z^3/3 + z^5/5 + … from the power `p` of z on. -/
def fxAtanh (z2 : Nat) (fuel k p : Nat) : Nat :=
  match fuel with
  | 0 => 0
  | fuel + 1 => p / (2 * k + 1) + fxAtanh z2 fuel (k + 1) (p * z2 / fxOne)

/-- ln y for a fixed-point y ≥ 1 that is below 2: twice the series of (y-1)/(y+1). -/
def fxLn (y : Nat) : Nat :=
  let z := (y - fxOne) * fxOne / (y + fxOne)
  2 * fxAtanh (z * z / fxOne) 200 0 z

/-- A fixed-point magnitude that is not exact, rounded into a format. DEDUCED (log 11). -/
def roundFx (f : Fmt) (m : RMode) (dr : Nat) (neg : Bool) (v : Nat) (e : Int) : FRes :=
  roundTo f m dr neg (v / 2 ^ 40) (e - (fxBits - 40 : Nat)) true

/-- A value a little above or below m·2^e, rounded. -/
def above (f : Fmt) (md : RMode) (dr : Nat) (neg : Bool) (m : Nat) (e : Int) : FRes :=
  roundTo f md dr neg (m * 2 ^ 90) (e - 90) true
def below (f : Fmt) (md : RMode) (dr : Nat) (neg : Bool) (m : Nat) (e : Int) : FRes :=
  roundTo f md dr neg (m * 2 ^ 90 - 1) (e - 90) true

/-- A magnitude m·2^e below 2^-60; one of at least 2^k. -/
def small (m : Nat) (e : Int) : Bool := decide (e + m.log2 < -60)
def big (m : Nat) (e : Int) (k : Int) : Bool := decide (k ≤ e + m.log2)

/-- 2^x (R283). DEDUCED (log 11). -/
def exp2V (f : Fmt) (md : RMode) (dr : Nat) (v : FVal) : FRes :=
  match v with
  | .nan s => nanRes f s
  | .inf n => if n then zeroRes f false else infRes f false 0
  | .fin n m e =>
    if m = 0 then roundTo f md dr false 1 0 false
    else if small m e then (if n then below f md dr false 1 0 else above f md dr false 1 0)
    else if big m e 20 then roundTo f md dr false (2 ^ 40) (if n then -(2 ^ 20) else 2 ^ 20) true
    else
      let x := toFx m e
      let k := x / fxOne
      let r := x % fxOne
      if r = 0 then roundTo f md dr false 1 (if n then -(k : Int) else k) false
      else if n then roundFx f md dr false (fxExp ((fxOne - r) * fxLn2 / fxOne)) (-(k : Int) - 1)
      else roundFx f md dr false (fxExp (r * fxLn2 / fxOne)) k

/-- log2 x (R283). DEDUCED (log 11). -/
def log2V (f : Fmt) (md : RMode) (dr : Nat) (v : FVal) : FRes :=
  match v with
  | .nan s => nanRes f s
  | .inf n => if n then nanRes f true else infRes f false 0
  | .fin n m e =>
    if m = 0 then infRes f true flagDZ
    else if n then nanRes f true
    else
      let k : Int := e + m.log2
      if m = 2 ^ m.log2 then roundDy f md dr { n := k, e := 0 } false
      else
        let y := toFx m (-(m.log2 : Int))
        let l : Int := if y * y < 2 * fxOne * fxOne then fxLn y * fxOne / fxLn2 + k * fxOne
          else (k + 1) * fxOne - fxLn (2 * fxOne * fxOne / y) * fxOne / fxLn2
        roundFx f md dr (decide (l < 0)) l.natAbs 0

/-- The quadrant and the remainder of an angle, with its sign: x = k·π/2 ± r, r at most π/4. -/
def reduceAngle (x : Nat) : Nat × Bool × Nat :=
  let k := (x + fxHalfPi / 2) / fxHalfPi
  (k % 4, decide (x < k * fxHalfPi), if x < k * fxHalfPi then k * fxHalfPi - x else x - k * fxHalfPi)

/-- sin x (R283). DEDUCED (log 11). -/
def sinV (f : Fmt) (md : RMode) (dr : Nat) (v : FVal) : FRes :=
  match v with
  | .nan s => nanRes f s
  | .inf _ => nanRes f true
  | .fin n m e =>
    if m = 0 then zeroRes f n
    else if small m e then below f md dr n m e
    else
      match reduceAngle (toFx m e) with
      | (0, s, r) => roundFx f md dr (n != s) (fxSin r) 0
      | (1, _, r) => roundFx f md dr n (fxCos r) 0
      | (2, s, r) => roundFx f md dr (n == s) (fxSin r) 0
      | (_, _, r) => roundFx f md dr (!n) (fxCos r) 0

/-- cos x (R283). DEDUCED (log 11). -/
def cosV (f : Fmt) (md : RMode) (dr : Nat) (v : FVal) : FRes :=
  match v with
  | .nan s => nanRes f s
  | .inf _ => nanRes f true
  | .fin _ m e =>
    if m = 0 then roundTo f md dr false 1 0 false
    else if small m e then below f md dr false 1 0
    else
      match reduceAngle (toFx m e) with
      | (0, _, r) => roundFx f md dr false (fxCos r) 0
      | (1, s, r) => roundFx f md dr (!s) (fxSin r) 0
      | (2, _, r) => roundFx f md dr true (fxCos r) 0
      | (_, s, r) => roundFx f md dr s (fxSin r) 0

/-- tanh x (R283). DEDUCED (log 11). -/
def tanhV (f : Fmt) (md : RMode) (dr : Nat) (v : FVal) : FRes :=
  match v with
  | .nan s => nanRes f s
  | .inf n => roundTo f md dr n 1 0 false
  | .fin n m e =>
    if m = 0 then zeroRes f n
    else if small m e then below f md dr n m e
    else if big m e 6 then below f md dr n 1 0
    else
      let y := 2 * toFx m e
      let x := fxExp (y % fxLn2) * 2 ^ (y / fxLn2)
      roundFx f md dr n ((x - fxOne) * fxOne / (x + fxOne)) 0

/-- 1/x (R283). -/
def rcpV (f : Fmt) (md : RMode) (dr : Nat) (v : FVal) : FRes := divV f md dr (.fin false 1 0) v

/-- 1/√x (R283). DEDUCED (log 11). -/
def rsqV (f : Fmt) (md : RMode) (dr : Nat) (v : FVal) : FRes :=
  match v with
  | .nan s => nanRes f s
  | .inf n => if n then nanRes f true else zeroRes f false
  | .fin n m e =>
    if m = 0 then infRes f n flagDZ
    else if n then nanRes f true
    else
      let m1 := if e % 2 = 0 then m else 2 * m
      let e1 := if e % 2 = 0 then e else e - 1
      let r := isqrt (2 ^ 480 / m1)
      roundTo f md dr false r (-(e1 / 2) - 240) (decide (r * r * m1 ≠ 2 ^ 480))

/-! ## The queue of the octet (R284, R285) -/

/-- The cycles a request occupies the unit (R284): 8 for 8-bit elements, for VDIV and for VSQRT, else 4. -/
def sfuCycles (i : Instr) (t : ETy) : Nat :=
  match i with
  | .vdiv _ _ _ _ _ => 8
  | .vsqrt _ _ _ _ => 8
  | _ => if tyWidth t = 8 then 8 else 4

/-- An instruction of the special-function unit (R283, R284): float types only; its operands are read and checked at issue, its
request waits for a place in the queue of 16, and its context blocks until the result is written. -/
def sfuOp (i : Instr) (s : State) (op : Fmt → RMode → Nat → FVal → FVal → FRes) (d a : Reg) (b : Option BSrc) (p : PReg)
    (x : XMode) : Eff :=
  match vcheck (cur s) isFloat isFloat x with
  | .error sub => illegal i s sub
  | .ok (t, m) =>
    let rs := [a] ++ (match b with | some q => bRegs q | none => [])
    readThen i s (d :: rs) rs (some d)
      (typedBody { float := f2 op, int := fun _ _ u _ _ => u } false t m d a b p)
      (fun s1 r =>
        let o := getOct s1 (octOf (curCore s1))
        if 16 ≤ o.sfuq.length then .wait s1 .sfuFull
        else
          .wait (takeSlot (setOct (keepReads s1 rs) (octOf (curCore s1)) { o with sfuq := o.sfuq ++
            [{ ctx := s1.turn, i := i, reads := rs, res := r, cycles := sfuCycles i t, begun := none }] }) d) .sfu)

/-- VRCP (R283). -/
def execVrcp (d a : Reg) (p : PReg) (x : XMode) (s : State) : Host.Outcome State Fault Refusal :=
  finish (.vrcp d a p x) (sfuOp (.vrcp d a p x) s (fun f m dr u _ => rcpV f m dr u) d a none p x)
/-- VRSQ (R283). -/
def execVrsq (d a : Reg) (p : PReg) (x : XMode) (s : State) : Host.Outcome State Fault Refusal :=
  finish (.vrsq d a p x) (sfuOp (.vrsq d a p x) s (fun f m dr u _ => rsqV f m dr u) d a none p x)
/-- VEXP2 (R283). -/
def execVexp2 (d a : Reg) (p : PReg) (x : XMode) (s : State) : Host.Outcome State Fault Refusal :=
  finish (.vexp2 d a p x) (sfuOp (.vexp2 d a p x) s (fun f m dr u _ => exp2V f m dr u) d a none p x)
/-- VLOG2 (R283). -/
def execVlog2 (d a : Reg) (p : PReg) (x : XMode) (s : State) : Host.Outcome State Fault Refusal :=
  finish (.vlog2 d a p x) (sfuOp (.vlog2 d a p x) s (fun f m dr u _ => log2V f m dr u) d a none p x)
/-- VSIN (R283). -/
def execVsin (d a : Reg) (p : PReg) (x : XMode) (s : State) : Host.Outcome State Fault Refusal :=
  finish (.vsin d a p x) (sfuOp (.vsin d a p x) s (fun f m dr u _ => sinV f m dr u) d a none p x)
/-- VCOS (R283). -/
def execVcos (d a : Reg) (p : PReg) (x : XMode) (s : State) : Host.Outcome State Fault Refusal :=
  finish (.vcos d a p x) (sfuOp (.vcos d a p x) s (fun f m dr u _ => cosV f m dr u) d a none p x)
/-- VTANH (R283). -/
def execVtanh (d a : Reg) (p : PReg) (x : XMode) (s : State) : Host.Outcome State Fault Refusal :=
  finish (.vtanh d a p x) (sfuOp (.vtanh d a p x) s (fun f m dr u _ => tanhV f m dr u) d a none p x)
/-- VSQRT (R283). -/
def execVsqrt (d a : Reg) (p : PReg) (x : XMode) (s : State) : Host.Outcome State Fault Refusal :=
  finish (.vsqrt d a p x) (sfuOp (.vsqrt d a p x) s (fun f m dr u _ => sqrtV f m dr u) d a none p x)
/-- VDIV (R268, R283). -/
def execVdiv (d a : Reg) (b : BSrc) (p : PReg) (x : XMode) (s : State) : Host.Outcome State Fault Refusal :=
  finish (.vdiv d a b p x) (sfuOp (.vdiv d a b p x) s divV d a (some b) p x)

/-- Whether a request is in service in this cycle (R284). -/
def inService (s : State) (r : SfuReq) : Bool :=
  match r.begun with
  | some t => decide (s.cycle < t + r.cycles)
  | none => false

/-- SFU_SERVICE_START (R284): a free unit takes the oldest request that waits. -/
def sfuServiceStart (s : State) (o : Nat) : State :=
  let q := (getOct s o).sfuq
  if q.any (inService s) then s
  else
    match lfind (fun r => r.begun.isNone) q with
    | some (n, r) => setOct s o { getOct s o with sfuq := lset q n { r with begun := some s.cycle } }
    | none => s

/-- SFU_SERVICE_START (R284). -/
def execSfuServiceStart (oct : Nat) (s : State) : Host.Outcome State Fault Refusal := .next (sfuServiceStart s oct)

/-- SFU_RESULT (R284): 20 cycles after its service began, the oldest request's result, flags and stochastic steps are committed
and its context goes on. -/
def sfuResult (s : State) (o : Nat) : State :=
  let q := (getOct s o).sfuq
  match lfind (fun r => match r.begun with | some t => decide (t + 20 ≤ s.cycle) | none => false) q with
  | some (n, r) =>
    let s1 := setOct s o { getOct s o with sfuq := ldel q n }
    let s2 := { setCtx s1 r.ctx { getCtx s1 r.ctx with st := .ready } with turn := r.ctx }
    endState r.i (commit s2 r.reads 2 r.res)
  | none => s

/-- SFU_RESULT (R284). -/
def execSfuResult (oct : Nat) (s : State) : Host.Outcome State Fault Refusal := .next (sfuResult s oct)

end Sys2Proof.Machine
end

