-- ==== Sys2Proof/Machine/VecMem.lean ====
section
/-!
DEFINITION. Vector loads and stores, the constant bank, streams and neighbour queues (R150, R151, R243-R251), with the events
STREAM_READAHEAD and QUEUE_ENTRY_LAND.
-/
namespace Sys2Proof.Machine

/-! ## Vector loads and stores (R243, R244) -/

/-- Which active elements a vector access touches, with their addresses. -/
abbrev Elems := List (Nat × Word)

/-- The lowest misaligned address of an access (R244). -/
def misaligned (es : Elems) (n : Nat) : Option Word :=
  es.foldl (fun acc e =>
    if e.2.toNat % n = 0 then acc
    else match acc with
      | none => some e.2
      | some w => if e.2.toNat < w.toNat then some e.2 else some w) none

/-- The bytes of a list of elements of `n` bytes. -/
def elemAddrs (es : Elems) (n : Nat) : List Word := es.flatMap (fun e => addrs e.2 n)

/-- Element `i` of a list of bytes, `n` bytes each. -/
def nthElem (bs : List Byte) (n i : Nat) : Nat := natOfBytes ((bs.drop (n * i)).take n)

/-- A vector with the elements of an access replaced by the bytes read, in order. -/
def mergeElems (old : Vec) (w : Nat) (es : Elems) (bs : List Byte) : Vec :=
  ofElems w ((List.range (512 / w)).map (fun j =>
    match lfind (fun e => e.1 == j) es with
    | some (n, _) => nthElem bs (w / 8) n
    | none => elem old w j))

/-- The registers an access reads for its addresses, then its alignment: what stops it, or its elements. -/
def accessThen (i : Instr) (s : State) (named reads : List Reg) (d : Option Reg) (n : Nat) (es : State → Elems)
    (k : State → Elems → Eff) : Eff :=
  bankThen s named (fun s1 =>
    match stallOf i s1 reads d with
    | some e => e
    | none =>
      match heldFault s1 (reads.filter (fun r => some r != named.head?)) with
      | some (cause, va) => .fault s1 cause va
      | none =>
        let l := es (popAll s1 reads)
        match misaligned l n with
        | some va => .trap s1 trapAlign va
        | none => k s1 l)

/-- A vector load of elements of width `w` (R244): `copy` puts the one element read into every active element. -/
def vload (i : Instr) (s : State) (d : Reg) (reads : List Reg) (w : Nat) (es : State → Elems) (check : State → Elems → Option Stop) : Eff :=
  accessThen i s (d :: reads) reads (some d) (w / 8) es (fun s1 l =>
    match check s1 l with
    | some x => stopEff s1 x
    | none =>
      match heldFault s1 reads with
      | some (cause, va) => .fault s1 cause va
      | none => loadThen s1 (elemAddrs l (w / 8)) (fun s2 bs =>
        commit s2 reads 2 { v := some (d, mergeElems (vfile (cur (popAll s2 reads)) d) w l bs) }))

/-- A vector store of elements of width `w` (R244): the highest element wins. -/
def vstore (i : Instr) (s : State) (d : Reg) (more : List Reg) (w : Nat) (es : State → Elems) (check : State → Elems → Option Stop) : Eff :=
  let reads := d :: more
  accessThen i s reads reads none (w / 8) es (fun s1 l =>
    match check s1 l with
    | some x => stopEff s1 x
    | none =>
      match heldFault s1 reads with
      | some (cause, va) => .fault s1 cause va
      | none =>
        let v := vfile (cur (popAll s1 reads)) d
        storeThen s1 (l.flatMap (fun e => (addrs e.2 (w / 8)).zip (bytesOfNat (w / 8) (elem v w e.1))))
          (fun s2 => commit s2 reads 2 {}))

/-- No further check. -/
def noCheck (_ : State) (_ : Elems) : Option Stop := none

/-- The lane groups of VLD and VST (R244). -/
def groupElems (a b : Reg) (p : PReg) (s : State) : Elems :=
  (chosen (preg s p)).map (fun g => (g, sreg s a + sreg s b + BitVec.ofNat 64 (4 * g)))

/-- The elements of VLDS and VSTS (R244). -/
def stridedElems (w : Nat) (a b : Reg) (p : PReg) (s : State) : Elems :=
  ((List.range (512 / w)).filter (active (preg s p) w)).map (fun j => (j, sreg s a + BitVec.ofNat 64 j * sreg s b))

/-- The lanes of VGATH and VSCAT (R244). -/
def laneElems (a b : Reg) (p : PReg) (s : State) : Elems :=
  (chosen (preg s p)).map (fun g => (g, sreg s a + BitVec.ofNat 64 (elem (vfile (cur s) b) 32 g)))

/-- The lane addresses must lie in the scratch windows (R244): an unmapped one is a translation fault, one of the translated
range a protection fault. -/
def laneCheck (kind : AccKind) (s : State) (es : Elems) : Option Stop :=
  let a := accOf s kind
  stopOf s ((elemAddrs es 4).map (fun va =>
    (va, if 2 ^ 40 ≤ va.toNat ∧ va.toNat < 2 ^ 47 then Loc.prot else resolve s a va))) (isWrite kind)

/-- VLD (R244). -/
def execVld (d a b : Reg) (p : PReg) (s : State) : Host.Outcome State Fault Refusal :=
  finish (.vld d a b p) (vload (.vld d a b p) s d [] 32 (groupElems a b p) noCheck)
/-- VST (R244). -/
def execVst (d a b : Reg) (p : PReg) (s : State) : Host.Outcome State Fault Refusal :=
  finish (.vst d a b p) (vstore (.vst d a b p) s d [] 32 (groupElems a b p) noCheck)
/-- VLDS (R244). -/
def execVlds (d a b : Reg) (p : PReg) (s : State) : Host.Outcome State Fault Refusal :=
  finish (.vlds d a b p)
    (match vtype (cur s) with
     | none => illegal (.vlds d a b p) s .illType
     | some t => vload (.vlds d a b p) s d [] (tyWidth t) (stridedElems (tyWidth t) a b p) noCheck)
/-- VSTS (R244). -/
def execVsts (d a b : Reg) (p : PReg) (s : State) : Host.Outcome State Fault Refusal :=
  finish (.vsts d a b p)
    (match vtype (cur s) with
     | none => illegal (.vsts d a b p) s .illType
     | some t => vstore (.vsts d a b p) s d [] (tyWidth t) (stridedElems (tyWidth t) a b p) noCheck)
/-- VGATH (R244). -/
def execVgath (d a b : Reg) (p : PReg) (s : State) : Host.Outcome State Fault Refusal :=
  finish (.vgath d a b p) (vload (.vgath d a b p) s d [b] 32 (laneElems a b p) (laneCheck .load))
/-- VSCAT (R244). -/
def execVscat (d a b : Reg) (p : PReg) (s : State) : Host.Outcome State Fault Refusal :=
  finish (.vscat d a b p) (vstore (.vscat d a b p) s d [b] 32 (laneElems a b p) (laneCheck .store))

/-- VLDBC (R244): one element read, and copied into every active element; with none active nothing is read. -/
def execVldbc (d a b : Reg) (p : PReg) (s : State) : Host.Outcome State Fault Refusal :=
  let i : Instr := .vldbc d a b p
  finish i
    (match vtype (cur s) with
     | none => illegal i s .illType
     | some t =>
       let w := tyWidth t
       accessThen i s [d] [] (some d) (w / 8)
         (fun st => if preg st p = 0 then [] else [(0, sreg st a + sreg st b)]) (fun s1 l =>
           loadThen s1 (elemAddrs l (w / 8)) (fun s2 bs =>
             commit s2 [] 2 { v := some (d, ofElems w ((List.range (512 / w)).map (fun j =>
               if active (preg s2 p) w j then natOfBytes bs else elem (vfile (cur s2) d) w j))) })))

/-- The constant bank with words written from entry `d` on (R245); their dirty bits are set (R437). -/
def putBank (c : Ctx) (d : Nat) (bs : List Byte) (n : Nat) : Ctx :=
  { c with
    k := Vector.ofFn (fun i : Fin 32 => if d ≤ i.val ∧ i.val < d + n then BitVec.ofNat 32 (nthElem bs 4 (i.val - d)) else c.k[i])
    kd := c.kd ||| BitVec.ofNat 32 ((2 ^ n - 1) * 2 ^ d) }

/-- VLDK (R245). -/
def execVldk (d a : Reg) (n : BitVec 5) (s : State) : Host.Outcome State Fault Refusal :=
  let i : Instr := .vldk d a n
  let cnt := n.toNat + 1
  finish i
    (if 32 < d.toNat + cnt then illegal i s .reserved
     else alignedThen s (sreg s a) 4
       (loadThen s (addrs (sreg s a) (4 * cnt)) (fun s1 bs => .ok (setCur s1 (putBank (cur s1) d.toNat bs cnt)))))

/-! ## Streams (R246-R248) -/

/-- A context with every binding of a register ended (R248). -/
def unbindReg (c : Ctx) (r : Reg) : Ctx :=
  { c with
    gens := c.gens.map (fun g => match g with | some x => if x.reg = r then none else some x | none => none)
    qb := c.qb.filter (fun q => q.1 != r) }

/-- A context with every binding ended (R248, R257). -/
def unbindAll (c : Ctx) : Ctx := { c with gens := Vector.replicate 4 none, qb := [] }

/-- STRM (R246): a write-bound register reads zero before its first group. -/
def execStrm (d a b : Reg) (wr : Bool) (g : BitVec 2) (s : State) : Host.Outcome State Fault Refusal :=
  let i : Instr := .strm d a b wr g
  let stride : BitVec 32 := (sreg s b).setWidth 32
  let count := bits (sreg s b) 32 32
  finish i
    (bankThen s [d] (fun s1 =>
      if (sreg s a).toNat % 4 ≠ 0 ∨ stride.toNat % 4 ≠ 0 then .trap s1 trapAlign (sreg s a)
      else
        let c := unbindReg (cur s1) d
        let gens := c.gens.toList.set g.toNat none
        let x : Stream := { reg := d, wr := wr, next := sreg s a, stride := stride.signExtend 64, left := count, ahead := [] }
        let gens1 := if count = 0 then gens else gens.set g.toNat (some x)
        let c1 := { c with gens := Vector.ofFn (fun j : Fin 4 => gens1.getD j none) }
        .ok (setCur s1 (if wr ∧ count ≠ 0 then vput c1 d 0 else c1))))

/-- UNBND (R248). -/
def execUnbnd (d : Reg) (s : State) : Host.Outcome State Fault Refusal :=
  finish (.unbnd d) (bankThen s [d] (fun s1 => .ok (setCur s1 (unbindReg (cur s1) d))))

/-- STREAM_READAHEAD (R150, R247): a generator reads its next group, at most four ahead of the pops; a fault is held with the group. The
pop reads the bytes (R403). -/
def streamReadahead (s : State) (x : Nat) (g : BitVec 2) : State :=
  let c := getCtx s x
  match c.gens[g.toFin] with
  | none => s
  | some st =>
    if st.wr ∨ 4 ≤ st.ahead.length ∨ st.left ≤ st.ahead.length ∨ c.st = .free then s
    else
      let a : Acc := { core := coreOf x, priv := c.sm, kind := .load }
      let vas := addrs st.next 64
      let r := readBytes s a [] vas
      let s0 := match r with | .stop (.ecc key _) => noteDouble s key | _ => s
      let h := match r with
        | .stop (.fault cause va) => Ahead.fault cause va
        | .stop (.ecc key va) => Ahead.fault (eccOf key) va
        | .stop (.token va) => Ahead.fault faultProt va
        | _ => Ahead.came
      let st1 : Stream := { st with ahead := st.ahead ++ [h], next := st.next + st.stride }
      noteAccess (setCtx s0 x { c with gens := c.gens.set g.toFin (some st1) }) a vas false

/-- STREAM_READAHEAD (R150). -/
def execStreamReadahead (x : Nat) (g : BitVec 2) (s : State) : Host.Outcome State Fault Refusal :=
  .next (streamReadahead s x g)

/-! ## Neighbour queues (R249-R251) -/

/-- The other contexts of a core. -/
def otherCtxs (x : Nat) : List Nat := ((List.range Config.contexts).map (ctxNo (coreOf x))).filter (fun y => y != x)

/-- Another context of the core holds the queue end, or came to wait for it earlier (R249). -/
def endTaken (s : State) (e : QEnd) : Bool :=
  (otherCtxs s.turn).any (fun y =>
    let c := getCtx s y
    (c.st != .free && c.qb.any (fun q => q.2 == e))
      || (c.wait == some (.qbind e) && ((cur s).wait != some (.qbind e) || decide (c.waitSeq < (cur s).waitSeq))))

/-- QBIND (R249): it first ends any binding of its register, also where it then waits for the end. -/
def execQbind (d : Reg) (e : QEnd) (s : State) : Host.Outcome State Fault Refusal :=
  finish (.qbind d e)
    (bankThen s [d] (fun s1 =>
      if launchOf s1 (queueAt (curCore s1) e).1 ≠ launchOf s1 (curCore s1) then .fault s1 faultProt 0
      else if endTaken s1 e then .wait (setCur s1 (unbindReg (cur s1) d)) (.qbind e)
      else
        let c := unbindReg (cur s1) d
        .ok (setCur s1 { c with qb := c.qb.filter (fun q => q.2 != e) ++ [(d, e)] })))

/-- QMARK (R250): a marker entry appended, landing 2 cycles after issue (R151). -/
def execQmark (d a : Reg) (s : State) : Host.Outcome State Fault Refusal :=
  let i : Instr := .qmark d a
  finish i
    (match endOf (cur s) d with
     | some e =>
       if isDeq e then illegal i s .reserved
       else bankThen s [d] (fun s1 =>
         let q := queueAt (curCore s1) e
         if 8 ≤ (queueOf s1 q).length then .wait s1 (.qFull q.1 q.2)
         else .ok (setQueue s1 q (queueOf s1 q ++
           [{ data := 0, marker := some ((sreg s1 a).setWidth 31), landed := false, ready := s1.cycle + 2 }])))
     | none => illegal i s .reserved)

/-- The landed entries of a queue, and whether a marker heads it. -/
def landedOf (l : List QEntry) : Nat := l.countP (·.landed)
def markerHead (l : List QEntry) : Bool :=
  match l with
  | x :: _ => x.landed && x.marker.isSome
  | [] => false

/-- QSTAT (R251). -/
def execQstat (d : Reg) (s : State) : Host.Outcome State Fault Refusal :=
  let k := curCore s
  let own := getCore s k
  finish (.qstat d)
    (.ok (setSreg s d (BitVec.ofNat 64
      (b2n (markerHead own.qh) * 2 ^ 17 + b2n (markerHead own.ql) * 2 ^ 16
        + (8 - (queueOf s (queueAt k .eh)).length) * 2 ^ 12 + (8 - (queueOf s (queueAt k .el)).length) * 2 ^ 8
        + landedOf own.qh * 2 ^ 4 + landedOf own.ql))))

/-- QUEUE_ENTRY_LAND (R151): the oldest entry that has not landed lands once its result is ready. -/
def queueEntryLand (s : State) (k : Nat) (high : Bool) : State :=
  match lfind (fun e => !e.landed) (queueOf s (k, high)) with
  | some (n, e) => if e.owed = none ∧ e.ready ≤ s.cycle then setQueue s (k, high) (lset (queueOf s (k, high)) n { e with landed := true }) else s
  | none => s

/-- QUEUE_ENTRY_LAND (R151). -/
def execQueueEntryLand (core : Nat) (high : Bool) (s : State) : Host.Outcome State Fault Refusal :=
  .next (queueEntryLand s core high)

end Sys2Proof.Machine
end

