-- ==== Sys2Proof/Machine/Msgs.lean ====
section
/-!
DEFINITION. Active messages, helpers and hardware barriers (R136, R137, R141, R143, R252-R260): SEND, SENDK, START, BAR, BARW
and the events ACTIVE_MESSAGE_ARRIVAL and DEFERRED_TRAP_ENTRY.
-/
namespace Sys2Proof.Machine

/-! ## Launch record fields (R380) -/

/-- The stack bytes of a context, HSTK. -/
def stackBytes (l : Launch) : Nat := (bits (recWord l 0) 20 4 + 1) * 1024
/-- CMAX. -/
def recCmax (l : Launch) : BitVec 2 := BitVec.ofNat 2 (bits (recWord l 0) 16 2)
/-- CPRI. -/
def recCpri (l : Launch) : BitVec 2 := BitVec.ofNat 2 (bits (recWord l 0) 12 2)
/-- DOM of level `i`. -/
def recDom (l : Launch) (i : Nat) : Nat := bits (recWord l (8 + i)) 32 3
/-- COUNT of level `i`. -/
def recCount (l : Launch) (i : Nat) : Nat := bits (recWord l (8 + i)) 0 32
/-- SCOPE of level `i`. -/
def recScope (l : Launch) (i : Nat) : Nat := bits (recWord l (8 + i)) 36 3

/-! ## Handler tables (R384) -/

/-- A handler-table entry is valid. -/
def handValid (w : Word) : Bool := decide (bits w 63 1 = 1)
/-- PRI, LIM and ADDR of an entry. -/
def handPri (w : Word) : BitVec 2 := BitVec.ofNat 2 (bits w 58 2)
def handLim (w : Word) : Nat := bits w 54 4
def handAddr (w : Word) : Word := BitVec.ofNat 64 (bits w 0 48)
/-- The entry of a class. -/
def handOf (s : State) (k cls : Nat) : Word := (getCore s k).hand.toList.getD cls 0

/-! ## Starting a helper (R143, R178, R254) -/

/-- The lowest-numbered FREE helper of a core. -/
def freeHelper (s : State) (k : Nat) : Option Nat :=
  ((List.range 11).filter (fun i => decide (1 ≤ i))).find? (fun i => decide ((getCtx s (ctxNo k i)).st = .free))

/-- The registers of a helper at its start: s1-s5 and s30 given, the others zero (R143). -/
def startRegs (args : List Word) (s30 : Word) : Vector Word 32 :=
  Vector.ofFn (fun r : Fin 32 =>
    if r.val = 30 then s30 else if 1 ≤ r.val ∧ r.val ≤ 5 then args.getD (r.val - 1) 0 else 0)

/-- The initial stack pointer of a context (R383). -/
def stackTop (s : State) (k i : Nat) : Word :=
  BitVec.ofNat 64 (0x40000 - (getCore s k).sp) - BitVec.ofNat 64 (i * stackBytes (launchRec s k))

/-- A helper at its start (R143): tvec, mvec and the coordinates from the control context. DEDUCED (log 25). -/
def helperCtx (s : State) (k i : Nat) (pc : Word) (prio : BitVec 2) (args : List Word) (cls : Option Nat) (o : Origin) : Ctx :=
  let l := launchRec s k
  let c0 := getCtx s (ctxNo k 0)
  { st := .ready, pc := pc, s := startRegs args (stackTop s k i), tvec := c0.tvec, mvec := c0.mvec,
    prioMax := recCmax l, prio := prio, sd := BitVec.allOnes 32, vd := BitVec.allOnes 32, pd := BitVec.allOnes 8, kd := BitVec.allOnes 32,
    wid := if recDom l 0 = 0 then c0.wid.set 0 (BitVec.ofNat 64 i) else c0.wid,
    rng := rngSeed (recWord l 4) (getCore s k).lcore i, cls := cls, origin := o, start := s.uid }

/-- The state with a helper started. -/
def startHelper (s : State) (k i : Nat) (pc : Word) (prio : BitVec 2) (args : List Word) (cls : Option Nat) (o : Origin) : State :=
  setCtx { s with uid := s.uid + 1 } (ctxNo k i) (helperCtx s k i pc prio args cls o)

/-- The smaller of two priorities. -/
def minPrio (a b : BitVec 2) : BitVec 2 := if a.toNat ≤ b.toNat then a else b

/-! ## Delivery (R254, R255) -/

/-- Live helpers of a class (R254). -/
def liveOf (s : State) (k cls : Nat) : Nat :=
  (List.range 11).countP (fun i => decide (1 ≤ i) && decide ((getCtx s (ctxNo k i)).st ≠ .free)
    && (getCtx s (ctxNo k i)).cls == some cls)

/-- No message may start a helper now: the core is halted (R444), or its launch stops, is saved or has faulted (R429, R436). -/
def holdsStarts (s : State) (k : Nat) : Bool := (getCore s k).halted || !launchRuns s k

/-- A message of a class may start a helper: one is FREE and the class is below its limit (R254). -/
def mayStart (s : State) (k cls : Nat) : Bool :=
  !holdsStarts s k && (freeHelper s k).isSome && decide (liveOf s k cls < handLim (handOf s k cls))

/-- The helper that a message starts (R254). -/
def startMsg (s : State) (k : Nat) (m : Msg) : State :=
  match freeHelper s k with
  | some i =>
    let h := handOf s k m.cls
    startHelper s k i (handAddr h) (minPrio (handPri h) (recCmax (launchRec s k))) [m.a0, m.a1, m.a2, m.a3, m.src]
      (some m.cls) m.origin
  | none => s

/-- The cells of a place of the spill area (R136, R137). -/
def spillCells (s : State) (k slot : Nat) : List Nat :=
  (List.range 64).map (fun i => sliceKey k (0x40000 - (getCore s k).sp + 64 * slot + i))

/-- Entries the spill area can hold (R137). -/
def spillCap (s : State) (k : Nat) : Nat := (getCore s k).sp / 64

/-- A message put into the spill area (R137): into the next free entry after the last one filled, from the lowest offset on, which the
spec does not say (DESIGN CHOICE, log 22); the bytes of its place have no stated layout. DEDUCED (log 22). -/
def spillPut (s : State) (k : Nat) (compl : Bool) (m : Msg) : State :=
  let c := getCore s k
  let cap := spillCap s k
  let slot := ((List.range cap).map (fun j => (c.spillAt + j) % cap)).find? (fun j => !c.spill.any (fun e => e.slot == j))
  let n := slot.getD 0
  let s1 := putCells { s with nonce := s.nonce + 1 }
    ((spillCells s k n).zip ((List.range 64).map (fun i => Config.freeByte s.nonce i)))
  setCore s1 k { getCore s1 k with
    spill := c.spill ++ [{ compl := compl, msg := { m with spilled := !compl }, slot := n, tag := s.nonce }]
    spillAt := (n + 1) % cap }

/-- A message enters the spill area, or is refused and held at the ingress (R255). -/
def spillIn (s : State) (k : Nat) (compl : Bool) (m : Msg) : State :=
  let c := getCore s k
  if c.spill.length < spillCap s k ∧ c.refused.any (fun r => r.cls == m.cls) = false then spillPut s k compl m
  else setCore s k { c with refused := c.refused ++ [m] }

/-- Word `i` of free bytes. -/
def freeWord (n i : Nat) : Word :=
  BitVec.ofNat 64 (natOfBytes ((List.range 8).map (fun j => Config.freeByte n (64 + 8 * i + j))))

/-- A message as 64 bytes (R252). -/
def msgVec (m : Msg) : Vec :=
  let w0 := m.cls + b2n m.rel * 256 + b2n m.spilled * 512
  BitVec.ofNat 512 (w0 + m.src.toNat * 2 ^ 64 + m.a0.toNat * 2 ^ 128 + m.a1.toNat * 2 ^ 192 + m.a2.toNat * 2 ^ 256
    + m.a3.toNat * 2 ^ 320)

/-- The message of 64 bytes (R252). -/
def msgOfVec (v : Vec) (job : Nat) (o : Origin) : Msg :=
  { cls := elem v 8 0, rel := v.getLsbD 8, spilled := v.getLsbD 9, src := BitVec.ofNat 64 (elem v 64 1), a0 := BitVec.ofNat 64 (elem v 64 2),
    a1 := BitVec.ofNat 64 (elem v 64 3), a2 := BitVec.ofNat 64 (elem v 64 4), a3 := BitVec.ofNat 64 (elem v 64 5), job := job, origin := o }

/-- The bytes of an entry's place. -/
def spillBytes (s : State) (k : Nat) (e : SpillEnt) : List Byte := (spillCells s k e.slot).map (mget s.mem)

/-- No store has changed the bytes of an entry's place. -/
def spillWhole (s : State) (k : Nat) (e : SpillEnt) : Bool :=
  spillBytes s k e == (List.range 64).map (fun i => Config.freeByte e.tag i)

/-- An entry as it is delivered, in 64 bytes and as a message (R137): bytes that a store has changed are delivered as they stand.
DEDUCED (log 22). -/
def spillVec (s : State) (k : Nat) (e : SpillEnt) : Vec :=
  if spillWhole s k e then msgVec e.msg else Config.spilledAs (spillBytes s k e)
def spillMsg (s : State) (k : Nat) (e : SpillEnt) : Msg :=
  if spillWhole s k e then e.msg else msgOfVec (Config.spilledAs (spillBytes s k e)) e.msg.job e.msg.origin

/-- The spill area without one of its entries. -/
def spillDel (s : State) (k n : Nat) : State :=
  setCore s k { getCore s k with spill := ldel (getCore s k).spill n }

/-- The control context waits in START, which takes a FREE helper before any spilled message (R256). -/
def startWaits (s : State) (k : Nat) : Bool :=
  decide ((getCtx s (ctxNo k 0)).st = .blocked ∧ (getCtx s (ctxNo k 0)).wait = some .start)

/-- A spilled message can leave now: it may start, or its class, which a store has changed, has no valid entry (R137, R254). -/
def mayLeave (s : State) (k : Nat) (e : SpillEnt) : Bool :=
  let c := (spillMsg s k e).cls
  !e.compl && (mayStart s k c || (!spillWhole s k e && !holdsStarts s k && !handValid (handOf s k c)))

/-- One move of R255: the oldest spilled message that may start starts; else a refused message enters a free entry. -/
def settleOne (s : State) (k : Nat) : Option State :=
  let c := getCore s k
  match lfind (mayLeave s k) (if startWaits s k then [] else c.spill) with
  | some (n, e) =>
    let m := spillMsg s k e
    some (if mayStart s k m.cls then startMsg (spillDel s k n) k m else countUp (spillDel s k n) 0x042008 1)
  | none =>
    match c.refused with
    | [] => none
    | m :: rest =>
      if c.spill.length < spillCap s k then
        some (spillPut (setCore s k { c with refused := rest }) k
          (decide (m.cls = 16) && !handValid (handOf s k 16)) m)
      else none

/-- Spilled and refused messages moved as far as they go (R255). -/
def settleLoop (fuel : Nat) (s : State) (k : Nat) : State :=
  match fuel with
  | 0 => s
  | fuel + 1 =>
    match settleOne s k with
    | some s1 => settleLoop fuel s1 k
    | none => s

/-- R255, after a helper or an entry became free. -/
def settleSpill (s : State) (k : Nat) : State :=
  settleLoop ((getCore s k).spill.length + 2 * (getCore s k).refused.length + 12) s k

/-- The oldest held deferred trap of a context taken (R172, R426): held while T = 1 or while a firm wait lasts; a double trap
when its target is zero (R427). A START whose wait is abandoned lets spilled messages start (R255). -/
def takeDeferred (s : State) (x : Nat) : State :=
  let c := getCtx s x
  match c.held with
  | [] => s
  | d :: rest =>
    if c.t = true ∨ c.st = .free ∨ c.st = .halted then s
    else if c.st = .blocked ∧ (c.wait.map firmWait).getD false then s
    else
      let s1 := abandon s x
      let s2 := if c.wait = some .start then settleSpill s1 (coreOf x) else s1
      let s3 := setCtx s2 x { getCtx s2 x with held := rest }
      takeTrap s3 x (getCtx s3 x).pc d.cause d.tval

/-- DEFERRED_TRAP_ENTRY (R172). -/
def execDeferredTrapEntry (x : Nat) (s : State) : Host.Outcome State Fault Refusal := .next (takeDeferred s x)

/-- A message is discarded at its core (R254): no launch there, one of another job, or an invalid entry. -/
def discards (s : State) (k : Nat) (m : Msg) : Bool :=
  match launchOf s k with
  | none => true
  | some l => decide ((getLaunch s l).job ≠ m.job) || (!handValid (handOf s k m.cls) && decide (m.cls ≠ 16))

/-- A message at its core (R254): discarded, queued as a completion, started, or spilled. -/
def deliver (s : State) (k : Nat) (m : Msg) : State :=
  if discards s k m then countUp s 0x042008 1
  else if handValid (handOf s k m.cls) = false then spillIn s k true m
  else if mayStart s k m.cls && !(getCore s k).spill.any (fun e => !e.compl && e.msg.cls == m.cls)
      && !(getCore s k).refused.any (fun r => r.cls == m.cls) then startMsg s k m
  else spillIn s k false m

/-! ## Sending (R252, R253) -/

/-- The source id of a context (R252). -/
def srcId (s : State) (x : Nat) : Word :=
  BitVec.ofNat 64 (idxOf x * 2 ^ 32 + myNode s * 2 ^ 15 + coreId (coreOf x) * 4)

/-- The node of a destination id (R252). -/
def idNode (w : Word) : Nat := bits w 15 12
/-- The core of a destination id; `none` for one that does not exist. -/
def idCore (w : Word) : Option Nat := coreOfId (bits w 2 13)
/-- The destination of a message: the core, or for class 19 the first core of the die. -/
def sendTarget (cls : Nat) (w : Word) : Option Nat :=
  if cls = 19 then (if bits w 8 5 < 24 then some (bits w 13 2 * 1152) else none) else idCore w

/-- Messages of a class to a place are held back now (R53, R255, R385): by a refused message of the class there, by a full stage
queue, or by as many unacknowledged MC0 packets to the node as the network takes. DESIGN CHOICE (log 27). -/
def backPressed (s : State) (node k cls : Nat) : Bool :=
  if node = myNode s then
    if cls = 19 then decide (256 ≤ (getDie s (k / 1152)).pend.length) && !(getDie s (k / 1152)).inbox.isEmpty
    else (getCore s k).refused.any (fun r => r.cls == cls)
  else decide (Config.window < s.sent.countP (fun p => p.pkt.dst == node && p.pkt.cls == 0))

/-- The packet of an active message (R253). -/
def msgPacket (s : State) (node k cls : Nat) (m : Msg) : Packet :=
  { mkPacket s 0 node k (.msg m) with stage := decide (cls = 19), clus := if cls = 19 then 0 else k / 48 % 24, core := if cls = 19 then 0 else k % 48 }

/-- SEND and SENDK (R253): the checks in order, the release, back-pressure, and the message. DEDUCED (log 19). -/
def sendDo (i : Instr) (s : State) (d a : Reg) (named : List Reg) (rel nb : Bool) (cls : Nat) (args : State → List Word) : Eff :=
  bankThen s named (fun s1 =>
    match stallOf i s1 named none with
    | some e => e
    | none =>
      let w := sreg s1 a
      match sendTarget cls w, jobNode s1 (idNode w) with
      | some k, true =>
        let go : Eff :=
          if backPressed s1 (idNode w) k cls then
            (if nb then .ok (setSreg s1 d 1) else .wait s1 (.send (idNode w * 2 ^ 16 + k) cls))
          else
            match heldFault s1 named with
            | some (cause, va) => .fault s1 cause va
            | none =>
              let l := args (popAll s1 named)
              let m : Msg := { cls := cls, rel := rel, spilled := false, src := srcId s1 s1.turn, a0 := l.getD 0 0, a1 := l.getD 1 0,
                               a2 := l.getD 2 0, a3 := l.getD 3 0, job := (launchRec s1 (curCore s1)).job }
              commit (sendBy s1 (launchOf s1 (curCore s1)) s1.turn (msgPacket s1 (idNode w) k cls m)) named 2 { s := some (d, 0) }
        if rel then afterStores s1 .job go else go
      | _, _ => .ok (setSreg s1 d 2))

/-- A class that SEND may carry (R253). -/
def sendable (c : BitVec 5) : Bool := decide (c.toNat < 16 ∨ c.toNat = 19)

/-- SEND (R253): arguments from v[b]. -/
def execSend (d a b : Reg) (r nb : Bool) (c : BitVec 5) (s : State) : Host.Outcome State Fault Refusal :=
  let i : Instr := .send d a b r nb c
  finish i
    (if sendable c = false then illegal i s .reserved
     else sendDo i s d a [b] r nb c.toNat (fun st => (List.range 4).map (fun j => BitVec.ofNat 64 (elem (vfile (cur st) b) 64 j))))

/-- SENDK (R253): arguments from k[b] to k[b+7]. -/
def execSendk (d a b : Reg) (r nb : Bool) (c : BitVec 5) (s : State) : Host.Outcome State Fault Refusal :=
  let i : Instr := .sendk d a b r nb c
  finish i
    (if sendable c = false ∨ 24 < b.toNat then illegal i s .reserved
     else sendDo i s d a [] r nb c.toNat (fun st => (List.range 4).map (fun j =>
       BitVec.ofNat 64 ((kread (cur st) (b + BitVec.ofNat 5 (2 * j))).toNat
         + 2 ^ 32 * (kread (cur st) (b + BitVec.ofNat 5 (2 * j + 1))).toNat))))

/-- The helper that START starts (R143, R256): on a halted core it halts at its first instruction (R443, R444). DEDUCED (log 75). -/
def startedHelper (s : State) (k h : Nat) (pc : Word) (args : List Word) : State :=
  let s1 := startHelper s k h pc (cur s).prio args none .plain
  if (getCore s k).halted then setCtx s1 (ctxNo k h) { getCtx s1 (ctxNo k h) with st := .halted } else s1

/-- START (R256): it waits for a FREE helper and, as a release, for the acknowledgements of its context's peer stores; spilled messages
that waited behind it start after it (R255). DEDUCED (log 19). -/
def execStart (d a b : Reg) (nb : Bool) (s : State) : Host.Outcome State Fault Refusal :=
  let i : Instr := .start d a b nb
  finish i
    (if idxOf s.turn ≠ 0 then illegal i s .reserved
     else bankThen s [b] (fun s1 =>
       match stallOf i s1 [b] none with
       | some e => e
       | none =>
         if (sreg s1 a).toNat % 4 ≠ 0 then .trap s1 trapAlign (sreg s1 a)
         else
           match freeHelper s1 (curCore s1) with
           | none => if nb then .ok (setSreg s1 d 0) else .wait s1 .start
           | some h =>
             match heldFault s1 [b] with
             | some (cause, va) => .fault s1 cause va
             | none =>
               if (cur s1).acks ≠ [] then .wait s1 .start
               else
                 let v := vfile (cur (popAll s1 [b])) b
                 let args := (List.range 4).map (fun j => BitVec.ofNat 64 (elem v 64 j)) ++ [srcId s1 s1.turn]
                 let s2 := startedHelper s1 (curCore s1) h (sreg s1 a) args
                 commit (settleSpill (setCur s2 { cur s2 with st := .ready, wait := none }) (curCore s2)) [b] 2
                   { s := some (d, BitVec.ofNat 64 h) }))

/-! ## Barriers (R258-R260) -/

/-- The unit of a scope that contains a core (R258). -/
def unitOf (k : Nat) : Scope → Nat
  | .ctx => 0 | .core => k | .oct => octOf k | .clus => clusOf k | .die => dieOf k | .mod => 0 | .job => 0

/-- The barrier of a launch, scope, unit and id; all start with G = 0. -/
def getBarrier (s : State) (l : Nat) (sc : Scope) (unit id : Nat) : Barrier :=
  (s.bars.find? (fun b => b.launch == l && b.scope == sc && b.unit == unit && b.id == id)).getD
    { launch := l, scope := sc, unit := unit, id := id }

/-- The state with a barrier replaced. -/
def setBarrier (s : State) (b : Barrier) : State :=
  { s with bars := b :: s.bars.filter (fun c => !(c.launch == b.launch && c.scope == b.scope && c.unit == b.unit && c.id == b.id)) }

/-- An arrival with count `n` (R259). DEDUCED (log 66). -/
def arriveAt (b : Barrier) (n : Nat) : Barrier :=
  let need := b.need.getD n
  if b.came + 1 = need then { b with gen := b.gen + 1, need := none, came := 0 }
  else { b with need := some need, came := b.came + 1 }

/-- The new generation of a job-scope barrier told to the other modules of its launch (R260). DEDUCED (log 31). -/
def tellGen (s : State) (l : Nat) (b : Barrier) : State :=
  ((getLaunch s l).nodes.filter (fun n => n != myNode s)).foldl
    (fun st n => sendPacket st (some l) (mkPacket st 0 n 0 (.barGen l b.id b.gen.toNat))) s

/-- An arrival with a count, or a reading where the count is 0, at the barrier that counts it (R259): the state and what BAR writes. A
new generation of a job-scope barrier of several modules is told to them. -/
def barAt (s : State) (l : Nat) (sc : Scope) (unit id n : Nat) : State × BitVec 32 :=
  let b := getBarrier s l sc unit id
  if n = 0 then (s, b.gen)
  else
    let b1 := arriveAt b n
    let s1 := setBarrier s b1
    (if sc = .job ∧ 1 < (getLaunch s l).nodes.length ∧ b1.gen ≠ b.gen then tellGen s1 l b1 else s1, b.gen + 1)

/-- A barrier that the root of its launch counts, at another module (R260). -/
def barElsewhere (s : State) (l : Nat) (sc : Scope) : Bool :=
  decide (sc = .job ∧ 1 < (getLaunch s l).nodes.length ∧ (getLaunch s l).root ≠ myNode s)

/-- A generation as a register holds it. -/
def genWord (g : BitVec 32) : Word := g.setWidth 64

/-- BAR (R258, R259): it waits for no arrival. A job-scope barrier of several modules is counted at the root, which answers with what
BAR writes. DEDUCED (log 31). -/
def execBar (d a b : Reg) (sc : Scope) (s : State) : Host.Outcome State Fault Refusal :=
  let i : Instr := .bar d a b sc
  let k := curCore s
  finish i
    (if sc = .ctx then illegal i s .reserved
     else
       match launchOf s k with
       | none => .ok s
       | some l =>
         let id := bits (sreg s a) 0 4
         let n := bits (sreg s b) 0 16
         let go : Eff :=
           if barElsewhere s l sc then
             .wait (sendBy s (some l) s.turn (mkPacket s 0 (getLaunch s l).root 0 (.barArrive l id n s.turn (cur s).start))) (.gen d)
           else
             let r := barAt s l sc (unitOf k sc) id n
             .ok (setSreg r.1 d (genWord r.2))
         if n = 0 then go else afterStores s sc go)

/-- The generation of a barrier has reached a target (R260). -/
def genReached (g : BitVec 32) (target : Word) : Bool := decide ((g - target.setWidth 32).toNat < 2 ^ 31)

/-- BARW (R260). -/
def execBarw (d a b : Reg) (sc : Scope) (s : State) : Host.Outcome State Fault Refusal :=
  let i : Instr := .barw d a b sc
  let k := curCore s
  finish i
    (if sc = .ctx then illegal i s .reserved
     else
       match launchOf s k with
       | none => .ok s
       | some l =>
         let id := bits (sreg s a) 0 4
         let g := (getBarrier s l sc (unitOf k sc) id).gen
         if genReached g (sreg s b) then .ok (setSreg s d (genWord g)) else .wait s (.barw sc id (sreg s b)))

/-! ## Arrival (R254, R385) -/

/-- A packet that ACTIVE_MESSAGE_ARRIVAL takes: an active message, or a job-scope barrier's arrival or generation. -/
def isMsg (p : Packet) : Bool :=
  match p.body with
  | .msg _ => true | .barArrive _ _ _ _ _ => true | .barAns _ _ _ _ _ _ => true | .barGen _ _ _ => true | _ => false

/-- A message for a launch stage (R385, R464): outside READY it is discarded and counted. -/
def stageMsg (s : State) (d : Nat) (m : Msg) : State :=
  if bootState s ≠ 4 then countUp s 0x042040 1 else setDie s d { getDie s d with inbox := (getDie s d).inbox ++ [m] }

/-- MC0 packets in one order (R61, R255): of another module, all; of this one, the active messages of one context. -/
def msgOrder (s : State) (r q : Packet) : Bool :=
  decide (q.src ≠ myNode s) ||
    (match r.body, q.body with
     | .msg m, .msg n => m.src == n.src
     | _, _ => false)

/-- The answer of the root to a BAR (R259, R260): it completes, and the generation is known here. -/
def barAnswer (s : State) (l id x start word gen : Nat) : State :=
  let s1 := if kmem s.launches l then setBarrier s { getBarrier s l .job 0 id with gen := BitVec.ofNat 32 gen } else s
  let c := getCtx s1 x
  match c.wait with
  | some (.gen d) => if c.start = start ∧ c.st ≠ .free then completeWait s1 x d (BitVec.ofNat 64 word) 4 else s1
  | _ => s1

/-- ACTIVE_MESSAGE_ARRIVAL (R254, R260, R385): the `n`-th waiting one whose turn it is. -/
def messageArrival (s : State) (n : Nat) : State :=
  match takeOrdered s (msgOrder s) isMsg n with
  | none => s
  | some (p, s1) =>
    match p.body with
    | .msg m => if p.stage then stageMsg s1 p.die m else deliver s1 (p.die * 1152 + p.clus * 48 + p.core) m
    | .barArrive l id c x start =>
      if kmem s1.launches l then
        let r := barAt s1 l .job 0 id c
        sendPacket r.1 (some l) (mkPacket r.1 0 p.src 0 (.barAns l id x start r.2.toNat (getBarrier r.1 l .job 0 id).gen.toNat))
      else s1
    | .barAns l id x start w g => barAnswer s1 l id x start w g
    | .barGen l id g => if kmem s1.launches l then setBarrier s1 { getBarrier s1 l .job 0 id with gen := BitVec.ofNat 32 g } else s1
    | _ => s1

/-- ACTIVE_MESSAGE_ARRIVAL (R254). -/
def execActiveMessageArrival (n : Nat) (s : State) : Host.Outcome State Fault Refusal := .next (messageArrival s n)

end Sys2Proof.Machine
end

