-- ==== Sys2Proof/Machine/Pitch.lean ====
section
/-!
DEFINITION. Pitches, pegs and bookings (R110-R118, R138): LZDEF, LZRES, LZWAIT, LZREL and the events BOOKING_REQUEST,
BOOKING_ANSWER, PEG_ARRIVAL, BOOKING_LOST and PITCH_SAVE_TIMEOUT.
-/
namespace Sys2Proof.Machine

/-- A status word of a booking id whose other fields are zero (R111). -/
def bookStatus (n : Nat) : Word := BitVec.ofNat 64 (n * 2 ^ 60)

/-- Bytes of a peg (R112). -/
def pegBytes (p : Pitch) : Nat := 2 ^ (p.sz + 6)

/-- The name of a pitch (R111). -/
def pitchName (s : State) (k p : Nat) : Word := BitVec.ofNat 64 (myNode s * 2 ^ 15 + coreId k * 4 + p)

/-- A pitch of a core. -/
def getPitch (s : State) (k p : Nat) : Pitch := (getCore s k).pitch.toList.getD p {}
/-- The state with a pitch replaced. -/
def setPitch (s : State) (k p : Nat) (x : Pitch) : State :=
  setCore s k { getCore s k with pitch := Vector.ofFn (fun i : Fin 4 => if i.val = p then x else (getCore s k).pitch[i]) }

/-- The first peg, the peg count, the serial and the size code of a booking id (R111). -/
def bookFirst (w : Word) : Nat := bits w 27 8
def bookCount (w : Word) : Nat := bits w 35 8 + 1
def bookSerial (w : Word) : Nat := bits w 47 12
def bookSize (w : Word) : Nat := bits w 43 4

/-- The booking id that the owner gave (R111). -/
def ownId (s : State) (k p : Nat) (b : OwnBook) : Word :=
  BitVec.ofNat 64 (b.serial * 2 ^ 47 + (getPitch s k p).sz * 2 ^ 43 + (b.count - 1) * 2 ^ 35 + b.first * 2 ^ 27) ||| pitchName s k p

/-! ## LZDEF (R112) -/

/-- The pitch that LZDEF's parameters describe. -/
def pitchFrom (old : Pitch) (base : Nat) (w : Word) : Pitch :=
  { base := base, npeg := bits w 0 8, sz := bits w 8 4, tgt := bits w 12 8, bind := bits w 20 2, cls := bits w 22 4,
    depe := bits w 26 10, gen := old.gen, state := 1, back := 0, arrived := 0, last := old.last, serial := old.serial,
    pegs := List.replicate (bits w 0 8 + 1) .free, books := [], gone := [], since := 0 }

/-- The end of a pitch's range (R138). -/
def pitchEnd (p : Pitch) : Nat := p.base + (p.npeg + 1) * pegBytes p

/-- The lowest failure code of LZDEF (R112); 0 for none. -/
def lzdefCode (s : State) (k p : Nat) (base w : Word) : Nat :=
  let old := getPitch s k p
  let x := pitchFrom old base.toNat w
  if old.state ≠ 0 then 1
  else if bits w 36 28 ≠ 0 ∨ x.bind = 3 ∨ 10 < x.sz ∨ x.npeg < x.tgt ∨ (x.bind ≠ 1 ∧ x.cls ≠ 0) ∨ (x.bind ≠ 2 ∧ x.depe ≠ 0) then 2
  else if (base.toNat < 0x40000 ∧ 0x40000 - (getCore s k).sp < pitchEnd x)
      ∨ ((List.range 4).any (fun j => j != p && decide ((getPitch s k j).state ≠ 0)
          && decide (x.base < pitchEnd (getPitch s k j) ∧ (getPitch s k j).base < pitchEnd x))) = true then 3
  else if base.toNat % pegBytes x ≠ 0 ∨ 0x40000 < pitchEnd x then 4
  else 0

/-- LZDEF (R112). -/
def execLzdef (d a b : Reg) (p : BitVec 2) (s : State) : Host.Outcome State Fault Refusal :=
  let k := curCore s
  let code := lzdefCode s k p.toNat (sreg s a) (sreg s b)
  finish (.lzdef d a b p)
    (if code ≠ 0 then .ok (setSreg s d (BitVec.ofNat 64 (2 ^ 63 + code)))
     else
       let s1 := setPitch s k p.toNat (pitchFrom (getPitch s k p.toNat) (sreg s a).toNat (sreg s b))
       .ok (setSreg s1 d (pitchName s k p.toNat)))

/-! ## Completion of the barrier (R114, R115) -/

/-- The status word of LZWAIT (R116). -/
def lzwaitWord (p : Pitch) : Word := BitVec.ofNat 64 (p.gen.toNat * 2 ^ 32 + p.last * 2 ^ 24 + p.arrived)

/-- The message of a completed barrier bound to a class (R115). The rule gives words 0 and 1 alone: words 2 and 3 are zero, REL is 1, the
source is context 0 of the owner core. DESIGN CHOICE (log 38). -/
def bindMsg (s : State) (k p : Nat) (x : Pitch) : Msg :=
  { cls := x.cls, rel := true, spilled := false, src := srcId s (ctxNo k 0), a0 := lzwaitWord x, a1 := pitchName s k p,
    a2 := 0, a3 := 0, job := (launchRec s k).job }

/-- The class-16 message of a barrier bound to a dependence entry that did not complete OK (R115): the words and the engine that
the rule does not state are free. DESIGN CHOICE (log 38). -/
def lostMsg (s : State) (k status : Nat) : Msg :=
  { cls := 16, rel := true, spilled := false, src := srcId s (ctxNo k 0), a0 := freeWord s.nonce 0,
    a1 := BitVec.ofNat 64 ((freeWord s.nonce 1).toNat % 16 * 16 + status), a2 := freeWord s.nonce 2, a3 := timeWord s,
    job := (launchRec s k).job }

/-- The BIND action (R115). -/
def bindAction (s : State) (k p status : Nat) : State :=
  let x := getPitch s k p
  let l := launchOf s k
  if x.bind = 1 then sendPacket s l (msgPacket s (myNode s) k x.cls (bindMsg s k p x))
  else if x.bind = 2 then
    (if status = 0 then sendPacket s l (mkPacket s 5 (myNode s) k (.depDec (dieOf k) x.depe 1))
     else deliver { s with nonce := s.nonce + 1 } k (lostMsg s k status))
  else s

/-- The STATE of a completed barrier (R114). -/
def doneState (status : Nat) : Nat := if status = 0 then 2 else if status = 3 then 3 else 4

/-- The barrier of a pitch completes with a status (R114). -/
def completePitch (s : State) (k p status : Nat) : State :=
  let x := getPitch s k p
  bindAction (setPitch s k p { x with gen := x.gen + 1, state := doneState status, last := status }) k p status

/-! ## Bookings (R113, R114) -/

/-- The commands of a core, with one replaced. -/
def mapCmds (s : State) (k : Nat) (f : EngCmd → EngCmd) : State :=
  setCore s k { getCore s k with eng := (getCore s k).eng.map (fun q => { q with cmds := q.cmds.map f }) }

/-- A core without a booking of its table, whose open transfers take a status (R114, R118). -/
def coreCancel (id : BookId) (status : Nat) (c : Core) : Core :=
  let open_ := (c.books.filter (fun b => b.id == id)).flatMap (fun b => b.open_)
  if open_.isEmpty && !c.books.any (fun b => b.id == id) then c
  else
    { c with
      books := c.books.filter (fun b => b.id != id)
      eng := c.eng.map (fun q => { q with cmds := q.cmds.map (fun m => if open_.contains m.uid ∧ m.status = 0 then { m with status := status } else m) }) }

/-- A booking leaves its sender's table and its open transfers take a status (R114), wherever the sender is now: on a core, or saved
(R118). -/
def senderCancel (s : State) (id : BookId) (status : Nat) : State :=
  { s with
    cores := s.cores.map (fun c => (c.1, coreCancel id status c.2))
    launches := s.launches.map (fun l => (l.1, { l.2 with images := l.2.images.map (fun i => { i with core := coreCancel id status i.core }) })) }

/-- The sender of a booking is told that it is cancelled. -/
def tellSender (s : State) (k p : Nat) (b : OwnBook) (status : Nat) : State :=
  if b.node = myNode s then senderCancel s (ownId s k p b) status
  else sendPacket s (launchOf s k) (mkPacket s 3 b.node b.core (.bookCancel b.core (ownId s k p b) status))

/-- The pegs of a booking that have not arrived become free or dead. -/
def freePegs (p : Pitch) (serial : Nat) (left : Peg) : Pitch :=
  { p with pegs := p.pegs.map (fun g => if g = .booked serial then left else g)
           books := p.books.filter (fun b => b.serial != serial) }

/-- Every live booking of a pitch cancelled: its senders told, its pegs FREE (R114, R118). -/
def cancelBooks (s : State) (k p status : Nat) : State :=
  let x := getPitch s k p
  let s1 := x.books.foldl (fun st b => tellSender st k p b status) s
  let y := x.books.foldl (fun q b => freePegs q b.serial .free) (getPitch s1 k p)
  setPitch s1 k p { y with gone := x.books.map (fun b => (b.serial, status)) ++ y.gone }

/-- A booking released by its sender, at the owner (R114). -/
def ownerRelease (s : State) (id : BookId) : State :=
  match idCore id with
  | some k => setPitch s k (bits id 0 2) (freePegs (getPitch s k (bits id 0 2)) (bookSerial id) .free)
  | none => s

/-- A booking lost, at the owner (R114): its unarrived pegs DEAD; an OPEN barrier completes LOST. -/
def ownerLose (s : State) (id : BookId) : State :=
  match idCore id with
  | some k =>
    let p := bits id 0 2
    let x := getPitch s k p
    if x.books.any (fun b => b.serial == bookSerial id) then
      let s1 := setPitch s k p (freePegs x (bookSerial id) .dead)
      if x.state = 1 then completePitch s1 k p 3 else s1
    else s
  | none => s

/-- The owner of a booking is told that its sender released or lost it (R114). -/
def tellOwner (s : State) (launch : Option Nat) (id : BookId) (lost : Bool) : State :=
  if idNode id = myNode s then (if lost then ownerLose s id else ownerRelease s id)
  else sendPacket s launch (mkPacket s 3 (idNode id) ((idCore id).getD 0) (if lost then .bookLost id else .bookRel id))

/-- The end of every booking that a core made (R114): released, or lost at a fault. -/
def endBooks (s : State) (k : Nat) (lost : Bool) : State :=
  let c := getCore s k
  c.books.foldl (fun st b => tellOwner st c.launch b.id lost) (setCore s k { c with books := [] })

/-- LZRES (R113). -/
def execLzres (d a b : Reg) (nb : Bool) (s : State) : Host.Outcome State Fault Refusal :=
  let k := curCore s
  let c := getCore s k
  let w := sreg s a
  finish (.lzres d a b nb)
    (match idCore w, decide (bits w 27 37 = 0) && jobNode s (idNode w) with
     | some k1, true =>
       if 32 ≤ c.books.length then .ok (setSreg s d (bookStatus 8))
       else if c.lzres.isSome then (if nb then .ok (setSreg s d (bookStatus 1)) else .wait s .lzresBusy)
       else
         let s1 := setCore s k { c with lzres := some s.turn, lzresTo := idNode w }
         .wait (sendBy s1 c.launch s.turn (mkPacket s1 3 (idNode w) k1 (.bookReq k w (sreg s b)))) (.book d)
     | _, _ => .ok (setSreg s d (bookStatus 2)))

/-- The lowest run of `n` FREE pegs (R113). -/
def freeRun (p : Pitch) (n : Nat) : Option Nat :=
  (List.range (p.npeg + 2 - n)).find? (fun i => ((p.pegs.drop i).take n).all (fun g => g == .free) && decide ((p.pegs.drop i).length ≥ n))

/-- The owner's answer to a booking request (R113): its state, and the booking id word. -/
def grantBook (s : State) (node sender : Nat) (name count : Word) : State × BookId :=
  match idCore name with
  | none => (s, bookStatus 2)
  | some k =>
    let p := bits name 0 2
    let x := getPitch s k p
    let pre := (launchRec s k).pre
    if (launchOf s k).isSome ∧ pre ≠ .no ∧ pre ≠ .saved ∧ pre ≠ .back then (s, bookStatus 6)
    else if x.state = 1 ∧ 1 ≤ count.toNat ∧ count.toNat ≤ 256 then
      match freeRun x count.toNat with
      | none => (s, bookStatus 2)
      | some f =>
        let b : OwnBook := { serial := x.serial, node := node, core := sender, first := f, count := count.toNat }
        let pegs := (List.range x.pegs.length).zip x.pegs |>.map (fun q =>
          if f ≤ q.1 ∧ q.1 < f + count.toNat then .booked x.serial else q.2)
        let s1 := setPitch s k p { x with
          pegs := pegs, books := x.books ++ [b], gone := x.gone.filter (fun g => g.1 != x.serial)
          serial := if x.serial = 4095 then 1 else x.serial + 1 }
        (s1, ownId s1 k p b)
    else (s, bookStatus 2)

/-- A packet that BOOKING_REQUEST takes: what senders tell the owner of a pitch. -/
def isBookReq (p : Packet) : Bool :=
  match p.body with
  | .bookReq _ _ _ => true | .bookRel _ => true | .bookLost _ => true | _ => false

/-- BOOKING_REQUEST (R113, R114). -/
def bookingRequest (s : State) (n : Nat) : State :=
  match takeOrdered s (fun r _ => isBookReq r) isBookReq n with
  | none => s
  | some (p, s1) =>
    match p.body with
    | .bookReq c name count =>
      let (s2, id) := grantBook s1 p.src c name count
      sendPacket s2 (((idCore name).bind (launchOf s2))) (mkPacket s2 3 p.src c (.bookAns c id))
    | .bookRel id => ownerRelease s1 id
    | .bookLost id => ownerLose s1 id
    | _ => s1

/-- BOOKING_REQUEST (R113). -/
def execBookingRequest (n : Nat) (s : State) : Host.Outcome State Fault Refusal := .next (bookingRequest s n)

/-- The answer to a core's LZRES (R113): the booking enters the table, and the waiting context completes. An answer that comes
after its context is gone loses the booking (R114). -/
def bookAnswer (s : State) (k : Nat) (id : BookId) : State :=
  let c := getCore s k
  let granted := decide (bits id 60 4 = 0)
  match c.lzres with
  | some x =>
    let s1 := setCore s k { c with lzres := none, books := if granted then c.books ++ [{ id := id }] else c.books }
    match (getCtx s1 x).wait with
    | some (.book d) => completeWait s1 x d id 4
    | _ => s1
  | none => if granted then tellOwner s c.launch id true else s

/-- A packet that BOOKING_ANSWER takes: what the owner of a pitch tells a sender. -/
def isBookAns (p : Packet) : Bool :=
  match p.body with
  | .bookAns _ _ => true | .bookCancel _ _ _ => true | _ => false

/-- BOOKING_ANSWER (R113, R114). -/
def bookingAnswer (s : State) (n : Nat) : State :=
  match takeOrdered s (fun r _ => isBookAns r) isBookAns n with
  | none => s
  | some (p, s1) =>
    match p.body with
    | .bookAns k id => bookAnswer s1 k id
    | .bookCancel _ id status => senderCancel s1 id status
    | _ => s1

/-- BOOKING_ANSWER (R113). -/
def execBookingAnswer (n : Nat) (s : State) : Host.Outcome State Fault Refusal := .next (bookingAnswer s n)

/-! ## LZWAIT and LZREL (R114, R116) -/

/-- The bitmap of ARRIVED pegs (R116). -/
def pegBitmap (p : Pitch) : Vec := BitVec.ofNat 512 (p.pegs.foldr (fun g acc => b2n (g == .arrived) + 2 * acc) 0)

/-- LZWAIT (R116). -/
def execLzwait (d a b : Reg) (nb : Bool) (p : BitVec 2) (s : State) : Host.Outcome State Fault Refusal :=
  let i : Instr := .lzwait d a b nb p
  finish i
    (bankThen s [b] (fun s1 =>
      match stallOf i s1 [] (some b) with
      | some e => e
      | none =>
        let x := getPitch s1 (curCore s1) p.toNat
        if nb ∨ (sreg s1 a).toNat < x.gen.toNat then
          commit s1 [] 2 { v := some (b, pegBitmap x), s := some (d, lzwaitWord x) }
        else .wait s1 (.lzwait p (sreg s1 a))))

/-- A pitch re-armed (R114). -/
def rearmPitch (s : State) (k p : Nat) : State :=
  let s1 := if (getPitch s k p).state = 1 then completePitch s k p 4 else s
  let s2 := cancelBooks s1 k p 4
  let x := getPitch s2 k p
  setPitch s2 k p { x with pegs := List.replicate (x.npeg + 1) .free, arrived := 0, state := 1 }

/-- A pitch re-armed and then freed (R114). -/
def undefPitch (s : State) (k p : Nat) : State :=
  let s1 := rearmPitch s k p
  setPitch s1 k p { getPitch s1 k p with state := 0 }

/-- LZREL `.rearm` (R114). -/
def execLzrelRearm (d : Reg) (p : BitVec 2) (s : State) : Host.Outcome State Fault Refusal :=
  finish (.lzrelRearm d p)
    (if (getPitch s (curCore s) p.toNat).state = 0 then .ok (setSreg s d 2)
     else .ok (setSreg (rearmPitch s (curCore s) p.toNat) d 0))

/-- LZREL `.undef` (R114). -/
def execLzrelUndef (d : Reg) (p : BitVec 2) (s : State) : Host.Outcome State Fault Refusal :=
  finish (.lzrelUndef d p)
    (if (getPitch s (curCore s) p.toNat).state = 0 then .ok (setSreg s d 2)
     else .ok (setSreg (undefPitch s (curCore s) p.toNat) d 0))

/-- LZREL `.bk` (R114). -/
def execLzrelBk (d a : Reg) (s : State) : Host.Outcome State Fault Refusal :=
  let k := curCore s
  let c := getCore s k
  let id := sreg s a
  finish (.lzrelBk d a)
    (if c.books.any (fun b => b.id == id) then
       let s1 := setCore s k { c with books := c.books.filter (fun b => b.id != id) }
       .ok (setSreg (tellOwner s1 c.launch id false) d 0)
     else .ok (setSreg s d 2))

/-! ## Pegs (R63, R114) -/

/-- A transfer as its receiver has counted it (R63). -/
def getXfer (s : State) (node core tag : Nat) (launch : Option Nat) : Xfer :=
  (s.xfers.find? (fun x => x.node == node && x.core == core && x.tag == tag)).getD
    { node := node, core := core, tag := tag, launch := launch, got := 0, total := 0, bytes := 0, status := 0 }

/-- The state with a transfer replaced. -/
def setXfer (s : State) (y : Xfer) : State :=
  { s with xfers := s.xfers.filter (fun x => !(x.node == y.node && x.core == y.core && x.tag == y.tag)) ++ [y] }

/-- Bytes of a transfer counted (R63): `n` have come, `bytes` of them written; the first status that is not OK stays, with its place. -/
def noteXfer (s : State) (x : Xfer) (n total bytes status place : Nat) : State :=
  setXfer s { x with got := x.got + n, total := max x.total total, bytes := x.bytes + bytes
                     status := if x.status = 0 then status else x.status, place := if x.status = 0 then place else x.place }

/-- The status that bytes pushed under a serial complete with when the peg is not BOOKED under it (R114, R118). -/
def goneStatus (p : Pitch) (serial : Nat) : Nat := ((p.gone.find? (fun g => g.1 == serial)).map (·.2)).getD 4

/-- The cells of bytes of a pitch, which are named by offsets in it. -/
def pitchCells (k : Nat) (x : Pitch) (cells : List (Nat × Byte)) : List (Nat × Byte) := cells.map (fun c => (sliceKey k (x.base + c.1), c.2))

/-- A peg whose bytes have all come: ARRIVED, and the barrier complete when it is the last one wanted (R114). -/
def pegArrive (s : State) (k p peg serial : Nat) : State :=
  let x := getPitch s k p
  let pegs := x.pegs.set peg .arrived
  let live := pegs.any (fun g => g == .booked serial)
  let s1 := setPitch s k p { x with
    pegs := pegs, arrived := x.arrived + 1, books := if live then x.books else x.books.filter (fun b => b.serial != serial) }
  if x.state = 1 ∧ x.arrived + 1 = x.tgt + 1 then completePitch s1 k p 0 else s1

/-- Bytes that begin to be written into a peg (R117): until all are, the peg holds a mix of old and new ones. DEDUCED (log 32).
DESIGN CHOICE (log 71). -/
def pegBegin (s : State) (id : BookId) (peg : Nat) (cells : List (Nat × Byte)) : State :=
  match idCore id with
  | none => s
  | some k =>
    let x := getPitch s k (bits id 0 2)
    let all := pitchCells k x cells
    if x.pegs.getD peg .free = .booked (bookSerial id) ∧ all.any (fun c => poisoned s c.1) = false then
      putCells { s with nonce := s.nonce + 1 } (all.filter (fun c => Config.mixed s.nonce (c.1 / 8)))
    else s

/-- The address of a slice byte in the module window, by which an error in a peg is named: the rule gives no address that the sender has
for it. DESIGN CHOICE (log 32). -/
def pegAddr (k key : Nat) : Nat := 2 ^ 32 + coreId k * 2 ^ 18 + key % 2 ^ 18

/-- Bytes of one peg of a booking written at the owner (R114): an uncorrectable error in a granule that they cover in part stops them
(R139). DEDUCED (log 32). -/
def pegLand (s : State) (x : Xfer) (id : BookId) (peg part total : Nat) (arrive : Bool) (cells : List (Nat × Byte)) : State :=
  match idCore id with
  | none => s
  | some k =>
    let p := bits id 0 2
    let y := getPitch s k p
    let serial := bookSerial id
    let all := pitchCells k y cells
    let keys := all.map (·.1)
    let came := kget 0 x.pegs peg + cells.length
    let x1 := { x with pegs := kset x.pegs peg came }
    if y.pegs.getD peg .free = .booked serial then
      match keys.find? (fun q => poisoned s q && !wholeUnit keys q) with
      | some q => noteXfer s x1 cells.length total 0 (eccOf q) (pegAddr k q)
      | none =>
        let s1 := putCells (noteRead s (keys.filter (fun q => !wholeUnit keys q))) all
        let s2 := noteXfer s1 x1 cells.length total cells.length 0 0
        if arrive ∧ came = part then pegArrive s2 k p peg serial else s2
    else noteXfer s x1 cells.length total 0 (goneStatus y serial) 0

/-- A push into a pitch. -/
def isPegPush (p : Packet) : Bool := match p.body with | .pushPeg _ _ _ _ _ _ _ _ _ _ => true | _ => false

/-- PEG_ARRIVAL (R114): the `n`-th waiting push into a pitch begins to be written, and after that is. -/
def pegArrival (s : State) (n : Nat) : State :=
  match nextArrived s ordBefore isPegPush n with
  | none => s
  | some (i, p) =>
    match p.body with
    | .pushPeg core tag launch id peg part total arrive begun cells =>
      if begun then
        pegLand { s with arrived := ldel s.arrived i } (getXfer s p.src core tag launch) id peg part total arrive cells
      else
        pegBegin { s with arrived := s.arrived.set i { p with body := .pushPeg core tag launch id peg part total arrive true cells } } id peg cells
    | _ => s

/-- PEG_ARRIVAL (R114). -/
def execPegArrival (n : Nat) (s : State) : Host.Outcome State Fault Refusal := .next (pegArrival s n)

/-- The notices that came at least 100 µs ago (R82). -/
def agedNotices (s : State) : List LinkDown := s.notices.filter (fun x => decide (x.time + 100000 ≤ nowNs s))

/-- A node unreachable by what link-down notices said 100 µs ago (R82, R114). -/
def longLost (s : State) (node : Nat) : Bool :=
  !(agedNotices s).isEmpty && decide (node ≠ myNode s) && (routeFrom s (agedNotices s) (myNode s) 80 (myNode s) node).isNone

/-- BOOKING_LOST (R114). -/
def bookingLost (s : State) (k : Nat) (p : BitVec 2) (serial : Nat) : State :=
  let x := getPitch s k p.toNat
  match x.books.find? (fun b => b.serial == serial) with
  | some b => if longLost s b.node then ownerLose s (ownId s k p.toNat b) else s
  | none => s

/-- BOOKING_LOST (R114). -/
def execBookingLost (core : Nat) (p : BitVec 2) (serial : Nat) (s : State) : Host.Outcome State Fault Refusal :=
  .next (bookingLost s core p serial)

/-- PITCH_SAVE_TIMEOUT (R118): after 20 µs of SAVING every booking still live is cancelled PREEMPTED. DEDUCED (log 32). -/
def pitchSaveTimeout (s : State) (k p : Nat) : State :=
  let x := getPitch s k p
  if x.state = 5 ∧ x.since + 20000 ≤ nowNs s then cancelBooks s k p 6 else s

/-- PITCH_SAVE_TIMEOUT (R118). -/
def execPitchSaveTimeout (core : Nat) (p : BitVec 2) (s : State) : Host.Outcome State Fault Refusal :=
  .next (pitchSaveTimeout s core p.toNat)

end Sys2Proof.Machine
end

