-- ==== Sys2Proof/Machine/Engine.lean ====
section
/-!
DEFINITION. What every engine shares (R85-R101, R107-R108, R123, R399-R401): the queues and phases of commands, leave, completion
and its message, and EPOLL, ECANCEL, WAITX, INBOX, SREL, SWAIT, LEAVE and the events COMMAND_DECODE, COMMAND_COMPLETION,
HELD_MESSAGE_DEPOSIT and LEAVE_GRANT.
-/
namespace Sys2Proof.Machine

/-! ## Queues -/

/-- The place of an engine's queue (R90). -/
def engIx : Engine → Fin 4
  | .mxu => 0 | .cpe => 1 | .gte => 2 | .cre => 3

/-- An engine queue of a core. -/
def getQ (s : State) (k : Nat) (e : Engine) : EngQueue := (getCore s k).eng[engIx e]
/-- The state with an engine queue replaced. -/
def setQ (s : State) (k : Nat) (e : Engine) (q : EngQueue) : State :=
  setCore s k { getCore s k with eng := (getCore s k).eng.set (engIx e) q }
/-- A command of a queue by its place in ENQ order. -/
def findCmd (s : State) (k : Nat) (e : Engine) (uid : Nat) : Option EngCmd := (getQ s k e).cmds.find? (fun m => m.uid == uid)
/-- The state with a command of a queue replaced. -/
def setCmd (s : State) (k : Nat) (e : Engine) (m : EngCmd) : State :=
  setQ s k e { getQ s k e with cmds := (getQ s k e).cmds.map (fun x => if x.uid = m.uid then m else x) }

/-- Bits of a command (R88). -/
def cbits (c : Cmd) (lo n : Nat) : Nat := c.toNat / 2 ^ lo % 2 ^ n
/-- COP, TAG, CMSG, DEP or its neighbour, DEPE (R88). -/
def copOf (c : Cmd) : Nat := cbits c 0 8
def tagOf (c : Cmd) : Nat := cbits c 16 16
def cmsgOf (c : Cmd) : Bool := decide (cbits c 8 1 = 1)
def ordOf (c : Cmd) : Bool := decide (cbits c 9 1 = 1)
def depOf (c : Cmd) : Bool := decide (cbits c 10 1 = 1)
def depeOf (c : Cmd) : Nat := cbits c 246 10

/-- A core's launch is on the device and has not faulted: its engines work. -/
def launchLive (s : State) (k : Nat) : Bool :=
  match launchOf s k with
  | some l => (getLaunch s l).first.isNone
  | none => false

/-- The held command of a queue that has its turn (R86, R87, R100): none runs, a CPE channel has fewer than 16 outstanding, and no
completion message of the queue is held. -/
def turnCmd (s : State) (k : Nat) (e : Engine) : Option EngCmd :=
  let q := getQ s k e
  if q.cmds.any (fun m => m.phase == 2) then none
  else if e = .cpe ∧ 16 ≤ q.cmds.countP (fun m => m.phase == 3) then none
  else if (getCore s k).heldMsg.any (fun h => h.1 == e) then none
  else q.cmds.find? (fun m => m.phase == 1)

/-! ## Leave (R23, R123, R399, R400) -/

/-- The budget of a cluster in force (R399, R471): as firmware set it, halved, or 64, by its die's row. -/
def budget (s : State) (c : Nat) : Nat :=
  let b := bits (bar s (0x020100 + 8 * c)) 0 12
  match (getDie s (c / 24)).row with
  | 0 => b
  | 1 => max 64 (b / 2)
  | _ => 64

/-- The bytes a CPE or GTE command moves in total (R123). -/
def totalBytes (c : Cmd) : Nat :=
  let cop := copOf c
  if cop = 0x20 ∨ cop = 0x22 then cbits c 160 32
  else if cop = 0x21 then cbits c 160 24 * cbits c 188 32
  else if cop = 0x32 then (cbits c 178 8 + 1) * 2 ^ (cbits c 186 4 + 6)
  else cbits c 178 16 * cbits c 194 16

/-- Whether a cluster may grant `u` units now (R400). -/
def fits (s : State) (c u : Nat) : Bool := decide ((getClus s c).held + min u (budget s c) ≤ budget s c)

/-- Units given back to a governor. -/
def giveBack (s : State) (c u : Nat) : State := setClus s c { getClus s c with held := (getClus s c).held - u }

/-- A request appended to a governor's queue. -/
def askLeave (s : State) (c : Nat) (who : LeaveBy) (u : Nat) : State :=
  setClus s c { getClus s c with waits := (getClus s c).waits ++ [{ who := who, units := u }] }

/-- A command's grant returned, and its request withdrawn. -/
def dropLeave (s : State) (k : Nat) (m : EngCmd) : State :=
  let c := clusOf k
  let s1 := giveBack s c m.grant
  setClus s1 c { getClus s1 c with waits := (getClus s1 c).waits.filter (fun r => r.who != .cmd k m.uid)
                                   gang := (getClus s1 c).gang.filter (fun g => g.uid != m.uid) }

/-- A command that has been granted leave; an MMAQ posts its gang request (R312). -/
def grantCmd (s : State) (k uid u : Nat) : State :=
  let s1 := mapCmds s k (fun m => if m.uid = uid then { m with grant := u } else m)
  let c := clusOf k
  match findCmd s1 k .mxu uid with
  | some m =>
    if copOf m.word = 0x11 then setClus s1 c { getClus s1 c with gang := (getClus s1 c).gang ++ [{ core := k, uid := uid }] } else s1
  | none => s1

/-- A grant to a context (R401): LEAVE completes with the units, or a restored context holds them again. -/
def grantCtx (s : State) (x u : Nat) : State :=
  let c := getCtx s x
  if 0 < c.reask then setCtx s x { c with leave := u, reask := 0 }
  else
    match c.wait with
    | some (.leave _ d) => completeWait (setCtx s x { c with leave := u }) x d (BitVec.ofNat 64 u) 4
    | _ => s

/-- LEAVE_GRANT (R400): the oldest waiting request, when it fits. -/
def leaveGrant (s : State) (c : Nat) : State :=
  let g := getClus s c
  match g.waits with
  | [] => s
  | r :: rest =>
    if fits s c r.units then
      let u := min r.units (budget s c)
      let s1 := setClus s c { g with held := g.held + u, waits := rest }
      match r.who with
      | .ctx x => grantCtx s1 x u
      | .cmd k uid => grantCmd s1 k uid u
      | .grem uid => { s1 with grems := s1.grems.map (fun y => if y.uid = uid then { y with grant := u } else y) }
    else s

/-- LEAVE_GRANT (R400). -/
def execLeaveGrant (clus : Nat) (s : State) : Host.Outcome State Fault Refusal := .next (leaveGrant s clus)

/-- The explicit grant of a context returned (R401). -/
def putLeave (s : State) (x : Nat) : State :=
  let c := getCtx s x
  setCtx (giveBack s (clusOf (coreOf x)) c.leave) x { c with leave := 0 }

/-- LEAVE `.put` (R401). -/
def execLeavePut (d : Reg) (s : State) : Host.Outcome State Fault Refusal :=
  finish (.leavePut d) (.ok (setSreg (putLeave s s.turn) d (BitVec.ofNat 64 (cur s).leave)))

/-- LEAVE `.get` (R401): granted at once when nothing waits ahead and it fits. -/
def execLeaveGet (d a : Reg) (s : State) : Host.Outcome State Fault Refusal :=
  let c := clusOf (curCore s)
  let n := (sreg s a).toNat
  finish (.leaveGet d a)
    (if n = 0 then .ok (setSreg (putLeave s s.turn) d (BitVec.ofNat 64 (cur s).leave))
     else
       let s1 := putLeave s s.turn
       if (getClus s1 c).waits.isEmpty && fits s1 c n then
         let u := min n (budget s1 c)
         let s2 := setClus s1 c { getClus s1 c with held := (getClus s1 c).held + u }
         .ok (setSreg (setCur s2 { cur s2 with leave := u }) d (BitVec.ofNat 64 u))
       else .wait (askLeave s1 c (.ctx s1.turn) n) (.leave (sreg s a) d))

/-- The arrangement MP × NP of MMAQ's pieces by SPAN (R311). -/
def spanOf (n : Nat) : Nat × Nat :=
  match n with
  | 0 => (1, 1) | 1 => (1, 2) | 2 => (1, 3) | 3 => (2, 1) | 4 => (2, 2) | 5 => (2, 3) | _ => (0, 0)

/-- The pieces of a command (R311). -/
def pieces (c : Cmd) : Nat :=
  if copOf c = 0x11 then (spanOf (cbits c 251 3)).1 * (spanOf (cbits c 251 3)).2 else 1

/-- The leave a command asks for (R123, R295, R311, R399); a GREM's is asked where its rows are read. -/
def leaveUnits (m : EngCmd) : Nat :=
  let cop := copOf m.word
  if cop = 0x31 then 0
  else if 0x20 ≤ cop ∧ cop ≤ 0x33 then (if 65536 ≤ totalBytes m.word then 8 else 0)
  else if cop = 0x13 ∨ (0x15 ≤ cop ∧ cop ≤ 0x17) then 8
  else if 0x10 ≤ cop ∧ cop ≤ 0x17 then
    let a := bits m.mfmt 0 4
    (if a = 8 then 40 else if a = 9 ∨ a = 10 then 48 else 64) * pieces m.word
  else 0

/-! ## Decoding (R86, R87) -/

/-- A matrix command that a pre-emption stopped: it asks for its leave again (R295, R438). -/
def stoppedCmd (s : State) (k : Nat) (e : Engine) : Option EngCmd :=
  if e = .mxu then (getQ s k e).cmds.find? (fun m => m.phase == 2 && m.grant == 0) else none

/-- The held command asks for leave as it leaves the held phase (R123, R295). -/
def askFor (s : State) (k : Nat) (e : Engine) : State :=
  match (stoppedCmd s k e).orElse (fun _ => turnCmd s k e) with
  | none => s
  | some m =>
    if m.asked ∨ leaveUnits m = 0 then s
    else askLeave (setCmd s k e { m with asked := true }) (clusOf k) (.cmd k m.uid) (leaveUnits m)

/-- COMMAND_DECODE (R87): the next queued command enters the free shadow set; a held command whose turn has come asks for leave. -/
def commandDecode (s : State) (k : Nat) (e : Engine) : State :=
  if launchRuns s k = false then s
  else
    let q := getQ s k e
    let s1 :=
      if q.cmds.any (fun m => m.phase == 1) then s
      else match q.cmds.find? (fun m => m.phase == 0) with
        | some m => setCmd s k e { m with phase := 1 }
        | none => s
    askFor s1 k e

/-- COMMAND_DECODE (R87). -/
def execCommandDecode (core : Nat) (e : Engine) (s : State) : Host.Outcome State Fault Refusal := .next (commandDecode s core e)

/-- A command that may leave the held phase now: its turn has come and it has the leave it needs. -/
def readyCmd (s : State) (k : Nat) (e : Engine) (cop : Nat) : Option EngCmd :=
  if launchRuns s k = false then none
  else
    match turnCmd s k e with
    | some m => if copOf m.word = cop ∧ (leaveUnits m = 0 ∨ 0 < m.grant) then some m else none
    | none => none

/-- The running command of a queue, else the one that may start, of a COP. -/
def workCmd (s : State) (k : Nat) (e : Engine) (cop : Nat) : Option EngCmd :=
  match (getQ s k e).cmds.find? (fun m => m.phase == 2) with
  | some m => if copOf m.word = cop ∧ launchLive s k then some m else none
  | none => readyCmd s k e cop

/-! ## Completion (R89, R94, R99, R100, R158, R172) -/

/-- The watermark advanced over finished ids (R94). -/
def advance (fuel xwm : Nat) (doneIds : List Nat) : Nat × List Nat :=
  match fuel with
  | 0 => (xwm, doneIds)
  | fuel + 1 =>
    if doneIds.contains (xwm + 1) then advance fuel (xwm + 1) (doneIds.filter (fun i => i != xwm + 1)) else (xwm, doneIds)

/-- A core whose transfer `id` is complete. -/
def noteDone (c : Core) (id : Nat) : Core :=
  let r := advance (c.doneIds.length + 1) c.xwm (id :: c.doneIds)
  { c with xwm := r.1, doneIds := r.2 }

/-- The number of an engine (R93). -/
def engNo (e : Engine) : Nat := (engIx e).val

/-- The completion message of a command (R99). The rule gives the argument words alone: REL is 0, the source the issuing context, for the
crossing engine the engine (R375). DEDUCED (log 40). DESIGN CHOICE (log 40). -/
def complMsg (s : State) (k : Nat) (e : Engine) (m : EngCmd) (status : Nat) : Msg :=
  { cls := 16, rel := false, spilled := false, src := srcId s (if e = .cre then ctxNo (clusOf k * 48) 0 else m.ctx),
    a0 := BitVec.ofNat 64 m.id, a1 := BitVec.ofNat 64 (copOf m.word * 256 + engNo e * 16 + status),
    a2 := BitVec.ofNat 64 (m.moved + m.word2), a3 := timeWord s, job := (launchRec s k).job }

/-- A class-16 message can be taken by its core now (R100). -/
def canTake (s : State) (k : Nat) : Bool :=
  decide ((getCore s k).spill.length < spillCap s k)
    || (handValid (handOf s k 16) && mayStart s k 16 && !(getCore s k).spill.any (fun e => !e.compl && e.msg.cls == 16))

/-- The completion message of a queue, deposited or held by its engine (R100). -/
def engineMsg (s : State) (k : Nat) (e : Engine) (m : Msg) : State :=
  if (getCore s k).heldMsg.isEmpty && canTake s k then deliver s k m
  else setCore s k { getCore s k with heldMsg := (getCore s k).heldMsg ++ [(e, m)] }

/-- The entries of past commands that are kept (R96, R108): of the CPE the 64 most recent ids of `next` issued, and every XLOOP with what
it filled; the latest of each tag of another engine. -/
def keepPast (e : Engine) (next : Nat) (p : CmdPast) (l : List CmdPast) : List CmdPast :=
  match e with
  | .cpe => (p :: l).filter (fun x => decide (next < x.id + 64) || x.fill.isSome)
  | _ => p :: l.filter (fun x => x.id != p.id || decide (p.uid < x.uid))

/-- Flags and deferred traps of a command reach its context, while it is live from the same start (R158, R172). -/
def reportTo (s : State) (m : EngCmd) (flags : Nat) (traps : List Deferred) : State :=
  let c := getCtx s m.ctx
  if c.st = .free ∨ c.start ≠ m.start then s
  else setCtx s m.ctx { raiseFlags c flags with held := c.held ++ traps }

/-- The other modules of a launch are told that a QRUN of it begins or ends here (R441). -/
def tellQrun (s : State) (l : Nat) (on : Bool) : State :=
  ((getLaunch s l).nodes.filter (fun n => n != myNode s)).foldl
    (fun st n => sendPacket st (some l) (mkPacket st 0 n 0 (.qrunNote l on))) s

/-- The progress watchdogs of a core start again when one of its running commands ends, those of a launch when a QRUN does (R441). -/
def noteIdle (s : State) (k : Nat) (m : EngCmd) : State :=
  if m.phase < 2 then s
  else
    let s1 := setCore s k { getCore s k with wdBase := nowNs s }
    match launchOf s k with
    | some l => if copOf m.word = 0x42 then tellQrun (setLaunch s1 l { getLaunch s1 l with wdBase := nowNs s }) l false else s1
    | none => s1

/-- A command is complete with a status (R89): it leaves its queue, the watermark advances, its leave is returned, its context gets
flags and deferred traps, its dependence entry is decremented on OK, its completion message goes out. DEDUCED (log 35). -/
def completeCmd (s : State) (k : Nat) (e : Engine) (m : EngCmd) (status : Nat) : State :=
  let q := getQ s k e
  let past : CmdPast := { uid := m.uid, id := m.id, status := status, fill := if copOf m.word = 0x21 then some m.fill else none }
  let s1 := setQ s k e { cmds := q.cmds.filter (fun x => x.uid != m.uid), past := keepPast e (getCore s k).nextId past q.past }
  let s2 := noteIdle (dropLeave s1 k m) k m
  let s3 := if e = .cpe then setCore s2 k (noteDone (getCore s2 k) m.id) else s2
  let s4 := reportTo s3 m m.flags m.traps
  let s5 :=
    if (e = .cpe ∨ e = .gte) ∧ depOf m.word ∧ status = 0 then
      sendPacket s4 (launchOf s4 k) (mkPacket s4 5 (myNode s4) k (.depDec (dieOf k) (depeOf m.word) 1))
    else s4
  if cmsgOf m.word then engineMsg s5 k e (complMsg s5 k e m status) else s5

/-- A booking whose pegs are all pushed and whose transfers are complete leaves its sender's table (R113). -/
def pruneBooks (s : State) (k uid : Nat) : State :=
  let c := getCore s k
  let l := c.books.map (fun b => { b with open_ := b.open_.filter (fun u => u != uid) })
  setCore s k { c with books := l.filter (fun b => !(b.open_.isEmpty && decide (bookCount b.id ≤ b.pushed.eraseDups.length))) }

/-- An outstanding command that may complete: it waits for no acknowledgement; matrix commands complete in ENQ order (R296). -/
def doneCmd (s : State) (k : Nat) (e : Engine) : Option EngCmd :=
  let l := (getQ s k e).cmds
  (if e = .mxu then l.take 1 else l).find? (fun m => m.phase == 3 && m.out == 0)

/-- COMMAND_COMPLETION (R89). -/
def commandCompletion (s : State) (k : Nat) (e : Engine) : State :=
  if launchLive s k = false then s
  else
    match doneCmd s k e with
    | some m => completeCmd (pruneBooks s k m.uid) k e m m.status
    | none => s

/-- COMMAND_COMPLETION (R89). -/
def execCommandCompletion (core : Nat) (e : Engine) (s : State) : Host.Outcome State Fault Refusal :=
  .next (commandCompletion s core e)

/-- HELD_MESSAGE_DEPOSIT (R100): the oldest held message, once an entry is free. -/
def heldDeposit (s : State) (k : Nat) : State :=
  match (getCore s k).heldMsg with
  | [] => s
  | (_, m) :: rest => if canTake s k then deliver (setCore s k { getCore s k with heldMsg := rest }) k m else s

/-- HELD_MESSAGE_DEPOSIT (R100). -/
def execHeldMessageDeposit (core : Nat) (s : State) : Host.Outcome State Fault Refusal := .next (heldDeposit s core)

/-! ## EPOLL and ECANCEL (R96, R97) -/

/-- What is known of a command: it is in its queue, or past. -/
inductive Known where
  | live (m : EngCmd)
  | past (p : CmdPast)
  | unknown
  deriving DecidableEq, Repr

/-- The command that EPOLL and ECANCEL select (R96): by id among the channel's 64 most recent, else the latest with the tag. -/
def selectCmd (s : State) (k : Nat) (e : Engine) (a : Word) : Known :=
  let q := getQ s k e
  let id := if e = .cpe then a.toNat else bits a 0 16
  if e = .cpe ∧ (id = 0 ∨ (getCore s k).nextId < id ∨ id + 64 ≤ (getCore s k).nextId) then .unknown
  else
    match q.cmds.reverse.find? (fun m => m.id == id), q.past.find? (fun p => p.id == id) with
    | some m, some p => if p.uid < m.uid then .live m else .past p
    | some m, none => .live m
    | none, some p => .past p
    | none, none => .unknown

/-- EPOLL (R96). -/
def execEpoll (d a : Reg) (e : Engine) (s : State) : Host.Outcome State Fault Refusal :=
  finish (.epoll d a e)
    (.ok (setSreg s d (match selectCmd s (curCore s) e (sreg s a) with
      | .live m => BitVec.ofNat 64 (m.phase * 16)
      | .past p => BitVec.ofNat 64 (4 * 16 + p.status)
      | .unknown => 5 * 16)))

/-- A queued or held command cancelled (R97): it completes CANCELLED; a matrix command behind an unfinished one gives back its leave and
its gang request and completes in its turn (R296). -/
def cancelCmd (s : State) (k : Nat) (e : Engine) (m : EngCmd) : State :=
  if e = .mxu ∧ ((getQ s k e).cmds.head?.map (·.uid)) ≠ some m.uid then
    setCmd (dropLeave s k m) k e { m with phase := 3, status := 4, grant := 0 }
  else completeCmd s k e m 4

/-- ECANCEL (R97): a queued or held command completes CANCELLED. -/
def execEcancel (d a : Reg) (e : Engine) (s : State) : Host.Outcome State Fault Refusal :=
  let k := curCore s
  finish (.ecancel d a e)
    (match selectCmd s k e (sreg s a) with
     | .live m =>
       if m.phase ≤ 1 then .ok (setSreg (cancelCmd s k e m) d 0) else .ok (setSreg s d 1)
     | .past _ => .ok (setSreg s d 1)
     | .unknown => .ok (setSreg s d 2))

/-! ## WAITX and INBOX (R98, R101) -/

/-- The status of a complete transfer (R98): 8 when it is older than the 64 most recent. -/
def xferStatus (s : State) (k : Nat) (id : Word) : Word :=
  match selectCmd s k .cpe id with
  | .past p => BitVec.ofNat 64 p.status
  | _ => 8

/-- WAITX (R98). -/
def execWaitx (d a b : Reg) (prom : Bool) (s : State) : Host.Outcome State Fault Refusal :=
  let k := curCore s
  let id := sreg s a
  finish (.waitx d a b prom)
    (if id = 0 ∨ (getCore s k).nextId < id.toNat then .ok (setSreg s d 9)
     else if prom ∧ sreg s b ≠ 0 then
       (if (sreg s b).toNat ≤ nowNs s then
          (if (getCore s k).xwm < id.toNat then .trap s trapMissed id else .ok (setSreg s d (xferStatus s k id)))
        else .wait s (.prom id (sreg s b) d))
     else if id.toNat ≤ (getCore s k).xwm then .ok (setSreg s d (xferStatus s k id))
     else .wait s (.waitx id))

/-- INBOX (R101). -/
def execInbox (d : Reg) (nb : Bool) (s : State) : Host.Outcome State Fault Refusal :=
  let i : Instr := .inbox d nb
  let k := curCore s
  finish i
    (bankThen s [d] (fun s1 =>
      match stallOf i s1 [] (some d) with
      | some e => e
      | none =>
        match lfind (fun e => e.compl) (getCore s1 k).spill with
        | some (n, e) =>
          commit (settleSpill (spillDel s1 k n) k) [] 2 { v := some (d, spillVec s1 k e) }
        | none => if nb then commit s1 [] 2 { v := some (d, 0) } else .wait s1 .inbox))

/-! ## SREL and SWAIT (R108) -/

/-- The XLOOP with a transfer id, while it is in its queue. -/
def loopCmd (s : State) (k : Nat) (id : Word) : Option EngCmd :=
  (getQ s k .cpe).cmds.find? (fun m => m.id == id.toNat && copOf m.word == 0x21)

/-- SREL (R108): a release of its context's earlier accesses (R408). -/
def execSrel (d a b : Reg) (s : State) : Host.Outcome State Fault Refusal :=
  let k := curCore s
  finish (.srel d a b)
    (match loopCmd s k (sreg s a) with
     | some m =>
       if m.phase ≤ 2 then
         afterStores s .core (.ok (setSreg (setCmd s k .cpe { m with rel := min (m.rel + (sreg s b).toNat) (cbits m.word 188 32) }) d 0))
       else .ok (setSreg s d 1)
     | none => .ok (setSreg s d 1))

/-- The fill count that ends a SWAIT (R108); `none` while it waits. -/
def swaitDone (s : State) (k : Nat) (id chunk : Word) : Option Nat :=
  match loopCmd s k id with
  | some m => if chunk.toNat < m.fill then some m.fill else none
  | none =>
    match (getQ s k .cpe).past.find? (fun p => p.id == id.toNat) with
    | some p => some (p.fill.getD 0)
    | none => some 0

/-- SWAIT (R108). -/
def execSwait (d a b : Reg) (s : State) : Host.Outcome State Fault Refusal :=
  finish (.swait d a b)
    (match swaitDone s (curCore s) (sreg s a) (sreg s b) with
     | some f => .ok (setSreg s d (BitVec.ofNat 64 f))
     | none => .wait s (.swait (sreg s a) (sreg s b)))

end Sys2Proof.Machine
end

