-- ==== Sys2Proof/Machine/Copy.lean ====
section
/-!
DEFINITION. The copy and gather engines (R24, R44, R85, R102-R109, R119-R122): XSEND, XLOOP, XLOOP_CHUNK_START, XFILL, GATH, SCAT,
GPAGE, GREM, GREM_REMOTE_GATHER, ARRIVAL_NOTICE and COMPLETION_NOTICE. A command's bytes move in units of 256 in order, one unit a
step, and an engine serves its queues by round robin; a fault stops a command at its unit.
-/
namespace Sys2Proof.Machine

/-! ## What a command moves -/

/-- Where a byte of a move comes from. -/
inductive Src where
  | at_ (va : Word)
  | val (b : Byte)
  deriving DecidableEq, Repr

/-- A move of `n` bytes: the source of byte `i` and its offset from the destination's start. -/
structure Move where
  n   : Nat
  src : Nat → Src
  dst : Nat → Nat
  slice : Bool := false

/-- The stream and the offset in it of packed byte `i` (R104): `n` streams of `len` bytes, in groups of `g`. -/
def ilvPos (n g len i : Nat) : Nat × Nat :=
  let q := i / (n * g)
  if q < len / g then (i % (n * g) / g, q * g + i % g)
  else
    let sz := len % g
    ((i - q * n * g) / sz, q * g + (i - q * n * g) % sz)

/-- The 64-bit fields of a command that hold addresses (R102, R106, R109, R119, R122). -/
def fieldLo (c : Cmd) : Word := BitVec.ofNat 64 (cbits c 32 64)
def fieldHi (c : Cmd) : Word := BitVec.ofNat 64 (cbits c 96 64)

/-- XSEND's move (R102, R104). -/
def sendMove (c : Cmd) : Move :=
  let len := cbits c 160 32
  let n := cbits c 212 4
  let g := 2 ^ (cbits c 216 3 + 2)
  let str := cbits c 220 24
  let pos := fun i => let r := ilvPos n g (len / n) i; r.1 * str + r.2
  if n = 0 then { n := len, src := fun i => .at_ (fieldLo c + BitVec.ofNat 64 i), dst := fun i => i }
  else if cbits c 219 1 = 0 then { n := len, src := fun i => .at_ (fieldLo c + BitVec.ofNat 64 (pos i)), dst := fun i => i }
  else { n := len, src := fun i => .at_ (fieldLo c + BitVec.ofNat 64 i), dst := pos }

/-- XFILL's move (R109). -/
def fillMove (c : Cmd) : Move :=
  { n := cbits c 160 32
    src := fun i => .val (BitVec.ofNat 8 ((fieldHi c).toNat / 2 ^ (8 * (i % 2 ^ (cbits c 192 2)))))
    dst := fun i => i }

/-- GATH's move (R119): row bytes from the table, packed. -/
def gathMove (c : Cmd) (idx : List Nat) : Move :=
  let row := cbits c 194 16
  { n := idx.length * row
    src := fun i => .at_ (fieldLo c + BitVec.ofNat 64 (idx.getD (i / row) 0 * cbits c 212 32 + i % row))
    dst := fun i => i }

/-- SCAT's move (R119): packed rows, which must lie in the issuer's own slice, to the table. -/
def scatMove (c : Cmd) (idx : List Nat) : Move :=
  let row := cbits c 194 16
  { n := idx.length * row
    src := fun i => .at_ (fieldHi c + BitVec.ofNat 64 i)
    dst := fun i => idx.getD (i / row) 0 * cbits c 212 32 + i % row
    slice := true }

/-- The bytes of a GPAGE page (R122). -/
def pageBytes (c : Cmd) : Nat := 2 ^ (cbits c 186 4 + 6)

/-- GPAGE's move (R122): pages in order; an entry of all ones is a page of zeros. -/
def pageMove (c : Cmd) (ents : List Nat) : Move :=
  let p := pageBytes c
  { n := ents.length * p
    src := fun i =>
      let e := ents.getD (i / p) 0
      if e = 2 ^ 64 - 1 then .val 0 else .at_ (BitVec.ofNat 64 (e + i % p))
    dst := fun i => i }

/-- Chunk `j` of an XLOOP (R106). -/
def chunkMove (c : Cmd) (j : Nat) : Move :=
  let chunk := cbits c 160 24
  { n := chunk
    src := fun i => .at_ (fieldLo c + BitVec.ofNat 64 (j * cbits c 220 24 + i))
    dst := fun i => j % (cbits c 184 4 + 1) * chunk + i }

/-! ## Moving bytes -/

/-- The access of an engine's source (R24, R44). DEDUCED (log 62). -/
def engRead (k : Nat) (m : EngCmd) : Acc := { core := k, priv := m.priv, kind := .engRead, own := true }
/-- The access of an engine's destination (R44). -/
def engWrite (k : Nat) (m : EngCmd) : Acc := { core := k, priv := m.priv, kind := .engWrite }

/-- What work of a command comes to: it goes on from a state, it met a fault, or it waits for an answer. -/
inductive Work where
  | go (s : State) (m : EngCmd)
  | fault (s : State) (cause : Nat) (va : Word)
  | wait (s : State) (m : EngCmd)
  deriving DecidableEq, Repr

/-- A reason to stop, as an engine meets it (R44): an access under DUP is a protection violation (R72). -/
def stopWork (s : State) (x : Stop) : Work :=
  match x with
  | .fault cause va => .fault s cause va
  | .ecc key va => .fault (noteDouble s key) (eccOf key) va
  | .token va => .fault s faultProt va

/-- A command reaches an out-of-range byte (R132): the offence is recorded in the context that issued it, and ADDR becomes the lowest
such byte of the command. It is dropped where that context is FREE or has been started again, which the rule does not say.
DESIGN CHOICE (log 76). -/
def noteCmdOor (s : State) (m : EngCmd) (va : Option Word) : State :=
  let c := getCtx s m.ctx
  match va with
  | none => s
  | some a =>
    if c.st = .free ∨ c.start ≠ m.start then s
    else if bits c.oor 63 1 = 0 then
      setCtx s m.ctx { c with oor := BitVec.ofNat 64 (2 ^ 63 + 3 * 2 ^ 61 + a.toNat % 2 ^ 48), oorBy := some m.uid }
    else if c.oorBy = some m.uid ∧ a.toNat % 2 ^ 48 < bits c.oor 0 48 then
      setCtx s m.ctx { c with oor := BitVec.ofNat 64 (2 ^ 63 + 3 * 2 ^ 61 + a.toNat % 2 ^ 48) }
    else s

/-- Bytes read for a command (R24): `f` goes on with them. -/
def engBytes (s : State) (k : Nat) (e : Engine) (m : EngCmd) (a : Acc) (vas : List Word) (f : State → EngCmd → List Byte → Work) : Work :=
  let a := { a with eng := some e }
  match readBytes s a m.answers vas with
  | .stop x => stopWork s x
  | .far locs =>
    let (s1, tag) := askFar s (.cmd k e m.uid) (launchOf s k) .engRead (farPiece s locs) [] none none
    .wait s1 { m with farTag := some tag }
  | .bytes bs => f (noteCmdOor (noteAccess s a vas false) m (oorOf s a vas)) m bs

/-- The values of a unit, the bytes read taken in order. -/
def unitVals (l : List Src) (bs : List Byte) : List Byte :=
  match l with
  | [] => []
  | .val b :: t => b :: unitVals t bs
  | .at_ _ :: t => bs.headD 0 :: unitVals t bs.tail

/-- The transfer of a command to a node, where one has begun (R63). -/
def pushTo (s : State) (k : Nat) (e : Engine) (m : EngCmd) (node : Nat) : Option FarReq :=
  s.fars.find? (fun f => f.push && f.who == .cmd k e m.uid && f.node == node)

/-- A transfer of a command to a node begun: the state, the command, which waits for it, its tag. -/
def openPush (s : State) (k : Nat) (e : Engine) (m : EngCmd) (node : Nat) : State × EngCmd × Nat :=
  let f : FarReq :=
    { tag := s.uid, who := .cmd k e m.uid, kind := .engWrite, vas := [], node := node, launch := launchOf s k, since := nowNs s, push := true }
  ({ s with uid := s.uid + 1, fars := s.fars ++ [f] }, { m with out := m.out + 1 }, s.uid)

/-- Bytes of a command's destination that lie at other modules (R65, R71, R103): a push to the node, in order where the command has ORD
or the leaf OB = 1; or a NONE-state access sent to the home of the region. DEDUCED (log 36). -/
def pushFar (fuel : Nat) (s : State) (k : Nat) (e : Engine) (m : EngCmd) (cells : List (Word × Byte)) (locs : List (Word × Loc)) :
    State × EngCmd :=
  match fuel with
  | 0 => (s, m)
  | fuel + 1 =>
    match locs with
    | [] => (s, m)
    | x :: _ =>
      let piece := farPiece s locs
      let rest := locs.filter (fun y => !(piece.contains y))
      let val := fun (va : Word) => ((cells.reverse.find? (fun c => c.1 == va)).map (·.2)).getD 0
      match x.2 with
      | .peer node _ ob =>
        let (s1, m1, tag) := (match pushTo s k e m node with
          | some f => (s, m, f.tag)
          | none => openPush s k e m node)
        let first := ((s1.fars.find? (fun f => f.tag == tag)).map (·.vas.length)).getD 0
        let s2 := { s1 with fars := s1.fars.map (fun f => if f.tag = tag then { f with vas := f.vas ++ piece.map (fun y => y.1.toNat) } else f) }
        let body := Body.pushMem k tag (launchOf s2 k) 0 first (piece.map (fun y => (farAddr y.1 y.2, val y.1)))
        pushFar fuel (sendBy s2 (launchOf s2 k) m.ctx { mkPacket s2 1 node 0 body with ord := ordOf m.word || ob }) k e m1 cells rest
      | _ =>
        let (s1, _) := askFar s (.cmd k e m.uid) (launchOf s k) .engWrite piece (piece.map (fun y => val y.1)) none none
        pushFar fuel s1 k e { m with out := m.out + 1 } cells rest

/-- The last packet of each transfer of a command: it says how many bytes the transfer has (R63). DEDUCED (log 36). -/
def closePushes (s : State) (k : Nat) (e : Engine) (m : EngCmd) : State :=
  (s.fars.filter (fun f => f.push && f.who == .cmd k e m.uid && !f.vas.isEmpty)).foldl (fun st f =>
    sendBy st (launchOf st k) m.ctx
      { mkPacket st 1 f.node 0 (.pushMem k f.tag (launchOf st k) f.vas.length f.vas.length []) with ord := ordOf m.word }) s

/-- The bytes of an access that some byte of memory takes. DEDUCED (log 35). -/
def inRange (s : State) (a : Acc) (vas : List Word) : Nat := vas.countP (fun va => resolve s a va != .oor)

/-- One unit of a move: to the bytes of the booking, or to the addresses from `base` on. -/
def moveUnit (s : State) (k : Nat) (e : Engine) (m : EngCmd) (v : Move) (base : Option Word) (off : Nat) : Work :=
  let ix := (List.range (min 256 (v.n - 256 * m.pos))).map (fun i => 256 * m.pos + i)
  let srcs := ix.map v.src
  let vas := srcs.filterMap (fun x => match x with | .at_ va => some va | .val _ => none)
  engBytes s k e m { engRead k m with slice := v.slice } vas (fun s0 m0 bs =>
    let vals := unitVals srcs bs
    let m1 := { m0 with pos := m0.pos + 1, answers := [], farTag := none }
    match base with
    | none => .go s0 { m1 with buf := m1.buf ++ (ix.zip vals).map (fun p => (off + v.dst p.1, p.2)) }
    | some b =>
      let cells := (ix.zip vals).map (fun p => (b + BitVec.ofNat 64 (v.dst p.1), p.2))
      let dsts := cells.map (·.1)
      let a := { engWrite k m with eng := some e }
      let note := fun st => noteCmdOor (noteAccess st a dsts true) m (oorOf s0 a dsts)
      match writeBytes s0 a cells with
      | .stop x => stopWork s0 x
      | .done s1 => .go (note s1) { m1 with moved := m1.moved + inRange s0 a dsts }
      | .far locs s1 =>
        let (s2, m2) := pushFar locs.length (note s1) k e m1 cells locs
        .go s2 { m2 with moved := m2.moved + (inRange s0 a dsts - locs.length) })

/-! ## Whose turn it is (R85) -/

/-- A command waits for the answer of a remote access. -/
def awaits (s : State) (m : EngCmd) : Bool :=
  match m.farTag with
  | some t => s.fars.any (fun f => f.tag == t)
  | none => false

/-- An XLOOP may go on with its chunk (R107): it has begun it, or a stage is free; and it has the leave it needs. -/
def loopMay (m : EngCmd) : Bool :=
  (decide (0 < m.pos) || decide (m.fill < cbits m.word 184 4 + 1 + m.rel)) && (decide (leaveUnits m = 0) || decide (m.grant ≠ 0))

/-- A queue has work for its engine now. -/
def hasWork (s : State) (k : Nat) (e : Engine) : Bool :=
  match (getQ s k e).cmds.find? (fun m => m.phase == 2) with
  | some m =>
    launchLive s k && !awaits s m && (decide (copOf m.word ≠ 0x21) || loopMay m) && (decide (copOf m.word ≠ 0x31) || decide (m.out = 0))
  | none =>
    launchRuns s k &&
      (match turnCmd s k e with
       | some m => decide (leaveUnits m = 0 ∨ 0 < m.grant)
       | none => false)

/-- The cores whose queues one engine serves, from the one after the last served on, round robin: of an octet for the copy engine, of a
cluster for the gather engine (R19, R20, R85). The first round begins at the core after the first. DESIGN CHOICE (log 30). -/
def roundOf (s : State) (k : Nat) (e : Engine) : List Nat :=
  if e = .cpe then (List.range 8).map (fun i => k / 8 * 8 + ((getOct s (octOf k)).cpeLast + 1 + i) % 8)
  else (List.range 48).map (fun i => k / 48 * 48 + ((getClus s (clusOf k)).gteLast + 1 + i) % 48)

/-- The queue of a core is the next that its engine serves. -/
def inTurn (s : State) (k : Nat) (e : Engine) : Bool := (roundOf s k e).find? (fun j => hasWork s j e) == some k

/-- The queue of a core has been served. -/
def served (s : State) (k : Nat) (e : Engine) : State :=
  if e = .cpe then setOct s (octOf k) { getOct s (octOf k) with cpeLast := k % 8 }
  else setClus s (clusOf k) { getClus s (clusOf k) with gteLast := k % 48 }

/-- A command whose turn it is, of a COP. -/
def turnWork (s : State) (k : Nat) (e : Engine) (cop : Nat) : Option EngCmd := if inTurn s k e then workCmd s k e cop else none

/-! ## Phases of a copy -/

/-- Bytes of a pitch in packets of at most 4 KiB, each within one aligned block of that size (R54). -/
def blocksOf (cells : List (Nat × Byte)) : List (List (Nat × Byte)) :=
  ((cells.map (fun c => c.1 / packetBytes)).eraseDups).map (fun b => cells.filter (fun c => c.1 / packetBytes == b))

/-- The packets of a transfer into a booking (R54, R103, R114): every byte by its peg; the pegs of which `arrives` says so arrive.
DEDUCED (log 36). -/
def pegPackets (s : State) (launch : Option Nat) (core tag : Nat) (id : BookId) (ord : Bool) (who : Option Nat) (arrives : Nat → Bool)
    (cells : List (Nat × Byte)) : State :=
  let sz := 2 ^ (bookSize id + 6)
  ((cells.map (fun c => c.1 / sz)).eraseDups).foldl (fun st g =>
    let mine := cells.filter (fun c => c.1 / sz == g)
    (blocksOf mine).foldl (fun st b =>
      let p := { mkPacket st 1 (idNode id) ((idCore id).getD 0)
          (.pushPeg core tag launch id g mine.length cells.length (arrives g) false b) with ord := ord }
      match who with
      | some x => sendBy st launch x p
      | none => sendPacket st launch p) st) s

/-- The pegs of a command's booking pushed (R103, R114); the booking remembers them. DEDUCED (log 36). -/
def pushPegs (s : State) (k : Nat) (e : Engine) (m : EngCmd) (id : BookId) : State × EngCmd :=
  let (s1, m1, tag) := openPush s k e m (idNode id)
  let s2 := pegPackets s1 (launchOf s1 k) k tag id (ordOf m.word) (some m.ctx) (fun _ => true) m.buf
  let c := getCore s2 k
  (setCore s2 k { c with books := c.books.map (fun b =>
    if b.id = id then { b with pushed := b.pushed ++ (m.buf.map (fun c => c.1 / 2 ^ (bookSize id + 6))).eraseDups, open_ := b.open_ ++ [m.uid] } else b) },
   { m1 with buf := [] })

/-- Every source byte is read: the command becomes outstanding and gives back its leave (R86, R123). -/
def toOutstanding (s : State) (k : Nat) (e : Engine) (m : EngCmd) : State :=
  setCmd (dropLeave s k m) k e { m with phase := 3, grant := 0, answers := [], farTag := none }

/-- A move whose every unit is done: its booking is pushed, its transfers are closed (R63, R86, R103). -/
def endMove (s : State) (k : Nat) (e : Engine) (m : EngCmd) (book : Option BookId) : State :=
  match book with
  | some b => let (s1, m1) := pushPegs s k e m b; toOutstanding s1 k e m1
  | none => toOutstanding (closePushes s k e m) k e m

/-- The work of one step of a copy or gather command (R44, R85): its outcome in the queue; `f` says what follows work that goes on. -/
def stepWork (k : Nat) (e : Engine) (m : EngCmd) (w : Work) (f : State → EngCmd → State) : State :=
  match w with
  | .fault s1 cause va => raiseFault s1 m.ctx cause va
  | .wait s1 m1 => setCmd s1 k e m1
  | .go s1 m1 => f (served s1 k e) m1

/-- The start offset of a booking's bytes in its pitch (R103). -/
def bookStart (id : BookId) (pegoff : Nat) : Nat := (bookFirst id + pegoff) * 2 ^ (bookSize id + 6)

/-- A unit of a copy of a move, to an address or into a booking. -/
def runMove (s : State) (k : Nat) (e : Engine) (m : EngCmd) (v : Move) (dst : Word) (book : Bool) (pegoff : Nat) : State :=
  let m0 := { m with phase := 2 }
  let off := if book then bookStart dst pegoff else 0
  stepWork k e m (moveUnit s k e m0 v (if book then none else some dst) off) (fun s1 m1 =>
    if v.n ≤ 256 * m1.pos then endMove s1 k e m1 (if book then some dst else none) else setCmd s1 k e m1)

/-- XSEND (R102). -/
def xsend (s : State) (k : Nat) : State :=
  match turnWork s k .cpe 0x20 with
  | some m => runMove s k .cpe m (sendMove m.word) (fieldHi m.word) (decide (cbits m.word 192 4 = 1)) (cbits m.word 196 8)
  | none => s

/-- XSEND (R102). -/
def execXsend (core : Nat) (s : State) : Host.Outcome State Fault Refusal := .next (xsend s core)

/-- XFILL (R109). -/
def xfill (s : State) (k : Nat) : State :=
  match turnWork s k .cpe 0x22 with
  | some m => runMove s k .cpe m (fillMove m.word) (fieldLo m.word) false 0
  | none => s

/-- XFILL (R109). -/
def execXfill (core : Nat) (s : State) : Host.Outcome State Fault Refusal := .next (xfill s core)

/-- Numbers of `n` bytes each from a list of bytes. -/
def numsOf (n cnt : Nat) (bs : List Byte) : List Nat := (List.range cnt).map (fun i => nthElem bs n i)

/-- The index array of GATH, SCAT and GREM read (R119). -/
def readIndices (s : State) (k : Nat) (m : EngCmd) : Work :=
  let n := 2 ^ (cbits m.word 210 2 + 1)
  let cnt := cbits m.word 178 16
  engBytes s k .gte m (engRead k m) (addrs (BitVec.ofNat 64 (cbits m.word 160 18)) (n * cnt)) (fun s1 m1 bs =>
    .go s1 { m1 with idx := some (numsOf n cnt bs), answers := [], farTag := none })

/-- A gather command: it reads what names its rows, then moves a unit a step. -/
def gatherStep (k : Nat) (m : EngCmd) (first : EngCmd → Work) (move : List Nat → State) : State :=
  match m.idx with
  | some idx => move idx
  | none => stepWork k .gte m (first { m with phase := 2 }) (fun s1 m1 => setCmd s1 k .gte m1)

/-- GATH (R119). -/
def gath (s : State) (k : Nat) : State :=
  match turnWork s k .gte 0x30 with
  | some m => gatherStep k m (readIndices s k) (fun idx => runMove s k .gte m (gathMove m.word idx) (fieldHi m.word) false 0)
  | none => s

/-- GATH (R119). -/
def execGath (core : Nat) (s : State) : Host.Outcome State Fault Refusal := .next (gath s core)

/-- SCAT (R119). -/
def scat (s : State) (k : Nat) : State :=
  match turnWork s k .gte 0x33 with
  | some m => gatherStep k m (readIndices s k) (fun idx => runMove s k .gte m (scatMove m.word idx) (fieldLo m.word) false 0)
  | none => s

/-- SCAT (R119). -/
def execScat (core : Nat) (s : State) : Host.Outcome State Fault Refusal := .next (scat s core)

/-- The selections of GPAGE, then the block-table entries that they name, through translation (R122). DEDUCED (log 29). -/
def readPages (s : State) (k : Nat) (m : EngCmd) : Work :=
  let c := m.word
  let cnt := cbits c 178 8 + 1
  let a := engRead k m
  engBytes s k .gte m a (addrs (BitVec.ofNat 64 (cbits c 160 18)) (4 * cnt)) (fun s1 m1 bs =>
    let sels := numsOf 4 cnt bs
    engBytes s1 k .gte m1 { a with own := false } (sels.flatMap (fun n => addrs (fieldLo c + BitVec.ofNat 64 (8 * n)) 8)) (fun s2 m2 cs =>
      .go s2 { m2 with idx := some (numsOf 8 cnt cs), answers := [], farTag := none }))

/-- GPAGE (R122). -/
def gpage (s : State) (k : Nat) : State :=
  match turnWork s k .gte 0x32 with
  | some m =>
    gatherStep k m (readPages s k) (fun ents =>
      runMove s k .gte m (pageMove m.word ents) (fieldHi m.word) (decide (cbits m.word 190 1 = 1)) (cbits m.word 192 8))
  | none => s

/-- GPAGE (R122). -/
def execGpage (core : Nat) (s : State) : Host.Outcome State Fault Refusal := .next (gpage s core)

/-! ## XLOOP (R106, R107) -/

/-- An XLOOP that waits for a release, in which it holds no leave, or for leave (R107). -/
def loopIdle (s : State) (k : Nat) (m : EngCmd) : State :=
  if m.pos = 0 ∧ cbits m.word 184 4 + 1 + m.rel ≤ m.fill then
    (if m.grant ≠ 0 then setCmd (giveBack s (clusOf k) m.grant) k .cpe { m with grant := 0, asked := false } else s)
  else if leaveUnits m ≠ 0 ∧ m.grant = 0 ∧ m.asked = false then
    askLeave (setCmd s k .cpe { m with asked := true }) (clusOf k) (.cmd k m.uid) (leaveUnits m)
  else s

/-- One unit of an XLOOP's chunk, or its wait (R106, R107). -/
def loopStep (s : State) (k : Nat) (m : EngCmd) : State :=
  if loopMay m = false then loopIdle s k m
  else if inTurn s k .cpe = false then s
  else
    let v := chunkMove m.word m.fill
    stepWork k .cpe m (moveUnit s k .cpe m v (some (fieldHi m.word)) 0) (fun s1 m1 =>
      if v.n ≤ 256 * m1.pos then
        let m2 := { m1 with fill := m1.fill + 1, pos := 0 }
        if m2.fill = cbits m.word 188 32 then endMove s1 k .cpe m2 none else setCmd s1 k .cpe m2
      else setCmd s1 k .cpe m1)

/-- XLOOP (R106): it starts, or goes on. -/
def xloop (s : State) (k : Nat) : State :=
  match workCmd s k .cpe 0x21 with
  | some m => if m.phase = 2 ∨ inTurn s k .cpe = true then loopStep s k { m with phase := 2 } else s
  | none => s

/-- XLOOP (R106). -/
def execXloop (core : Nat) (s : State) : Host.Outcome State Fault Refusal := .next (xloop s core)

/-- XLOOP_CHUNK_START (R107): a running XLOOP starts its next chunk. DEDUCED (log 30). -/
def xloopChunk (s : State) (k : Nat) : State :=
  match workCmd s k .cpe 0x21 with
  | some m => if m.phase = 2 ∧ m.pos = 0 then loopStep s k m else s
  | none => s

/-- XLOOP_CHUNK_START (R107). -/
def execXloopChunkStart (core : Nat) (s : State) : Host.Outcome State Fault Refusal := .next (xloopChunk s core)

/-! ## GREM (R120, R121) -/

/-- The page that maps GREM's BASE (R120): its node, the offset of BASE, and the bounds of the page; or the fault. -/
def gremBase (s : State) (k : Nat) (m : EngCmd) : Except Stop (Nat × Nat × Nat × Nat) :=
  let va := (fieldLo m.word).toNat
  if va < 2 ^ 40 ∨ 2 ^ 47 ≤ va then .error (.fault (if va < 2 ^ 40 ∧ (va < 2 ^ 18 ∨ (2 ^ 32 ≤ va ∧ va < 0x180000000) ∨ (0x1000000 ≤ va ∧ va < 0x1C00000)) then faultProt else faultXlate) (fieldLo m.word))
  else
    match translate s { engRead k m with eng := some .gte } (launchRec s k).ptroot va with
    | .fault => .error (.fault faultXlate (fieldLo m.word))
    | .ecc key => .error (.ecc key (fieldLo m.word))
    | .page p =>
      let node := p.pa / 2 ^ 40 % 4096
      if leafOk { engRead k m with own := false } p.ent = false ∨ p.pa / 2 ^ 52 ≠ 2 ∨ bits p.ent 6 1 = 1 ∨ jobNode s node = false then .error (.fault faultProt (fieldLo m.word))
      else .ok (node, p.pa % 2 ^ 39 + va % p.size, p.pa % 2 ^ 39, p.pa % 2 ^ 39 + p.size)

/-- The index array of a remote gather in packets of at most 4 KiB (R54). -/
def gremPackets (s : State) (k : Nat) (m : EngCmd) (idx : List Nat) (node base lo hi : Nat) : State :=
  let c := m.word
  let per := packetBytes / 8
  (List.range ((idx.length + per - 1) / per)).foldl (fun st j =>
    sendBy st (launchOf st k) m.ctx
      { mkPacket st 1 node k (.grem k m.uid (launchOf st k) idx.length (j * per) ((idx.drop (j * per)).take per) base lo hi (cbits c 194 16)
          (cbits c 212 32) (fieldHi c) (ordOf c)) with ord := true }) s

/-- GREM (R120): the indices are read, then they and the page are shipped to the module that owns it; the command runs until that module
reports. -/
def grem (s : State) (k : Nat) : State :=
  match turnWork s k .gte 0x31 with
  | some m =>
    gatherStep k m (readIndices s k) (fun idx =>
      stepWork k .gte m
        (match gremBase s k m with
         | .error x => stopWork s x
         | .ok (node, base, lo, hi) => .go (gremPackets s k m idx node base lo hi) { m with out := 1 })
        (fun s1 m1 =>
          let c := getCore s1 k
          setCmd (setCore s1 k { c with books := c.books.map (fun b =>
            if b.id = fieldHi m.word then { b with open_ := b.open_ ++ [m.uid] } else b) }) k .gte m1))
  | none => s

/-- GREM (R120). -/
def execGrem (core : Nat) (s : State) : Host.Outcome State Fault Refusal := .next (grem s core)

/-- The rows of a remote gather that lie wholly inside the page (R121). -/
def rowOk (idx : List Nat) (base lo hi row rstr i : Nat) : Bool :=
  let o := (base + idx.getD i 0 * rstr) % 2 ^ 64
  decide (lo ≤ o ∧ o + row ≤ hi)

/-- The state with a remote gather replaced. -/
def setGrem (s : State) (g : Grem) : State := { s with grems := s.grems.map (fun x => if x.uid = g.uid then g else x) }

/-- A remote gather reported to its requester (R121), its leave given back. -/
def gremEnd (s : State) (g : Grem) : State :=
  sendPacket { s with grems := s.grems.filter (fun x => x.uid != g.uid) } (g.launch.filter (fun l => kmem s.launches l))
    (mkPacket s 2 g.node g.core (.gremDone g.core g.cmd g.launch g.status g.bytes g.place g.pegs))

/-- The rows of a remote gather read from this module's DRAM and pushed (R120, R121): a row that does not lie in the page is not, and the
pegs that it covers do not arrive. DEDUCED (log 37). -/
def gremRows (s : State) (g : Grem) : State :=
  let sz := 2 ^ (bookSize g.book + 6)
  let start := bookStart g.book 0
  let keyOf := fun i => dramKey ((g.base + g.idx.getD (i / g.row) 0 * g.rstr) % 2 ^ 64 + i % g.row)
  let bad := (List.range g.idx.length).filter (fun i => !rowOk g.idx g.base g.lo g.hi g.row g.rstr i)
  let whole := fun (peg : Nat) => !bad.any (fun i => decide ((start + i * g.row) / sz ≤ peg ∧ peg ≤ (start + i * g.row + g.row - 1) / sz))
  let ix := (List.range (g.idx.length * g.row)).filter (fun i => !bad.contains (i / g.row))
  let s0 := if g.grant = 0 then s else giveBack s g.clus g.grant
  match ix.find? (fun i => poisoned s (keyOf i)) with
  | some i => gremEnd (noteDouble s0 (keyOf i)) { g with status := eccOf (keyOf i), place := i }
  | none =>
    let s1 := noteRead s0 (ix.map keyOf)
    let cells := ix.map (fun i => (start + i, mget s.mem (keyOf i)))
    let h := { g with started := true, grant := 0, left := 1, status := if bad.isEmpty then 0 else 7
                      pegs := ((cells.map (fun c => c.1 / sz)).eraseDups).filter whole }
    if cells.isEmpty then gremEnd s1 h
    else pegPackets (setGrem s1 h) (g.launch.filter (fun l => kmem s.launches l)) g.core g.uid g.book g.ord none whole cells

/-- A part of a remote gather's request enters its record (R120): the engine that reads the rows is one of this module's. -/
def gremTake (s : State) (p : Packet) : State :=
  match p.body with
  | .grem core cmd launch nidx first idx base lo hi row rstr book ord =>
    let same := fun (g : Grem) => g.node == p.src && g.core == core && g.cmd == cmd
    if first = 0 then
      { s with uid := s.uid + 1, nonce := s.nonce + 1
               grems := s.grems ++ [{ uid := s.uid, node := p.src, core := core, cmd := cmd, launch := launch, nidx := nidx, idx := idx,
                                      base := base, lo := lo, hi := hi, row := row, rstr := rstr, book := book, ord := ord,
                                      clus := Config.gatherer s.nonce % 96 }] }
    else { s with grems := s.grems.map (fun g => if same g then { g with idx := g.idx ++ idx } else g) }
  | _ => s

/-- A remote gather whose indices have all come and whose rows are not read. -/
def gremReady (g : Grem) : Bool := !g.started && decide (g.nidx ≤ g.idx.length)

/-- Whether a packet asks for a remote gather. -/
def isGrem (p : Packet) : Bool := match p.body with | .grem _ _ _ _ _ _ _ _ _ _ _ _ _ => true | _ => false

/-- GREM_REMOTE_GATHER (R120, R121, R123): the `n`-th of the gathers whose request is here, which asks for the leave it needs at the
governor of its engine and reads its rows once it has it; after them, the next packet of a request. DEDUCED (log 37). -/
def gremGather (s : State) (n : Nat) : State :=
  let ready := s.grems.filter gremReady
  match ready[n]? with
  | some g =>
    if g.idx.length * g.row < 65536 ∨ 0 < g.grant then gremRows s g
    else if g.asked then s
    else askLeave (setGrem s { g with asked := true }) g.clus (.grem g.uid) 8
  | none =>
    match takeOrdered s ordBefore isGrem (n - ready.length) with
    | none => s
    | some (p, s1) => gremTake s1 p

/-- GREM_REMOTE_GATHER (R121). -/
def execGremRemoteGather (n : Nat) (s : State) : Host.Outcome State Fault Refusal := .next (gremGather s n)

/-! ## Notices (R63) -/

/-- ARRIVAL_NOTICE (R63): the `n`-th transfer whose bytes have all come is reported to its sender. -/
def arrivalNotice (s : State) (n : Nat) : State :=
  match lfindN (fun x => decide (x.total ≠ 0 ∧ x.total ≤ x.got)) s.xfers n with
  | some (i, x) =>
    let s1 := { s with xfers := ldel s.xfers i }
    sendPacket s1 (x.launch.filter (fun l => kmem s.launches l))
      (mkPacket s1 2 x.node x.core (.done x.core x.tag x.launch x.status x.bytes x.place))
  | none => s

/-- ARRIVAL_NOTICE (R63). -/
def execArrivalNotice (n : Nat) (s : State) : Host.Outcome State Fault Refusal := .next (arrivalNotice s n)

/-- The packets of a transfer are no longer waited for. -/
def dropPush (s : State) (tag : Nat) : State :=
  { s with sent := s.sent.filter (fun x => match x.pkt.body with
      | .pushPeg _ t _ _ _ _ _ _ _ _ => t != tag | .pushMem _ t _ _ _ _ => t != tag | _ => true) }

/-- A transfer of command `uid` of a core is over, with a status and the bytes written (R63, R89); an ECC code is a fault at the address
given (R44). -/
def ackCmd (s : State) (k : Nat) (e : Engine) (uid status bytes : Nat) (fva : Word) : State :=
  match findCmd s k e uid with
  | some m =>
    if 16 ≤ status then raiseFault s m.ctx status fva
    else setCmd s k e { m with out := m.out - 1, moved := m.moved + bytes, status := if m.status = 0 then status else m.status }
  | none => s

/-- The pushes of a remote gather are over (R121): it is reported. -/
def ackGrem (s : State) (g : Grem) (status bytes place : Nat) : State :=
  gremEnd s { g with bytes := bytes, place := place, status := if status ≠ 0 then status else g.status
                     pegs := if status = 0 then g.pegs else [] }

/-- A transfer over, or lost with status 3 (R63, R83). -/
def ackPush (s : State) (tag status bytes place : Nat) : State :=
  match s.grems.find? (fun g => g.uid == tag) with
  | some g => ackGrem (dropPush s tag) g status bytes place
  | none =>
    match s.fars.find? (fun f => f.push && f.tag == tag) with
    | some f =>
      let s1 := dropPush { s with fars := s.fars.filter (fun g => g.tag != tag) } tag
      (match f.who with
       | .cmd k e uid => ackCmd s1 k e uid status bytes (BitVec.ofNat 64 (if f.vas.isEmpty then place else f.vas.getD place 0))
       | _ => s1)
    | none => s

/-- A remote gather over at its requester (R120, R121): every row is read and every push acknowledged; an ECC code is a fault at the
address of its byte. -/
def gremReport (s : State) (k uid status bytes place : Nat) (pegs : List Nat) : State :=
  let s0 := { s with sent := s.sent.filter (fun x => match x.pkt.body with | .grem c u _ _ _ _ _ _ _ _ _ _ _ => !(c == k && u == uid) | _ => true) }
  match findCmd s0 k .gte uid with
  | some m =>
    let row := max 1 (cbits m.word 194 16)
    if 16 ≤ status then
      raiseFault s0 m.ctx status (fieldLo m.word + BitVec.ofNat 64 ((m.idx.getD []).getD (place / row) 0 * cbits m.word 212 32 + place % row))
    else
      let c := getCore s0 k
      let s1 := setCore s0 k { c with books := c.books.map (fun b => if b.id = fieldHi m.word then { b with pushed := b.pushed ++ pegs } else b) }
      setCmd s1 k .gte { m with phase := 3, out := 0, moved := m.moved + bytes, status := if m.status = 0 then status else m.status }
  | none => s0

/-- A completion notice. -/
def isDone (p : Packet) : Bool := match p.body with | .done _ _ _ _ _ _ => true | .gremDone _ _ _ _ _ _ _ => true | _ => false

/-- COMPLETION_NOTICE (R63): the `n`-th whose turn it is. -/
def completionNotice (s : State) (n : Nat) : State :=
  match takeOrdered s (fun r _ => isDone r) isDone n with
  | none => s
  | some (p, s1) =>
    match p.body with
    | .done _ tag _ status bytes place => ackPush s1 tag status bytes place
    | .gremDone core uid _ status bytes place pegs => gremReport s1 core uid status bytes place pegs
    | _ => s1

/-- COMPLETION_NOTICE (R63). -/
def execCompletionNotice (n : Nat) (s : State) : Host.Outcome State Fault Refusal := .next (completionNotice s n)

end Sys2Proof.Machine
end

