-- ==== Sys2Proof/Machine/Matrix.lean ====
section
/-!
DEFINITION. The matrix unit (R133, R170-R172, R182-R186, R293-R333): operand rows, block sums and folds, stores, the arbiter and the
gang sequencer, and the commands MMA, MMAQ, MDIST, MTOPK, MVERD, MZERO, MLDACC, MSTACC with MXU_TILE and GANG_START.
-/
namespace Sys2Proof.Machine

/-! ## Fields (R300, R302, R311, R323) -/

/-- M, N, K of a matrix command. -/
def mxM (c : Cmd) : Nat := cbits c 244 7 + 1
def mxN (c : Cmd) : Nat := cbits c 237 7 + 1
def mxK (c : Cmd) : Nat := cbits c 224 13 + 1
/-- Its descriptors AD, BD, OUT and its bank. -/
def mxAD (c : Cmd) : Nat := cbits c 32 64
def mxBD (c : Cmd) : Nat := cbits c 96 64
def mxOUT (c : Cmd) : Nat := cbits c 160 64
def mxAcc (c : Cmd) : Fin 4 := ⟨cbits c 254 2, Nat.mod_lt _ (by decide)⟩
/-- ⌈K/128⌉. -/
def mxBlocks (c : Cmd) : Nat := (mxK c + 127) / 128
/-- A descriptor's VG and SKZ. -/
def descVG (d : Nat) : Bool := decide (d / 2 ^ 60 % 2 = 1)
def descSKZ (d : Nat) : Bool := decide (d / 2 ^ 59 % 2 = 1)
/-- The address of byte `j` of row `i` in block `kb` (R133, R302). -/
def rowAddr (d kb i j : Nat) : Word :=
  let s := d / 2 ^ 61 % 8 * i % 16
  BitVec.ofNat 64 (0x1000000 + d % 2 ^ 24 + 64 * (d / 2 ^ 41 % 2 ^ 18) * kb + i * (16 * (d / 2 ^ 24 % 2 ^ 14))
    + 64 * Nat.xor (j / 64) s + j % 64)

/-- The arithmetic of an MXU mode (R305): block sums, or one product at a time. -/
inductive MxMode where
  | fp8 | int8 | half | full
  deriving DecidableEq, Repr

/-- The mode of a pair of types (R305). -/
def mxMode (a b : ETy) : Option MxMode :=
  let fp8 := fun (t : ETy) => t == .e4m3 || t == .e5m2
  let int := fun (t : ETy) => t == .i8 || t == .n8
  let half := fun (t : ETy) => t == .bf16 || t == .fp16
  if fp8 a && fp8 b then some .fp8
  else if int a && int b then some .int8
  else if half a && half b then some .half
  else if a == .fp32 && b == .fp32 then some .full
  else none

/-- The sum rule of R183, for FP8 and INT8. -/
def blockRule : MxMode → Bool
  | .fp8 => true | .int8 => true | _ => false

/-- AFMT, BFMT, OFMT of a sampled ctl.mfmt (R155). -/
def aType (w : Word) : Option ETy := etyOf (w.setWidth 4)
def bType (w : Word) : Option ETy := etyOf ((w >>> (4 : Nat)).setWidth 4)
def oType (w : Word) : Option ETy := etyOf ((w >>> (8 : Nat)).setWidth 4)
/-- BLK, where it applies (R306). -/
def mxScaled (m : EngCmd) (mode : MxMode) : Bool := decide (bits m.mfmt 12 1 = 1) && blockRule mode

/-! ## Exact terms (R184-R186) -/

/-- An element of an operand row: zero by R180, abandoned (R182), its value. -/
structure Opnd where
  z  : Bool
  ab : Bool
  v  : FVal
  deriving DecidableEq, Repr

/-- An operand element of a type. -/
def opndOf (t : ETy) (x : Nat) : Opnd :=
  { z := decide (x = 0), ab := t == .fp32 && isAband x
    v := if isFloat t then fval (fmtOf t) x
         else
           let n := decI (isSigned t) 8 x
           .fin (decide (n < 0)) n.natAbs 0 }

/-- The exact product of two values; a NaN and 0·∞ are invalid (R184). -/
def prodV (x y : FVal) : FVal :=
  match x, y with
  | .fin a m e, .fin b n k => .fin (a != b) (m * n) (e + k)
  | _, _ =>
    if anyNan [x, y] then .nan (anySig [x, y])
    else if isZero x || isZero y then .nan true
    else .inf (negOf x != negOf y)

/-- The exact squared difference of two values (R186). -/
def distV (x y : FVal) : FVal :=
  match x, y with
  | .fin a m e, .fin b n k =>
    let d := dyAdd (dyOf a m e) (dyNeg (dyOf b n k))
    .fin false (d.n.natAbs * d.n.natAbs) (2 * d.e)
  | .inf a, .inf b => if a = b then .nan true else .inf false
  | _, _ => if anyNan [x, y] then .nan true else .inf false

/-- A binary32 result of the unit: its encoding, flags, whether a rounding was flushed, whether an input was abandoned. -/
structure El where
  w  : Nat
  flags : Nat := 0
  fl : Bool := false
  ab : Bool := false
  deriving DecidableEq, Repr

/-- FLUSH(RNE32(·)) of a rounded result, with the flags of R184 (R170). -/
def mxFlush (r : FRes) : El :=
  let f := flush32 r.w
  { w := f.1, flags := (r.flags &&& (flagNV + flagOF)) ||| (if f.2 then flagUFL else 0), fl := f.2 }

/-- The marks of two results joined on the encoding of the second. -/
def elThen (a b : El) : El := { w := b.w, flags := a.flags ||| b.flags, fl := a.fl || b.fl, ab := a.ab || b.ab }

/-- The canonical NaN of an element that read an abandoned value (R182). -/
def elAband (a : El) : El := { a with w := canonNan fmt32, ab := true }

/-- acc + t rounded once and flushed, `t` exact (R183, R185). -/
def accAdd (acc : Nat) (t : FVal) : El := mxFlush (addV fmt32 .rne 0 (fval fmt32 acc) t)

/-- A NaN term sets NV (R184). -/
def invalidNan : FVal → FVal
  | .nan _ => .nan true
  | v => v

/-- P of a block (R183, R184). -/
def blockSum (ts : List FVal) : El :=
  if anyNan ts || (ts.contains (.inf true) && ts.contains (.inf false)) then { w := canonNan fmt32, flags := flagNV }
  else if ts.contains (.inf true) then { w := infBits fmt32 true }
  else if ts.contains (.inf false) then { w := infBits fmt32 false }
  else mxFlush (roundDy fmt32 .rne 0 (ts.foldl (fun d t => dyAdd d (dyVal t)) { n := 0, e := 0 }) false)

/-- The terms of an element in a block (R180, R310): products, or squared differences; those skipped are left out. -/
def mxTerms (dist skA skB : Bool) (a b : List Opnd) : List (FVal × Bool) :=
  ((a.zip b).filter (fun p => dist || !((skA && p.1.z) || (skB && p.2.z)))).map
    (fun p => (if dist then distV p.1.v p.2.v else prodV p.1.v p.2.v, p.1.ab || p.2.ab))

/-- A block folded into an element by R183, its scale given. -/
def foldBlock (acc : Nat) (sc : El) (ts : List (FVal × Bool)) : El :=
  let p := blockSum (ts.map (·.1))
  let e := elThen p sc
  if isAband acc || sc.ab then elAband e
  else elThen e (accAdd acc (prodV (fval fmt32 p.w) (fval fmt32 sc.w)))

/-- A block folded into an element by R185. -/
def foldEach (acc : Nat) (ts : List (FVal × Bool)) : El :=
  ts.foldl (fun e t => if isAband e.w || t.2 then elAband e else elThen e (accAdd e.w (invalidNan t.1))) { w := acc }

/-- s of R183: sa·sb rounded and flushed. -/
def scaleOf (sa sb : Nat) : El :=
  if isAband sa || isAband sb then { w := canonNan fmt32, ab := true }
  else mxFlush (mulV fmt32 .rne 0 (fval fmt32 sa) (fval fmt32 sb))

/-- s = 1, the encoding of one (R183). -/
def scaleOne : El := { w := 0x3F800000 }

/-! ## Banks (R297) -/

/-- A bank of an octet. -/
def mxBank (s : State) (o : Nat) (b : Fin 4) : Bank := (getOct s o).banks[b]
/-- The state with a bank replaced. -/
def mxPut (s : State) (o : Nat) (b : Fin 4) (x : Bank) : State :=
  setOct s o { getOct s o with banks := (getOct s o).banks.set b x }
/-- Element (i, j) of a bank. -/
def accGet (b : Bank) (i j : Nat) : Nat := (kget 0 b.acc (128 * i + j)).toNat
/-- Element (i, j) written; one equal to +0 is not listed. -/
def accSet (b : Bank) (i j w : Nat) : Bank :=
  { b with acc := if w = 0 then kdel b.acc (128 * i + j) else kset b.acc (128 * i + j) (BitVec.ofNat 32 w) }
/-- Rows 0 to M-1, columns 0 to N-1 of a bank set to +0. -/
def accZero (b : Bank) (m n : Nat) : Bank :=
  { b with acc := b.acc.filter (fun p => !(decide (p.1 / 128 < m ∧ p.1 % 128 < n))) }
/-- A command may use a bank: it is free or claimed by the launch of the core (R297). -/
def bankFree (s : State) (k o : Nat) (b : Fin 4) : Bool :=
  match (mxBank s o b).owner with
  | none => true
  | some l => launchOf s k == some l
/-- The monitor state of a command on a bank (R326). -/
def monOf (b : Bank) (uid : Nat) : Monitor := kget {} b.mons uid
/-- The bank with that state replaced. -/
def setMon (b : Bank) (uid : Nat) (x : Monitor) : Bank := { b with mons := kset b.mons uid x }

/-- Rows 0 to M-1, columns 0 to N-1 of a bank accessed by a tile, which overwrites them where `wr` (R299): a single-bit error in a pair
that it reads is corrected and counted for the cluster; one that cannot be corrected is a fault (none); a pair overwritten whole loses
its error. -/
def bankScan (s : State) (o : Nat) (b : Fin 4) (m n : Nat) (wr : Bool) : Option State :=
  let x := mxBank s o b
  let inside := fun (e : Nat) => decide (e / 128 < m ∧ e % 128 < n)
  let met := fun (p : Nat) => inside (2 * p) || inside (2 * p + 1)
  let found := x.errs.filter (fun e => met e.1 && !(wr && inside (2 * e.1) && inside (2 * e.1 + 1)))
  if x.errs.isEmpty then some s
  else if found.any (fun e => e.2) then none
  else some (countUp (mxPut s o b { x with errs := x.errs.filter (fun e => !met e.1) }) (0x040000 + 16 * (o / 6)) found.length)

/-- The bank claimed for the launch of a core (R297). -/
def claimBank (s : State) (k o : Nat) (b : Fin 4) : State := mxPut s o b { mxBank s o b with owner := launchOf s k }

/-- The octet of piece `p` of a command of a core (R311). -/
def pieceOct (k p : Nat) : Nat := clusOf k * 6 + (octOf k % 6 + p) % 6
/-- The pieces MP × NP of a command (R311). -/
def mxSpan (c : Cmd) : Nat × Nat := if copOf c = 0x11 then spanOf (cbits c 251 3) else (1, 1)

/-! ## Reading operands and scales (R302, R304, R306) -/

/-- The access of the unit to scratchpad (R302, R131). -/
def mxRead (k : Nat) (m : EngCmd) : Acc := { core := k, priv := m.priv, kind := .engRead }

/-- Row `i` of rows of `n` bytes. -/
def rowBytes (bs : List Byte) (n i : Nat) : List Byte := (bs.drop (n * i)).take n

/-- The elements of a row of `n` bytes. -/
def rowOpnds (t : ETy) (bs : List Byte) : List Opnd :=
  let w := tyWidth t / 8
  (List.range (bs.length / w)).map (fun e => opndOf t (natOfBytes ((bs.drop (w * e)).take w)))

/-- The rows of an operand in block `kb` read: from registers captured at ENQ, or from scratchpad; `f` goes on with them. -/
def withRows (s : State) (k : Nat) (m : EngCmd) (d : Nat) (caps : List Vec) (t : ETy) (kb len : Nat) (rows : List Nat)
    (f : State → EngCmd → List (List Opnd) → Work) : Work :=
  let n := len * (tyWidth t / 8)
  if descVG d then
    let bs := caps.flatMap bytesOfVec
    f s m (rows.map (fun i => rowOpnds t ((bs.drop (128 * (tyWidth t / 8) * i)).take n)))
  else
    engBytes s k .mxu m (mxRead k m) (rows.flatMap (fun i => (List.range n).map (fun j => rowAddr d kb i j))) (fun s1 m1 bs =>
      f s1 m1 ((List.range rows.length).map (fun r => rowOpnds t (rowBytes bs n r))))

/-- The registers captured for A and for B (R304). -/
def capsA (m : EngCmd) : List Vec :=
  if descVG (mxAD m.word) then m.caps.take (mxM m.word * (2 * (tyWidth ((aType m.mfmt).getD .i8) / 8))) else []
def capsB (m : EngCmd) : List Vec :=
  if descVG (mxAD m.word) then m.caps.drop (mxM m.word * (2 * (tyWidth ((aType m.mfmt).getD .i8) / 8))) else m.caps

/-- The block scales of rows `rows` and column piece `c` read (R306). -/
def withScales (s : State) (k : Nat) (m : EngCmd) (mode : MxMode) (kb c : Nat) (rows : List Nat)
    (f : State → EngCmd → List El → Work) : Work :=
  if mxScaled m mode = false then f s m (rows.map (fun _ => scaleOne))
  else
    let at4 := fun (base : Word) (n : Nat) => addrs (base + BitVec.ofNat 64 (4 * n)) 4
    let vas := at4 m.bscale (4 * kb + c) ++ rows.flatMap (fun i => at4 m.ascale (256 * kb + i))
    match vas.find? (fun va => decide (2 ^ 40 ≤ va.toNat ∧ va.toNat < 2 ^ 47)) with
    | some va => .fault s faultProt va
    | none =>
      engBytes s k .mxu m (mxRead k m) vas (fun s1 m1 bs =>
        let ws := numsOf 4 (rows.length + 1) bs
        f s1 m1 (ws.tail.map (fun sa => scaleOf sa (ws.headD 0))))

/-! ## Results -/

/-- A number added to a list that holds it once. -/
def addOnce (l : List Nat) (n : Nat) : List Nat := if l.contains n then l else n :: l

/-- The marks of element (I, J) of a command's result kept in the command (R158, R171, R182). -/
def noteEl (m : EngCmd) (i j : Nat) (e : El) : EngCmd :=
  { m with
    flags := m.flags ||| e.flags
    flushed := if e.fl then addOnce m.flushed (384 * i + j) else m.flushed
    abands := if e.ab then addOnce m.abands (384 * i + j) else m.abands }

/-- One element of a bank, as a store converts it (R307). -/
def storeEl (t : ETy) (w : Nat) : El :=
  if t = .fp32 then { w := w }
  else
    let x := if isAband w then canonNan fmt32 else w
    let r := if isFloat t then cvtFF fmt32 (fmtOf t) .rne 0 x
      else cvtVI (isSigned t) (tyWidth t) .rne 0 (fval fmt32 x)
    { w := r.w, flags := r.flags &&& (flagNV + flagOF), ab := isAband w }

/-- Bytes written through a descriptor of the unit. -/
def mxWrite (s : State) (k : Nat) (m : EngCmd) (cells : List (Word × Byte)) (f : State → Work) : Work :=
  let a := { engWrite k m with eng := some .mxu }
  match writeBytes s a cells with
  | .stop x => stopWork s x
  | .done s1 => f (noteAccess s1 a (cells.map (·.1)) true)
  | .far _ s1 => f s1

/-- The rows `rows` of the whole result stored through OUT in OFMT, in order (R307, R310, R316). -/
def storeRows (s : State) (k : Nat) (m : EngCmd) (t : ETy) (rows : List Nat) : Work :=
  match rows with
  | [] => .go s m
  | row :: rest =>
    let c := m.word
    let n := mxN c
    let np := (mxSpan c).2
    let els := (List.range (np * n)).map (fun j =>
      storeEl t (accGet (mxBank s (pieceOct k (np * (row / mxM c) + j / n)) (mxAcc c)) (row % mxM c) (j % n)))
    let bs := els.flatMap (fun e => bytesOfNat (tyWidth t / 8) e.w)
    let cells := (List.range bs.length).zip bs |>.map (fun p => (rowAddr (mxOUT c) 0 row p.1, p.2))
    let m1 := ((List.range els.length).zip els).foldl (fun mm p => noteEl mm row p.1 p.2) m
    mxWrite s k m cells (fun s1 => storeRows s1 k { m1 with moved := m1.moved + bs.length } t rest)

/-- The result of a command stored through OUT. -/
def storeAll (s : State) (k : Nat) (m : EngCmd) : Work :=
  match oType m.mfmt with
  | some t => storeRows s k m t (List.range ((mxSpan m.word).1 * mxM m.word))
  | none => .go s m

/-! ## MMA, MMAQ, MDIST (R310) -/

/-- The tile of block `m.pos` for piece `p`: every element of the piece takes the block (R298, R310). -/
def mmTile (s : State) (k : Nat) (m : EngCmd) (p : Nat) : Work :=
  match aType m.mfmt, bType m.mfmt with
  | some ta, some tb =>
    match mxMode ta tb with
    | none => .go s m
    | some mode =>
      let c := m.word
      let kb := m.pos
      let r := p / (mxSpan c).2
      let col := p % (mxSpan c).2
      let len := min 128 (mxK c - 128 * kb)
      let is := (List.range (mxM c)).map (fun i => r * mxM c + i)
      let js := (List.range (mxN c)).map (fun j => col * mxN c + j)
      let dist := decide (copOf c = 0x12)
      let o := pieceOct k p
      withRows s k m (mxAD c) (capsA m) ta kb len is (fun s1 m1 as =>
        withRows s1 k m1 (mxBD c) (capsB m) tb kb len js (fun s2 m2 bs =>
          withScales s2 k m2 mode kb col is (fun s3 m3 scs =>
            match bankScan s3 o (mxAcc c) (mxM c) (mxN c) (decide (kb = 0 ∧ cbits c 9 1 = 1)) with
            | none => .fault s3 (faultEcc 2) 0
            | some s4 =>
            let b0 := if kb = 0 ∧ cbits c 9 1 = 1 then accZero (mxBank s4 o (mxAcc c)) (mxM c) (mxN c) else mxBank s4 o (mxAcc c)
            let els := (List.range (mxM c)).flatMap (fun i => (List.range (mxN c)).map (fun j =>
              let ts := mxTerms dist (descSKZ (mxAD c)) (descSKZ (mxBD c)) (as.getD i []) (bs.getD j [])
              (i, j, if blockRule mode then foldBlock (accGet b0 i j) (scs.getD i scaleOne) ts else foldEach (accGet b0 i j) ts)))
            let b1 := els.foldl (fun b x => accSet b x.1 x.2.1 x.2.2.w) b0
            let m4 := els.foldl (fun mm x => noteEl mm (r * mxM c + x.1) (col * mxN c + x.2.1) x.2.2) m3
            .go (mxPut s4 o (mxAcc c) b1) m4)))
  | _, _ => .go s m

/-- After the last block: the fused store where FIN = 1. -/
def mmEnd (k : Nat) (w : Work) : Work :=
  match w with
  | .go s m => if m.pos = mxBlocks m.word ∧ cbits m.word 10 1 = 1 then storeAll s k m else .go s m
  | w => w

/-- A tile of MMA or MDIST, and the fused store after the last. -/
def mmStep (s : State) (k : Nat) (m : EngCmd) : Work :=
  mmEnd k (match mmTile s k m 0 with
    | .go s1 m1 => .go s1 { m1 with pos := m1.pos + 1 }
    | w => w)

/-! ## MVERD (R320-R333) -/

/-- |x|. -/
def absV : FVal → FVal
  | .inf _ => .inf false
  | .fin _ m e => .fin false m e
  | v => v

/-- x < y, false where either is NaN (R325). -/
def ltNum (x y : FVal) : Bool := !anyNan [x, y] && ltV x y

/-- RUP32 of a sum. -/
def rupAdd (x y : FVal) : FVal := fval fmt32 (addV fmt32 .rup 0 x y).w

/-- The rounding allowance E (R325). -/
def verdE (g : Nat) : FVal := fval fmt32 (mulV fmt32 .rup 0 (fval fmt32 0x35800000) (fval fmt32 g)).w

/-- The threshold as the monitor compares it (R328): the abandoned encoding is −∞. -/
def thresholdV (w : Nat) : FVal := if isAband w then .inf true else fval fmt32 w

/-- The abandon test of a sample: the sign bit to write, where it holds (R325). -/
def verdTest (top : Bool) (acc g sBound theta : Nat) : Option Bool :=
  let a := fval fmt32 acc
  if top then
    (if ltNum (rupAdd (rupAdd a (fval fmt32 sBound)) (verdE g)) (thresholdV theta) then some true else none)
  else if ltNum (rupAdd (fval fmt32 sBound) (verdE g)) (absV a) then some (decide (acc / 2 ^ 31 % 2 = 1))
  else none

/-- The address of byte `b` of the side-table entry of column `j`, position `m` (R322). -/
def sideAddr (c : Cmd) (j m b : Nat) : Word :=
  BitVec.ofNat 64 (0x1000000 + cbits c 160 24 + 16 * (mxBlocks c * j + m) + b)
/-- The address of the threshold cell of row `i` (R323). -/
def thrAddr (c : Cmd) (i : Nat) : Word := BitVec.ofNat 64 (0x1000000 + cbits c 200 24 + 4 * i * cbits c 252 1)

/-- An element of the piece of command `uid` is live. -/
def liveEl (b : Bank) (uid i j : Nat) : Bool := !(monOf b uid).dead.contains (128 * i + j)
/-- The live elements of a command's piece. -/
def liveEls (m : EngCmd) (b : Bank) : List (Nat × Nat) :=
  (List.range (mxM m.word)).flatMap (fun i => ((List.range (mxN m.word)).filter (liveEl b m.uid i)).map (fun j => (i, j)))

/-- The bank as MVERD begins: every element of the piece live, +0, G = +0 (R325). -/
def verdStart (m : EngCmd) (b : Bank) : Bank := setMon (accZero b (mxM m.word) (mxN m.word)) m.uid {}

/-- The bounds S of columns `cols` at a position, and, under TOP-K, the threshold cell of every row (R322, R329). -/
def verdReads (s : State) (k : Nat) (m : EngCmd) (cols : List Nat) (f : State → EngCmd → List Nat → List Nat → Work) : Work :=
  let c := m.word
  let rows := if cbits c 253 1 = 1 then List.range (mxM c) else []
  engBytes s k .mxu m (mxRead k m) (cols.flatMap (fun j => (List.range 4).map (fun x => sideAddr c j m.pos (8 + x)))) (fun s1 m1 sb =>
    engBytes s1 k .mxu m1 (mxRead k m) (rows.flatMap (fun i => (List.range 4).map (fun x => thrAddr c i + BitVec.ofNat 64 x))) (fun s2 m2 tb =>
      f s2 m2 (numsOf 4 cols.length sb) (numsOf 4 rows.length tb)))

/-- The sample before position `m.pos` (R325, R329): abandoned elements take their encoding and leave the live ones.
DESIGN CHOICE (log 6). -/
def verdSample (s : State) (k : Nat) (m : EngCmd) (f : State → EngCmd → Work) : Work :=
  let c := m.word
  let o := octOf k
  let start := fun (x : Bank) => if m.pos = 0 then verdStart m x else x
  let live := liveEls m (start (mxBank s o (mxAcc c)))
  let cols := (List.range (mxN c)).filter (fun j => live.any (fun p => p.2 == j))
  verdReads s k m cols (fun s1 m1 bounds thetas =>
    match bankScan s1 o (mxAcc c) (mxM c) (mxN c) (decide (m.pos = 0)) with
    | none => .fault s1 (faultEcc 2) 0
    | some s2 =>
      let b := start (mxBank s2 o (mxAcc c))
      let bound := fun j => ((cols.zip bounds).find? (fun p => p.1 == j)).elim 0 (·.2)
      let out := live.filterMap (fun p =>
        (verdTest (decide (cbits c 253 1 = 1)) (accGet b p.1 p.2) (kget 0 (monOf b m.uid).g (128 * p.1 + p.2)) (bound p.2)
          (thetas.getD p.1 0)).map (fun sg => (p, sg)))
      let b1 := out.foldl (fun x q =>
        let y := accSet x q.1.1 q.1.2 (b2n q.2 * 2 ^ 31 + 0x7FBF0000 + m.pos)
        setMon y m.uid { monOf y m.uid with dead := (128 * q.1.1 + q.1.2) :: (monOf y m.uid).dead }) b
      f (mxPut s2 o (mxAcc c) b1) (if out.isEmpty then m1 else { m1 with flags := m1.flags ||| flagABD }))

/-- The block number that finds the scales (R322): IDX of column 0 where scales apply. -/
def withIdx (s : State) (k : Nat) (m : EngCmd) (mode : MxMode) (f : State → EngCmd → Nat → Work) : Work :=
  if mxScaled m mode then
    engBytes s k .mxu m (mxRead k m) ((List.range 2).map (sideAddr m.word 0 m.pos)) (fun s1 m1 bs => f s1 m1 (natOfBytes bs))
  else f s m m.pos

/-- The tile at position `m.pos`: only live elements are computed (R325). -/
def verdTile (s : State) (k : Nat) (m : EngCmd) : Work :=
  match aType m.mfmt, bType m.mfmt with
  | some ta, some tb =>
    match mxMode ta tb with
    | none => .go s m
    | some mode =>
      let c := m.word
      let o := octOf k
      let b := mxBank s o (mxAcc c)
      let live := liveEls m b
      let is := (List.range (mxM c)).filter (fun i => live.any (fun p => p.1 == i))
      let js := (List.range (mxN c)).filter (fun j => live.any (fun p => p.2 == j))
      let len := min 128 (mxK c - 128 * m.pos)
      withRows s k m (mxAD c) (capsA m) ta m.pos len is (fun s1 m1 as =>
        withRows s1 k m1 (mxBD c) (capsB m) tb m.pos len js (fun s2 m2 bs =>
          withIdx s2 k m2 mode (fun s3 m3 kb =>
            withScales s3 k m3 mode kb 0 is (fun s4 m4 scs =>
              let pick := fun {α : Type} (l : List Nat) (xs : List α) (d : α) (n : Nat) => ((l.zip xs).find? (fun p => p.1 == n)).elim d (·.2)
              let els := live.map (fun p =>
                let ts := mxTerms false (descSKZ (mxAD c)) (descSKZ (mxBD c)) (pick is as [] p.1) (pick js bs [] p.2)
                let sc := pick is scs scaleOne p.1
                let t := prodV (fval fmt32 (blockSum (ts.map (·.1))).w) (fval fmt32 sc.w)
                let g := (addV fmt32 .rup 0 (fval fmt32 (kget 0 (monOf b m.uid).g (128 * p.1 + p.2))) (absV t)).w
                (p, g, foldBlock (accGet b p.1 p.2) sc ts))
              let b1 := els.foldl (fun x q =>
                let y := accSet x q.1.1 q.1.2 q.2.2.w
                setMon y m.uid { monOf y m.uid with g := kset (monOf y m.uid).g (128 * q.1.1 + q.1.2) q.2.1 }) b
              let m5 := els.foldl (fun mm q => noteEl mm q.1.1 q.1.2 q.2.2) m4
              .go (mxPut s4 o (mxAcc c) b1) { m5 with pos := m5.pos + 1 }))))
  | _, _ => .go s m

/-- A step of MVERD: a sample, and where it leaves a live element the tile (R331). -/
def verdStep (s : State) (k : Nat) (m : EngCmd) : Work :=
  verdSample s k m (fun s1 m1 =>
    if (liveEls m (mxBank s1 (octOf k) (mxAcc m.word))).isEmpty then .go s1 m1 else verdTile s1 k m1)

/-! ## MTOPK, MZERO, MLDACC, MSTACC (R315, R316) -/

/-- The rank of a binary32 encoding, higher first (R315). -/
def topRank (w : Nat) : Int :=
  let neg := decide (w / 2 ^ 31 % 2 = 1)
  if isAband w then (if neg then 2 ^ 34 else 3 * 2 ^ 34)
  else if 0x7F800000 < w % 2 ^ 31 then 0
  else 2 * 2 ^ 34 + (if neg then -((w % 2 ^ 31 : Nat) : Int) - 1 else ((w % 2 ^ 31 : Nat) : Int))

/-- An entry put into a ranked row: behind those of equal rank. -/
def rankIn (x : Nat × Nat) (l : List (Nat × Nat)) : List (Nat × Nat) :=
  match l with
  | [] => [x]
  | y :: t => if topRank y.1 < topRank x.1 then x :: y :: t else y :: rankIn x t

/-- The `k` entries of a row (R315), as 64-bit numbers: value and column. -/
def topRow (vals : List Nat) (k : Nat) : List Nat :=
  let ranked : List (Nat × Nat) := (vals.zip (List.range vals.length)).foldl (fun (l : List (Nat × Nat)) (x : Nat × Nat) => rankIn x l) []
  ((ranked.map (fun (x : Nat × Nat) => x.1 + 2 ^ 32 * x.2)) ++ List.replicate k 0xFFFFFFFFFF800000).take k

/-- MTOPK's rows written in order (R315). -/
def topRows (s : State) (k : Nat) (m : EngCmd) (rows : List Nat) : Work :=
  match rows with
  | [] => .go s m
  | i :: rest =>
    let c := m.word
    let b := mxBank s (octOf k) (mxAcc c)
    let bs := (topRow ((List.range (mxN c)).map (accGet b i)) (mxK c)).flatMap (bytesOfNat 8)
    let cells := (List.range bs.length).zip bs |>.map (fun p => (rowAddr (mxOUT c) 0 i p.1, p.2))
    mxWrite s k m cells (fun s1 => topRows s1 k { m with moved := m.moved + bs.length } rest)

/-- A tile's work on its piece of the bank, once that is found free of errors that cannot be corrected (R299). -/
def scanned (s : State) (k : Nat) (c : Cmd) (wr : Bool) (f : State → Work) : Work :=
  match bankScan s (octOf k) (mxAcc c) (mxM c) (mxN c) wr with
  | none => .fault s (faultEcc 2) 0
  | some s1 => f s1

/-- MTOPK's tile. -/
def topStep (s : State) (k : Nat) (m : EngCmd) : Work :=
  scanned s k m.word false (fun s1 => topRows s1 k { m with pos := 1 } (List.range (mxM m.word)))

/-- The piece of a command's bank set to +0. -/
def zeroPiece (s : State) (k : Nat) (c : Cmd) : State :=
  mxPut s (octOf k) (mxAcc c) (accZero (mxBank s (octOf k) (mxAcc c)) (mxM c) (mxN c))

/-- MZERO's tile. -/
def zeroStep (s : State) (k : Nat) (m : EngCmd) : Work := scanned s k m.word true (fun s1 => .go (zeroPiece s1 k m.word) { m with pos := 1 })

/-- MLDACC's tile. -/
def loadStep (s : State) (k : Nat) (m : EngCmd) : Work :=
  let c := m.word
  let n := mxN c
  engBytes s k .mxu m (mxRead k m)
    ((List.range (mxM c)).flatMap (fun i => (List.range (4 * n)).map (fun j => rowAddr (mxAD c) 0 i j))) (fun s1 m1 bs =>
    scanned s1 k c true (fun s2 =>
      let ws := numsOf 4 (mxM c * n) bs
      let b := ((List.range (mxM c * n)).zip ws).foldl (fun x p => accSet x (p.1 / n) (p.1 % n) p.2) (mxBank s2 (octOf k) (mxAcc c))
      .go (mxPut s2 (octOf k) (mxAcc c) b) { m1 with pos := 1 }))

/-- MSTACC's tile. -/
def storeStep (s : State) (k : Nat) (m : EngCmd) : Work :=
  scanned s k m.word false (fun s0 =>
    match storeAll s0 k { m with pos := 1 } with
    | .go s1 m1 => .go (if cbits m.word 9 1 = 1 then zeroPiece s1 k m.word else s1) m1
    | w => w)

/-! ## The end of a command -/

/-- The tiles of a command (R293). -/
def mxTiles (c : Cmd) : Nat := if copOf c ≤ 0x12 ∨ copOf c = 0x14 then mxBlocks c else 1

/-- The command has run its last tile, or a sample left nothing live (R331). -/
def mxDone (s : State) (k : Nat) (m : EngCmd) : Bool :=
  decide (mxTiles m.word ≤ m.pos)
    || (decide (copOf m.word = 0x14) && (liveEls m (mxBank s (octOf k) (mxAcc m.word))).isEmpty)

/-- ctl.tval of a deferred matrix trap (R171): the tag, how many elements, the first of them. -/
def mxTval (c : Cmd) (els : List Nat) : Word :=
  let e := els.foldl min (els.headD 0)
  BitVec.ofNat 64 (tagOf c * 2 ^ 48 + min els.length 0xFFFF * 2 ^ 32 + e / 384 * 2 ^ 16 + e % 384)

/-- The deferred traps of a command (R171, R172, R182, R326). -/
def mxTraps (s : State) (k : Nat) (m : EngCmd) : List Deferred :=
  let b := mxBank s (octOf k) (mxAcc m.word)
  let fl := if copOf m.word = 0x14 then m.flushed.filter (fun e => liveEl b m.uid (e / 384) (e % 384)) else m.flushed
  (if m.abands.isEmpty then [] else [{ cause := trapAband 1, tval := mxTval m.word m.abands }])
    ++ (if m.fmode && !fl.isEmpty then [{ cause := trapSubn, tval := mxTval m.word fl }] else [])

/-- The monitor state of a command that has ended is kept no longer. -/
def dropMon (s : State) (k : Nat) (m : EngCmd) : State :=
  let b := mxBank s (octOf k) (mxAcc m.word)
  if kmem b.mons m.uid then mxPut s (octOf k) (mxAcc m.word) { b with mons := kdel b.mons m.uid } else s

/-- The state after a tile: the command goes on, or becomes outstanding (R296). -/
def mxSettle (s : State) (k : Nat) (m : EngCmd) : State :=
  if mxDone s k m then setCmd (dropMon s k m) k .mxu { m with phase := 3, answers := [], traps := mxTraps s k m }
  else setCmd s k .mxu { m with answers := [] }

/-! ## The arbiter (R294) -/

/-- The command of a core whose next tile is ready (R294, R297); an MMAQ waits for its gang (R312). -/
def readyTile (s : State) (k : Nat) : Option EngCmd :=
  let m? := match (getQ s k .mxu).cmds.find? (fun m => m.phase == 2) with
    | some m => some m
    | none => turnCmd s k .mxu
  match m?.filter (fun m => decide (0 < m.grant)) with
  | some m => if launchRuns s k && decide (copOf m.word ≠ 0x11) && bankFree s k (octOf k) (mxAcc m.word) then some m else none
  | none => none

/-- The weight of core `i` of an octet (R294). -/
def mxWeight (w : Word) (i : Nat) : Nat := max 1 (bits w (8 * i) 8)

/-- The arbiter's choice (R294): the core's place, with the round as it stands; a round ends when every queue has used its weight or
has been passed over. DEDUCED (log 43). -/
def arbPick (fuel : Nat) (s : State) (o : Nat) (x : Octet) : Option (Nat × Octet) :=
  match fuel with
  | 0 => none
  | fuel + 1 =>
    match x.order with
    | [] =>
      if (List.range 8).any (fun i => (readyTile s (8 * o + i)).isSome) then
        arbPick fuel s o { x with order := (List.range 8).map (fun i => (x.turn + i) % 8), wts := x.mxwt, used := 0 }
      else none
    | i :: rest =>
      if x.used < mxWeight x.wts i ∧ (readyTile s (8 * o + i)).isSome then some (i, x)
      else arbPick fuel s o { x with order := rest, used := 0 }

/-- One tile of a command, by its operation. -/
def tileWork (s : State) (k : Nat) (m : EngCmd) : Work :=
  let cop := copOf m.word
  if cop = 0x14 then verdStep s k m
  else if cop = 0x13 then topStep s k m
  else if cop = 0x15 then zeroStep s k m
  else if cop = 0x16 then loadStep s k m
  else if cop = 0x17 then storeStep s k m
  else mmStep s k m

/-- MXU_TILE (R293, R294): the arbiter grants the next ready tile, which runs to its end; one that only ends a dead command does not
count (R331). DEDUCED (log 43). -/
def mxuTile (s : State) (o : Nat) : State :=
  let x := getOct s o
  if x.stopped then s
  else
    match arbPick 18 s o x with
    | none => s
    | some (i, y) =>
      let k := 8 * o + i
      match readyTile s k with
      | none => s
      | some m =>
        let s1 := claimBank s k o (mxAcc m.word)
        let used := fun (st : State) (n : Nat) =>
          setOct st o { getOct st o with turn := (i + 1) % 8, order := y.order, wts := y.wts, used := y.used + n }
        match tileWork s1 k { m with phase := 2 } with
        | .fault s2 cause va => raiseFault (used s2 1) m.ctx cause va
        | .wait s2 m2 => setCmd s2 k .mxu m2
        | .go s2 m2 => mxSettle (used s2 (if m2.pos = m.pos then 0 else 1)) k m2

/-- MXU_TILE (R294). -/
def execMxuTile (oct : Nat) (s : State) : Host.Outcome State Fault Refusal := .next (mxuTile s oct)

/-- Only this core's queue of the octet has a ready tile, of a command with this operation. -/
def soleReady (s : State) (k cop : Nat) : Option EngCmd :=
  let o := octOf k
  if (List.range 8).all (fun i => 8 * o + i == k || (readyTile s (8 * o + i)).isNone) then
    (readyTile s k).bind (fun m => if copOf m.word = cop then some m else none)
  else none

/-- The tiles of the command `uid` of a core run one after another while no other queue has one ready. -/
def runTiles (fuel : Nat) (s : State) (k cop uid : Nat) : State :=
  match fuel with
  | 0 => s
  | fuel + 1 =>
    match soleReady s k cop with
    | some m => if m.uid = uid then runTiles fuel (mxuTile s (octOf k)) k cop uid else s
    | none => s

/-- A matrix command executed by its unit: what is left of the core's command with this operation. -/
def mxCommand (s : State) (k cop : Nat) : State :=
  match soleReady s k cop with
  | some m => runTiles 66 s k cop m.uid
  | none => s

/-- MMA (R310). -/
def execMma (core : Nat) (s : State) : Host.Outcome State Fault Refusal := .next (mxCommand s core 0x10)
/-- MDIST (R310). -/
def execMdist (core : Nat) (s : State) : Host.Outcome State Fault Refusal := .next (mxCommand s core 0x12)
/-- MTOPK (R315). -/
def execMtopk (core : Nat) (s : State) : Host.Outcome State Fault Refusal := .next (mxCommand s core 0x13)
/-- MVERD (R325). -/
def execMverd (core : Nat) (s : State) : Host.Outcome State Fault Refusal := .next (mxCommand s core 0x14)
/-- MZERO (R316). -/
def execMzero (core : Nat) (s : State) : Host.Outcome State Fault Refusal := .next (mxCommand s core 0x15)
/-- MLDACC (R316). -/
def execMldacc (core : Nat) (s : State) : Host.Outcome State Fault Refusal := .next (mxCommand s core 0x16)
/-- MSTACC (R316). -/
def execMstacc (core : Nat) (s : State) : Host.Outcome State Fault Refusal := .next (mxCommand s core 0x17)

/-! ## Gangs (R312) -/

/-- The octets of a gang. -/
def gangOcts (k : Nat) (m : EngCmd) : List Nat := (List.range (pieces m.word)).map (pieceOct k)

/-- A posted request can be served: its launch runs, and its bank is free or its own on every unit. -/
def gangServable (s : State) (g : GangReq) : Option EngCmd :=
  match findCmd s g.core .mxu g.uid with
  | some m =>
    if launchRuns s g.core && decide (m.phase ≤ 2) && decide (0 < m.grant)
        && (gangOcts g.core m).all (fun o => bankFree s g.core o (mxAcc m.word)) then some m else none
  | none => none

/-- Units stopped for a gang, or let go on (R294, R312). -/
def stopOcts (s : State) (os : List Nat) (on : Bool) : State :=
  os.foldl (fun st o => setOct st o { getOct st o with stopped := on }) s

/-- GANG_START (R312): the oldest request that can be served claims its banks and stops its units. -/
def gangStart (s : State) (c : Nat) : State :=
  let g := (getClus s c).gang
  if g.any (fun x => x.running) then s
  else
    match lfind (fun x => (gangServable s x).isSome) g with
    | none => s
    | some (n, x) =>
      match gangServable s x with
      | none => s
      | some m =>
        let os := gangOcts x.core m
        let s1 := os.foldl (fun st o => claimBank st x.core o (mxAcc m.word)) s
        let s2 := setClus (stopOcts s1 os true) c { getClus s1 c with gang := lset g n { x with running := true } }
        setCmd s2 x.core .mxu { m with phase := 2 }

/-- GANG_START (R312). -/
def execGangStart (clus : Nat) (s : State) : Host.Outcome State Fault Refusal := .next (gangStart s clus)

/-- The pieces of one block run in lockstep. -/
def gangPieces (s : State) (k : Nat) (m : EngCmd) (ps : List Nat) : Work :=
  match ps with
  | [] => .go s m
  | p :: rest =>
    match mmTile s k m p with
    | .go s1 m1 => gangPieces s1 k m1 rest
    | w => w

/-- The blocks of a gang, `n` at most. -/
def gangBlocks (n : Nat) (s : State) (k : Nat) (m : EngCmd) : Work :=
  match n with
  | 0 => .go s m
  | n + 1 =>
    if mxBlocks m.word ≤ m.pos then .go s m
    else
      match gangPieces s k m (List.range (pieces m.word)) with
      | .go s1 m1 => gangBlocks n s1 k { m1 with pos := m1.pos + 1 }
      | w => w

/-- The gang of a core lets its units go. -/
def gangEnd (s : State) (k : Nat) (m : EngCmd) : State :=
  let c := clusOf k
  let s1 := stopOcts s (gangOcts k m) false
  setClus s1 c { getClus s1 c with gang := (getClus s1 c).gang.filter (fun g => g.uid != m.uid) }

/-- MMAQ (R310-R312): the gang that has been started runs its tiles to the last, and lets its units go. -/
def mmaq (s : State) (k : Nat) : State :=
  match (getClus s (clusOf k)).gang.find? (fun g => g.running && g.core == k) with
  | none => s
  | some g =>
    match findCmd s k .mxu g.uid with
    | none => s
    | some m =>
      match mmEnd k (gangBlocks 64 s k m) with
      | .fault s1 cause va => raiseFault (gangEnd s1 k m) m.ctx cause va
      | .wait s1 m1 => setCmd s1 k .mxu m1
      | .go s1 m1 => mxSettle (gangEnd s1 k m1) k m1

/-- MMAQ (R310). -/
def execMmaq (core : Nat) (s : State) : Host.Outcome State Fault Refusal := .next (mmaq s core)

end Sys2Proof.Machine
end

