-- ==== Sys2Proof/Machine/Cre.lean ====
section
/-!
DEFINITION. The crossing engine (R337-R366, R373): beads and their crossing arithmetic, the commands QGRAPH to QSTORM, the three
phases of a set in a group of engines, QSLOPE, and the events PHASE_A_CHOOSE, ROOT_BROADCAST, PHASE_B_FIRE, EVENT_DELIVERY,
PHASE_C_RESPOND, SLOPE_REPORT, SAMPLE_TAKE and QSLOPE_ANSWER. Every event of an engine first takes the group messages that have come.
-/
namespace Sys2Proof.Machine

/-! ## Beads (R337-R339) -/

/-- Never, the greatest time (R6). -/
def never : Nat := 2 ^ 64 - 1
/-- A time that reaches never is never (R337). -/
def timeSum (a b : Nat) : Nat := min (a + b) never

/-- Bits of a bead record. -/
def bget (b lo n : Nat) : Nat := b / 2 ^ lo % 2 ^ n
/-- A bead record with bits replaced. -/
def bset (b lo n v : Nat) : Nat := b - bget b lo n * 2 ^ lo + v % 2 ^ n * 2 ^ lo
/-- The fields of a bead (R339). -/
def bTx (b : Nat) : Nat := bget b 0 64
def bNext (b : Nat) : Nat := bget b 64 64
def bX (b : Nat) : Nat := bget b 128 32
def bD (b : Nat) : Nat := bget b 160 32
def bQ (b : Nat) : Nat := bget b 192 32
def bDq (b : Nat) : Nat := bget b 224 32
def bRank (b : Nat) : Nat := bget b 272 16
def bOwn (b : Nat) : Nat := bget b 288 6
def bErr (b : Nat) : Bool := decide (bget b 299 1 = 1)
def bHeld (b : Nat) : Bool := decide (bget b 300 1 = 1)
def bPause (b : Nat) : Bool := decide (bget b 301 1 = 1)
def bPol (b : Nat) : Nat := bget b 302 2
def bDcnt (b : Nat) : Nat := bget b 304 16
def bCls (b : Nat) : Nat := bget b 320 8
def bDptr (b : Nat) : Nat := bget b 328 24
def bCnt (b : Nat) : Nat := bget b 352 16
def bSmax (b : Nat) : Nat := bget b 368 16
def bWstart (b : Nat) : Nat := bget b 384 64
def bWlen (b : Nat) : Nat := bget b 448 48
def bDqmax (b : Nat) : Nat := bget b 496 16 * 2 ^ 16

/-- A binary32 field as a value. -/
def v32 (w : Nat) : FVal := fval fmt32 w
/-- NaN or infinite (R346). -/
def notNum (w : Nat) : Bool :=
  match v32 w with
  | .fin _ _ _ => false
  | _ => true
/-- Not above zero. -/
def notPos (w : Nat) : Bool := !ltNum (.fin false 0 0) (v32 w)

/-- A difference of two times, in model-time units (R337). -/
def tickVal (t u : Nat) : FVal :=
  let d : Int := (t : Int) - u
  .fin (decide (d < 0)) d.natAbs (-40)

/-- x at a time (R344, R362): one rounding of x + d·Δ. DEDUCED (log 46). -/
def bAt (b t : Nat) : Nat := (fmaV fmt32 .rne 0 (v32 (bD b)) (tickVal t (bTx b)) (v32 (bX b))).w

/-- The next level in the direction of d (R343, R345). -/
def bLevel (b : Nat) : Nat :=
  (addV fmt32 .rne 0 (v32 (bQ b)) (if negOf (v32 (bD b)) then fneg (v32 (bDq b)) else v32 (bDq b))).w

/-- ⌈τ·2^40⌉ of a positive value; `none` for an infinite one. -/
def ticksUp (v : FVal) : Option Nat :=
  match v with
  | .fin _ m e =>
    let k := e + 40
    some (if 0 ≤ k then m * 2 ^ k.toNat else (m + 2 ^ (-k).toNat - 1) / 2 ^ (-k).toNat)
  | _ => none

/-- NEXT of R345 for a bead with d ≠ 0 and a numeric level. -/
def nextOf (b t : Nat) : Nat :=
  let lvl := v32 (bLevel b)
  let x := v32 (bX b)
  let up := !negOf (v32 (bD b))
  let dl := fval fmt64 (addV fmt64 .rup 0 (if up then lvl else x) (fneg (if up then x else lvl))).w
  if ltNum (.fin false 0 0) dl then
    (match ticksUp (fval fmt64 (divV fmt64 .rup 0 dl (absV (v32 (bD b)))).w) with
     | some n => min (max (bTx b + n) (timeSum t 1)) never
     | none => never)
  else timeSum t 1

/-- A bead stopped (R346). -/
def bStop (b : Nat) : Nat := bset (bset b 299 1 1) 64 64 never

/-- t_next computed at a time, with the errors of R346 and the delay of a HELD bead (R345). -/
def settleBead (b t : Nat) : Nat :=
  if bErr b || notNum (bX b) || notNum (bD b) || notNum (bQ b) || notNum (bDq b) || notPos (bDq b) then bStop b
  else if isZero (v32 (bD b)) then bset b 64 64 never
  else if eqV (v32 (bLevel b)) (v32 (bQ b)) then bStop b
  else
    let n := nextOf b t
    bset b 64 64 (if bHeld b then max n (timeSum (bWstart b) (bWlen b)) else n)

/-- A reported slope applied at a time (R344). -/
def reportBead (b d t : Nat) : Nat :=
  settleBead (bset (bset (bset b 128 32 (bAt b t)) 160 32 d) 0 64 t) t

/-- The snap of an event (R343). -/
def snapBead (b t : Nat) : Nat :=
  let l := bLevel b
  bset (bset (bset b 128 32 l) 192 32 l) 0 64 t

/-- The storm counter of an event, and whether the bead trips (R354). -/
def countStorm (b t : Nat) : Nat × Bool :=
  if bPol b = 0 then (b, false)
  else
    let b1 := if timeSum (bWstart b) (bWlen b) ≤ t then bset (bset (bset b 384 64 t) 352 16 0) 300 1 0 else b
    let n := min (bCnt b1 + 1) 0xFFFF
    (bset b1 352 16 n, decide (n = bSmax b1 + 1))

/-- A trip under WIDEN or HOLD (R355). -/
def tripBead (b t : Nat) : Nat :=
  if bPol b = 2 ∧ ltNum (v32 (bDq b)) (v32 (bDqmax b)) then
    let w := (addV fmt32 .rne 0 (v32 (bDq b)) (v32 (bDq b))).w
    bset (bset (bset b 224 32 (minMax fmt32 false w (bDqmax b)).w) 352 16 0) 384 64 t
  else bset b 300 1 1

/-! ## Engines and their memory -/

/-- A crossing engine. -/
def getCre (s : State) (c : Nat) : Cre := (getClus s c).cre
/-- The state with a crossing engine replaced. -/
def setCre (s : State) (c : Nat) (x : Cre) : State := setClus s c { getClus s c with cre := x }
/-- An engine's word in a participant list (R358). -/
def engWord (s : State) (c : Nat) : Nat := myNode s * 128 + c / 24 * 32 + c % 24
/-- The global id of bead `i` (R338). -/
def beadId (s : State) (c i : Nat) : Nat := myNode s * 2 ^ 21 + c / 24 * 2 ^ 19 + c % 24 * 2 ^ 14 + i

/-- The root of an engine's group. -/
def rootOf (x : Cre) : Nat := x.parts.headD 0

/-- A message to the engine of a participant word. -/
def creSend (s : State) (c e : Nat) (body : Body) : State :=
  if e % 32 < 24 ∧ jobNode s (e / 128) then
    sendPacket s (getCre s c).owner (mkPacket s 5 (e / 128) (e / 32 % 4 * 1152 + e % 32 * 48) body)
  else s

/-- A reason to stop, as the cause and the address of a fault. -/
def stopCause (x : Stop) : Nat × Word :=
  match x with
  | .fault cause va => (cause, va)
  | .ecc key va => (eccOf key, va)
  | .token va => (faultProt, va)

/-- Bytes read by an engine through the cluster window (R340), with the soft errors they hold corrected (R139). -/
def creRead (s : State) (x : Cre) (off n : Nat) : Except (Nat × Word) (State × List Byte) :=
  let a : Acc := { core := x.core, priv := x.priv, kind := .engRead, eng := some .cre }
  let vas := addrs (BitVec.ofNat 64 (0x1000000 + off)) n
  match readBytes s a [] vas with
  | .bytes bs => .ok (noteAccess s a vas false, bs)
  | .stop x => .error (stopCause x)
  | .far _ => .ok (s, [])

/-- Bytes written by an engine through the cluster window. -/
def creWrite (s : State) (x : Cre) (off : Nat) (bs : List Byte) : Except (Nat × Word) State :=
  let a : Acc := { core := x.core, priv := x.priv, kind := .engWrite, eng := some .cre }
  let vas := addrs (BitVec.ofNat 64 (0x1000000 + off)) bs.length
  match writeBytes s a (vas.zip bs) with
  | .done s1 => .ok (noteAccess s1 a vas true)
  | .stop x => .error (stopCause x)
  | .far _ s1 => .ok s1

/-- A bead read. -/
def readBead (s : State) (x : Cre) (i : Nat) : Except (Nat × Word) (State × Nat) :=
  (creRead s x (x.btab + 64 * i) 64).map (fun r => (r.1, natOfBytes r.2))
/-- A bead written. -/
def writeBead (s : State) (x : Cre) (i b : Nat) : Except (Nat × Word) State := creWrite s x (x.btab + 64 * i) (bytesOfNat 64 b)

/-- A list of beads read. -/
def readBeads (s : State) (x : Cre) (l : List Nat) : Except (Nat × Word) (State × List (Nat × Nat)) :=
  match l with
  | [] => .ok (s, [])
  | i :: rest => do
    let (s1, b) ← readBead s x i
    let (s2, t) ← readBeads s1 x rest
    return (s2, (i, b) :: t)

/-- The commands of an operation in a phase, on the cores of an engine's launch in its cluster. -/
def creCmds (s : State) (c cop phase : Nat) : List (Nat × EngCmd) :=
  ((List.range 48).map (fun i => 48 * c + i)).flatMap (fun k =>
    if (getCre s c).owner.isSome && launchOf s k == (getCre s c).owner then
      ((getQ s k .cre).cmds.filter (fun m => copOf m.word == cop && m.phase == phase)).map (fun m => (k, m))
    else [])

/-- The QRUN of an engine's run: running before the run begins, outstanding after. -/
def runCmd (s : State) (c : Nat) : Option (Nat × EngCmd) :=
  (creCmds s c 0x42 2 ++ (creCmds s c 0x42 3).filter (fun p => p.2.out == 1)).head?

/-- A fault met by an engine in a run: recorded against the context of its QRUN (R44). -/
def creFault (s : State) (c : Nat) (f : Nat × Word) : State :=
  match runCmd s c with
  | some (_, m) => raiseFault s m.ctx f.1 f.2
  | none =>
    match (getCre s c).owner with
    | some l => raiseFaultL s l f.1
    | none => s

/-- A command that has ended with a status and the value of word 2. -/
def creDone (s : State) (k : Nat) (m : EngCmd) (status w2 : Nat) : State :=
  setCmd s k .cre { m with phase := 3, out := 0, status := status, word2 := w2 }

/-- The model is bound by the launch of a core (R357). -/
def ownsModel (s : State) (k : Nat) : Bool :=
  let x := getCre s (clusOf k)
  x.owner.isSome && x.owner == launchOf s k

/-- Insertion of an element into a list sorted by a key. -/
def insertBy {α : Type} (key : α → Nat) (a : α) (l : List α) : List α :=
  match l with
  | [] => [a]
  | b :: t => if key a < key b then a :: b :: t else b :: insertBy key a t
/-- A list sorted by a key, equal keys in their order. -/
def sortBy {α : Type} (key : α → Nat) (l : List α) : List α := l.foldl (fun acc a => insertBy key a acc) []

/-! ## QGRAPH and QVAR (R358, R359) -/

/-- The work of a command: the state with it done, or a fault against its context. -/
def creTry (s : State) (m : EngCmd) (r : Except (Nat × Word) State) : State :=
  match r with
  | .ok s1 => s1
  | .error f => raiseFault s m.ctx f.1 f.2

/-- Participants that have joined for a model which QGRAPH replaces by another: they are not admitted (R358). -/
def dropJoins (s : State) (c : Nat) (old new : Cre) : State :=
  if old.mid = new.mid ∧ old.parts = new.parts ∧ old.t0 = new.t0 then setCre s c { getCre s c with joins := old.joins }
  else old.joins.foldl (fun st e => creSend st c e (.creEnd old.mid true 0)) s

/-- QGRAPH (R358). -/
def qgraph (s : State) (k : Nat) : State :=
  match readyCmd s k .cre 0x41 with
  | none => s
  | some m =>
    let c := clusOf k
    let x := getCre s c
    if x.owner.isSome ∧ x.owner ≠ launchOf s k then s
    else if x.owner.isSome ∧ (x.phase ≠ .idle ∨ (runCmd s c).isSome) then creDone s k m 4 0
    else
      let w := m.word
      let n := cbits w 190 12 + 1
      let y : Cre := { owner := launchOf s k, core := k, priv := m.priv, mid := cbits w 240 16, nbead := cbits w 226 14 + 1,
                       btab := cbits w 202 24, t0 := cbits w 102 64, time := cbits w 102 64 }
      creTry s m ((creRead s y (cbits w 166 24) (4 * n)).map (fun r =>
        let z := { y with parts := numsOf 4 n r.2 }
        creDone (dropJoins (setCre r.1 c z) c x z) k m 0 y.nbead))

/-- QGRAPH (R358). -/
def execQgraph (core : Nat) (s : State) : Host.Outcome State Fault Refusal := .next (qgraph s core)

/-- Beads initialised from records (R359): how many are without ERR. -/
def initBeads (s : State) (x : Cre) (src first : Nat) (l : List Nat) (ok : Nat) : Except (Nat × Word) (State × Nat) :=
  match l with
  | [] => .ok (s, ok)
  | j :: rest => do
    let (s0, bs) ← creRead s x (src + 64 * j) 64
    let b := natOfBytes bs
    let b1 := bset (bset (bset b 299 3 0) 352 16 0) 384 64 (bTx b)
    let b2 := settleBead b1 x.time
    let s1 ← writeBead s0 x (first + j) b2
    initBeads s1 x src first rest (if bErr b2 then ok else ok + 1)

/-- FIRST and NM1 + 1 of QVAR and QSTORM. -/
def creFirst (c : Cmd) : Nat := cbits c 242 14
def creCount (c : Cmd) : Nat := cbits c 228 14 + 1

/-- QVAR (R359). -/
def qvar (s : State) (k : Nat) : State :=
  match readyCmd s k .cre 0x40 with
  | none => s
  | some m =>
    let x := getCre s (clusOf k)
    let w := m.word
    if ownsModel s k = false ∨ x.phase ≠ .idle ∨ x.nbead < creFirst w + creCount w then creDone s k m 4 0
    else
      creTry s m ((initBeads s x (cbits w 204 24) (creFirst w) (List.range (creCount w)) 0).map (fun r =>
        creDone (setCre r.1 (clusOf k) { getCre r.1 (clusOf k) with dueTo := 0 }) k m 0 r.2))

/-- QVAR (R359). -/
def execQvar (core : Nat) (s : State) : Host.Outcome State Fault Refusal := .next (qvar s core)

/-! ## Samples (R362) -/

/-- The words of a sample read at its time: x(T) and q. -/
def sampleBytes (bs : List (Nat × Nat)) (t : Nat) : List Byte :=
  bs.flatMap (fun p => bytesOfNat 8 (bAt p.2 t + 2 ^ 32 * bQ p.2))

/-- A sample taken, for a command of a core. DEDUCED (log 46). -/
def takeSample (s : State) (c k : Nat) (m : EngCmd) : State :=
  let x := getCre s c
  let w := m.word
  let n := cbits w 140 14 + 1
  creTry s m (do
    let (s0, bs) ← readBeads s x ((List.range n).map (fun j => cbits w 154 14 + j))
    let s1 ← creWrite s0 x (cbits w 168 24) (sampleBytes bs (cbits w 192 64))
    return creDone s1 k m 0 n)

/-- The pending samples of an engine that meet a test of their time, taken. -/
def takeSamples (s : State) (c : Nat) (p : Nat → Bool) : State :=
  ((creCmds s c 0x44 2).filter (fun q => p (cbits q.2.word 192 64))).foldl (fun st q => takeSample st c q.1 q.2) s

/-- QSAMPLE (R362): it is registered, and waits for its time in the running phase; one that comes when no run is active and whose time the
last run has settled is taken at once. DEDUCED (log 45). -/
def qsample (s : State) (k : Nat) : State :=
  match readyCmd s k .cre 0x44 with
  | none => s
  | some m =>
    let x := getCre s (clusOf k)
    let w := m.word
    if ownsModel s k = false ∨ x.nbead < cbits w 154 14 + cbits w 140 14 + 1 ∨ cbits w 192 64 < x.time then creDone s k m 4 0
    else if x.phase = .idle ∧ cbits w 192 64 < x.dueTo then takeSample s (clusOf k) k m
    else setCmd s k .cre { m with phase := 2 }

/-- QSAMPLE (R362). -/
def execQsample (core : Nat) (s : State) : Host.Outcome State Fault Refusal := .next (qsample s core)

/-! ## Storm parameters (R363) -/

/-- Storm parameters set in a bead. -/
def stormBead (w : Cmd) (t b : Nat) : Nat :=
  let b1 := bset b 302 2 (cbits w 226 2)
  let b2 := if cbits w 145 1 = 1 then b1
    else bset (bset (bset b1 368 16 (cbits w 210 16)) 448 48 (cbits w 162 48)) 496 16 (cbits w 146 16)
  bset (bset (bset b2 352 16 0) 384 64 t) 300 2 0

/-- QSTORM applied to its beads. -/
def stormBeads (s : State) (x : Cre) (w : Cmd) (l : List Nat) : Except (Nat × Word) State :=
  match l with
  | [] => .ok s
  | i :: rest => do
    let (s0, b) ← readBead s x i
    let s1 ← writeBead s0 x i (stormBead w x.time b)
    stormBeads s1 x w rest

/-- A QSTORM taken; a proposal that has been sent is made again. -/
def takeStorm (s : State) (c k : Nat) (m : EngCmd) : State :=
  let x := getCre s c
  let w := m.word
  creTry s m ((stormBeads s x w ((List.range (creCount w)).map (fun j => creFirst w + j))).map (fun s1 =>
    creDone (setCre s1 c { getCre s1 c with sent := false }) k m 0 (creCount w)))

/-- QSTORM (R363): taken at once between runs and in phase A, else at the next phase-A boundary. -/
def qstorm (s : State) (k : Nat) : State :=
  match readyCmd s k .cre 0x45 with
  | none => s
  | some m =>
    let c := clusOf k
    let x := getCre s c
    if ownsModel s k = false ∨ x.nbead < creFirst m.word + creCount m.word then creDone s k m 4 0
    else if x.phase = .idle ∨ x.phase = .choose then takeStorm s c k m
    else setCmd s k .cre { m with phase := 2 }

/-- QSTORM (R363). -/
def execQstorm (core : Nat) (s : State) : Host.Outcome State Fault Refusal := .next (qstorm s core)

/-! ## QRUN and QSTOP (R352, R360, R361) -/

/-- QRUN (R360): the engine tells the root that it is ready to run. DEDUCED (log 47). -/
def qrun (s : State) (k : Nat) : State :=
  match readyCmd s k .cre 0x42 with
  | none => s
  | some m =>
    let c := clusOf k
    let x := getCre s c
    let s1 := (launchOf s k).elim s (fun l => tellQrun s l true)
    if ownsModel s k = false then creDone s1 k m 4 0
    else if x.phase ≠ .idle ∨ (runCmd s c).isSome then creDone s1 k m 4 x.time
    else creSend (setCmd s1 k .cre { m with phase := 2 }) c (rootOf x) (.creJoin x.mid (engWord s c) x.parts x.t0)

/-- QRUN (R360). -/
def execQrun (core : Nat) (s : State) : Host.Outcome State Fault Refusal := .next (qrun s core)

/-- QSTOP (R361): a stop posted to an active run; the engine proposes again with it. DEDUCED (log 44). -/
def qstop (s : State) (k : Nat) : State :=
  match readyCmd s k .cre 0x43 with
  | none => s
  | some m =>
    let c := clusOf k
    let x := getCre s c
    if ownsModel s k = false then creDone s k m 4 0
    else if x.phase = .idle then creDone s k m 0 0
    else setCre (setCmd s k .cre { m with phase := 2 }) c { x with sent := false }

/-- QSTOP (R361). -/
def execQstop (core : Nat) (s : State) : Host.Outcome State Fault Refusal := .next (qstop s core)

/-- The end of a run at an engine (R352, R360-R362): due samples are taken, QRUN and posted stops complete. -/
def endRun (s : State) (c : Nat) (cancelled : Bool) (next : Nat) : State :=
  let s1 := takeSamples s c (fun t => decide (t < next) || (!cancelled && decide (next = never)))
  let x := getCre s1 c
  let s2 := match runCmd s1 c with
    | some (k, m) => creDone s1 k m (if cancelled then 4 else 0) x.time
    | none => s1
  let s3 := (creCmds s2 c 0x43 2).foldl (fun st p => creDone st p.1 p.2 0 0) s2
  setCre s3 c { getCre s3 c with
    phase := .idle, sent := false, fired := false, respond := false, owed := 0, woken := [], mirs := []
    dueTo := if cancelled = false ∧ next = never then never + 1 else next }

/-! ## Group messages (R351) -/

/-- A group message for an engine; a join is for the engine that it names as the root (R358). -/
def isGroupMsg (x : Cre) (c : Nat) (p : Packet) : Bool :=
  decide (p.die * 24 + p.clus = c) && x.owner.isSome &&
    (match p.body with
     | .creJoin _ _ _ _ => true
     | .creLost mid => mid == x.mid
     | .creBegin mid => mid == x.mid && decide (x.phase = .idle)
     | .creProp mid _ => mid == x.mid
     | .creTime mid _ => mid == x.mid && decide (x.phase = .choose)
     | .creEnd mid _ _ => mid == x.mid
     | .creEventAck mid => mid == x.mid
     | .creFired mid _ => mid == x.mid
     | .creRespond mid => mid == x.mid
     | _ => false)

/-- A group message taken by an engine. -/
def takeGroupMsg (s : State) (c : Nat) (p : Packet) : State :=
  let x := getCre s c
  match p.body with
  | .creJoin mid eng list t0 =>
    if mid = x.mid ∧ list = x.parts ∧ t0 = x.t0 ∧ rootOf x = engWord s c ∧ x.parts.contains eng then
      setCre s c { x with joins := eng :: x.joins }
    else creSend s c eng (.creEnd mid true 0)
  | .creBegin _ =>
    let s1 := setCre s c { x with phase := .choose, sent := false, nset := 0 }
    (match runCmd s1 c with
     | some (k, m) => setCmd s1 k .cre { m with phase := 3, out := 1 }
     | none => s1)
  | .creProp _ q =>
    if q.seq = x.nsent then setCre s c { x with props := q :: x.props.filter (fun r => r.eng != q.eng) } else s
  | .creTime _ t => setCre s c { x with phase := .fire, setT := t, nset := x.nset + 1, sent := false }
  | .creEnd _ cancelled next => endRun s c cancelled next
  | .creEventAck _ => setCre s c { x with owed := x.owed - 1 }
  | .creFired _ eng => setCre s c { x with firedBy := eng :: x.firedBy }
  | .creRespond _ => setCre s c { x with respond := true }
  | .creLost _ => x.owner.elim s (fun l => raiseFaultL s l (faultLink 5))
  | _ => s

/-- Every group message that has come, taken in order. -/
def takeGroup (fuel : Nat) (s : State) (c : Nat) : State :=
  match fuel with
  | 0 => s
  | fuel + 1 =>
    match takeArrived s (isGroupMsg (getCre s c) c) 0 with
    | some (p, s1) => takeGroup fuel (takeGroupMsg s1 c p) c
    | none => s

/-- The engine of a cluster with the group messages that have come (R351), where its launch runs. -/
def creNow (s : State) (c : Nat) : State := takeGroup s.arrived.length s c

/-- The launch of an engine runs. -/
def creRuns (s : State) (c : Nat) : Bool :=
  (getCre s c).owner.isSome && launchRuns s (getCre s c).core

/-! ## Phase A (R347, R351, R352) -/

/-- The proposal of an engine: its least time, whether a bead pauses it, its TEND, its stop flag. DEDUCED (log 44). -/
def proposal (s : State) (c : Nat) (bs : List (Nat × Nat)) : Proposal :=
  { eng := engWord s c, seq := (getCre s c).nset
    least := (bs.filter (fun p => !bErr p.2)).foldl (fun t p => min t (bNext p.2)) never
    paused := bs.any (fun p => bPause p.2)
    tend := (runCmd s c).elim never (fun p => cbits p.2.word 192 64)
    stop := !(creCmds s c 0x43 2).isEmpty }

/-- PHASE_A_CHOOSE (R347): storm parameters waiting for the boundary are set, and the engine proposes to the root. -/
def phaseA (s0 : State) (c : Nat) : State :=
  let s := creNow s0 c
  if creRuns s c = false ∨ (getCre s c).phase ≠ .choose then s
  else
    let s1 := (creCmds s c 0x45 2).foldl (fun st p => takeStorm st c p.1 p.2) s
    let x := getCre s1 c
    if x.sent then s1
    else
      match readBeads s1 x (List.range x.nbead) with
      | .error f => creFault s1 c f
      | .ok (s2, bs) => creSend (setCre s2 c { x with sent := true }) c (rootOf x) (.creProp x.mid (proposal s2 c bs))

/-- PHASE_A_CHOOSE (R347). -/
def execPhaseAChoose (clus : Nat) (s : State) : Host.Outcome State Fault Refusal := .next (phaseA s clus)

/-! ## The root (R351-R353) -/

/-- A message to every participant. -/
def creTell (s : State) (c : Nat) (body : Body) : State :=
  (getCre s c).parts.eraseDups.foldl (fun st e => creSend st c e body) s

/-- The device time at which pacing lets a time be broadcast (R353), for the root's PACE. -/
def paceAt (s : State) (c t : Nat) : Nat :=
  let x := getCre s c
  let p := (runCmd s c).elim 0 (fun q => cbits q.2.word 160 32)
  x.runD0 + ((t - x.runTs) * p + 2 ^ 40 - 1) / 2 ^ 40

/-- The root's decision once every proposal has come (R352, R353). DEDUCED (log 44). -/
def rootChoose (s : State) (c : Nat) : State :=
  let x := getCre s c
  let t := x.props.foldl (fun t p => min t p.least) never
  let tend := x.props.foldl (fun t p => min t p.tend) never
  let paused := x.props.any (fun p => p.paused)
  if x.props.any (fun p => p.stop) then
    creTell (setCre s c { x with props := [] }) c (.creEnd x.mid true (if paused ∨ t = never then 0 else t))
  else if paused then s
  else if t = never ∨ tend < t then creTell (setCre s c { x with props := [] }) c (.creEnd x.mid false t)
  else if paceAt s c t ≤ nowNs s then
    creTell (setCre s c { x with props := [], nsent := x.nsent + 1 }) c (.creTime x.mid t)
  else s

/-- ROOT_BROADCAST (R351-R353): the run begins once every participant is ready; the time of a set or the end of the run once every
proposal has come; the start of phase C once every engine has fired. DEDUCED (log 47). -/
def rootBroadcast (s0 : State) (c : Nat) : State :=
  let s := creNow s0 c
  let x := getCre s c
  let all := fun (l : List Nat) => x.parts.all (fun e => l.contains e)
  if creRuns s c = false ∨ rootOf x ≠ engWord s c ∨ x.parts.isEmpty then s
  else if x.phase = .idle then
    (if all x.joins then
       creTell (setCre s c { x with joins := [], props := [], firedBy := [], nsent := 0, runD0 := nowNs s, runTs := x.time }) c (.creBegin x.mid)
     else s)
  else if all x.firedBy then creTell (setCre s c { x with firedBy := [] }) c (.creRespond x.mid)
  else if all (x.props.map (fun p => p.eng)) then rootChoose s c
  else s

/-- ROOT_BROADCAST (R353). -/
def execRootBroadcast (clus : Nat) (s : State) : Host.Outcome State Fault Refusal := .next (rootBroadcast s clus)

/-! ## Phase B (R342, R343, R354-R356) -/

/-- A trip of a bead (R355, R356): under TRAP the storm trap is raised in the control context of its owner core, where that is
live. -/
def trip (s : State) (c i b t : Nat) : State × Nat :=
  let k := 48 * c + bOwn b
  let x := ctxNo k 0
  if bPol b = 1 then
    (if bOwn b < 48 ∧ launchOf s k = (getCre s c).owner ∧ (getCtx s x).st ≠ .free then
       (setCtx s x { getCtx s x with held := (getCtx s x).held ++ [{ cause := trapStorm, tval := BitVec.ofNat 64 (beadId s c i) }] },
        bset b 301 1 1)
     else (s, bset b 300 1 1))
  else (s, tripBead b t)

/-- The place of a bead in the order of a set (R347): RANK, then global id. -/
def beadKey (s : State) (c i b : Nat) : Nat := bRank b * 2 ^ 33 + beadId s c i

/-- The events of a fired bead sent, in list order (R342): the state and how many. -/
def sendEvents (s : State) (c : Nat) (x : Cre) (key b : Nat) (l : List Nat) (n : Nat) : Except (Nat × Word) (State × Nat) :=
  match l with
  | [] => .ok (s, n)
  | j :: rest => do
    let (s0, bs) ← creRead s x (bDptr b + 16 * j) 16
    let e := natOfBytes bs
    let dep := e % 2 ^ 64
    let word := dep / 2 ^ 14
    if dep < 2 ^ 33 ∧ x.parts.contains word then
      sendEvents (creSend s0 c word (.creEvent x.mid (engWord s c) (bQ b) (e / 2 ^ 64 % 2 ^ 32) (dep % 2 ^ 14) key)) c x key b rest (n + 1)
    else sendEvents (countUp s0 0x042030 1) c x key b rest n

/-- One bead of the set fires (R343). -/
def fireBead (s : State) (c : Nat) (x : Cre) (i t n : Nat) : Except (Nat × Word) (State × Nat) := do
  let (s0, b) ← readBead s x i
  let (b1, trips) := countStorm (snapBead b t) t
  let (s1, b2) := if trips then trip s0 c i b1 t else (s0, b1)
  let b3 := settleBead b2 t
  let s2 ← writeBead s1 x i b3
  sendEvents s2 c x (beadKey s c i b3) b3 (List.range (bDcnt b3)) n

/-- The beads of a set fire in order. -/
def fireBeads (s : State) (c : Nat) (x : Cre) (l : List Nat) (t n : Nat) : Except (Nat × Word) (State × Nat) :=
  match l with
  | [] => .ok (s, n)
  | i :: rest => do
    let (s1, n1) ← fireBead s c x i t n
    fireBeads s1 c x rest t n1

/-- The beads of a set in its order (R347): those not in error whose time it is, by RANK, then id. -/
def setOrder (bs : List (Nat × Nat)) (t : Nat) : List Nat :=
  (sortBy (fun p => bRank p.2) (bs.filter (fun p => !bErr p.2 && bNext p.2 == t))).map (·.1)

/-- The engine has fired, and every event it sent is acknowledged: it tells the root (R351). -/
def tellFired (s : State) (c : Nat) : State :=
  let x := getCre s c
  if x.phase = .wait ∧ x.owed = 0 ∧ x.fired = false then
    creSend (setCre s c { x with fired := true }) c (rootOf x) (.creFired x.mid (engWord s c))
  else s

/-- PHASE_B_FIRE (R347): due samples are taken, the beads of the set fire, and the end of the phase is told. -/
def phaseB (s0 : State) (c : Nat) : State :=
  let s := creNow s0 c
  let x := getCre s c
  if (getCre s c).owner.isNone ∨ launchLive s x.core = false then s
  else if x.phase = .fire then
    let s1 := takeSamples s c (fun t => decide (t < x.setT))
    match readBeads s1 x (List.range x.nbead) with
    | .error f => creFault s1 c f
    | .ok (s0, bs) =>
      let s2 := setCre s0 c { x with time := x.setT, phase := .wait, owed := 0, fired := false, respond := false }
      match fireBeads s2 c (getCre s2 c) (setOrder bs x.setT) x.setT 0 with
      | .error f => creFault s2 c f
      | .ok (s3, n) => tellFired (setCre s3 c { getCre s3 c with owed := n }) c
  else tellFired s c

/-- PHASE_B_FIRE (R343). -/
def execPhaseBFire (clus : Nat) (s : State) : Host.Outcome State Fault Refusal := .next (phaseB s clus)

/-- SAMPLE_TAKE (R362): the samples that are due before the set that has been broadcast. DEDUCED (log 45). -/
def sampleTake (s0 : State) (c : Nat) : State :=
  let s := creNow s0 c
  if (getCre s c).phase = .fire then takeSamples s c (fun t => decide (t < (getCre s c).setT)) else s

/-- SAMPLE_TAKE (R362). -/
def execSampleTake (clus : Nat) (s : State) : Host.Outcome State Fault Refusal := .next (sampleTake s clus)

/-- A dependant marked woken by one more event (R342). -/
def wake (l : List Woken) (ix : Nat) : List Woken :=
  if l.any (fun w => w.ix == ix) then l.map (fun w => if w.ix = ix then { w with count := w.count + 1 } else w)
  else l ++ [{ ix := ix, count := 1 }]

/-- A crossing event. -/
def isCreEvent (p : Packet) : Bool := match p.body with | .creEvent _ _ _ _ _ _ => true | _ => false

/-- The events of one engine, and those of one module on MC5, stay in order (R61, R342). -/
def eventOrder (s : State) (r q : Packet) : Bool :=
  match r.body, q.body with
  | .creEvent _ a _ _ _ _, .creEvent _ b _ _ _ _ => decide (q.src ≠ myNode s) || a == b
  | _, _ => false

/-- EVENT_DELIVERY (R342): the mirror word written, the dependant woken, the event acknowledged. A mirror word that two beads of a set
write ends with the value of the later one in the order of the set (R347, R350). -/
def eventDelivery (s : State) (n : Nat) : State :=
  match takeOrdered s (eventOrder s) isCreEvent n with
  | none => s
  | some (p, s1) =>
    match p.body with
    | .creEvent mid src q mir dep key =>
      let c := p.die * 24 + p.clus
      let x := getCre s1 c
      if x.owner.isNone ∨ x.mid ≠ mid then s1
      else
        let s2 := if dep < x.nbead then setCre s1 c { x with woken := wake x.woken dep } else countUp s1 0x042030 1
        let ack := fun st => creSend st c src (.creEventAck mid)
        if dep < x.nbead ∧ mir < 0xC00000 ∧ mir % 4 = 0 ∧ kget 0 x.mirs mir ≤ key then
          (match creWrite s2 x mir (bytesOfNat 4 q) with
           | .ok s3 => ack (setCre s3 c { getCre s3 c with mirs := kset x.mirs mir key })
           | .error f => creFault s2 c f)
        else ack s2
    | _ => s1

/-- EVENT_DELIVERY (R342). -/
def execEventDelivery (n : Nat) (s : State) : Host.Outcome State Fault Refusal := .next (eventDelivery s n)

/-! ## Phase C (R344, R347-R349) -/

/-- Phase C has ended: every woken dependant has reported. -/
def endPhaseC (s : State) (c : Nat) : State :=
  let x := getCre s c
  if x.phase = .respond ∧ x.woken.all (fun w => w.reported) then
    setCre s c { x with phase := .choose, sent := false, woken := [], mirs := [] }
  else s

/-- The report of a woken dependant applied (R344): `none` is its old slope (R349). DEDUCED (log 46). -/
def applyReport (s : State) (c i : Nat) (d : Option Nat) : State :=
  let x := getCre s c
  match readBead s x i with
  | .error f => creFault s c f
  | .ok (s0, b) =>
    match writeBead s0 x i (reportBead b (d.getD (bD b)) x.time) with
    | .error f => creFault s c f
    | .ok s1 =>
      let x1 := getCre s1 c
      endPhaseC (setCre s1 c { x1 with woken := x1.woken.map (fun w => if w.ix = i then { w with reported := true } else w) }) c

/-- A dependant is woken in the set that responds now, and has not reported. -/
def unreported (x : Cre) (i : Nat) : Bool := decide (x.phase = .respond) && x.woken.any (fun w => w.ix == i && !w.reported)

/-- The handler class of a bead (R348). -/
def handlerClass (b : Nat) : Nat := if bCls b ≤ 15 ∨ bCls b = 17 then bCls b else 17

/-- The message that starts a dependant's handler (R348). -/
def handlerMsg (s : State) (c i b count : Nat) : Msg :=
  let x := getCre s c
  { cls := handlerClass b, rel := false, spilled := false, src := srcId s (ctxNo (48 * c) 0)
    a0 := BitVec.ofNat 64 (beadId s c i), a1 := BitVec.ofNat 64 x.time, a2 := BitVec.ofNat 64 count
    a3 := BitVec.ofNat 64 (0x1000000 + x.btab + 64 * i), job := (launchRec s x.core).job, origin := .bead c i x.time }

/-- The handlers of the woken dependants started, in order; a message that is discarded reports the old slope. -/
def startHandlers (s : State) (c : Nat) (l : List (Nat × Nat)) : State :=
  match l with
  | [] => endPhaseC s c
  | (i, b) :: rest =>
    let m := handlerMsg s c i b (((getCre s c).woken.find? (fun w => w.ix == i)).elim 0 (fun w => w.count))
    let k := 48 * c + bOwn b
    if bOwn b < 48 then
      startHandlers (if discards s k m then applyReport (deliver s k m) c i none else deliver s k m) c rest
    else startHandlers (applyReport (countUp s 0x042008 1) c i none) c rest

/-- PHASE_C_RESPOND (R347, R348). -/
def phaseC (s0 : State) (c : Nat) : State :=
  let s := creNow s0 c
  let x := getCre s c
  if x.phase = .wait ∧ x.respond = true ∧ launchLive s x.core = true then
    match readBeads s x ((sortBy (fun i => i) (x.woken.map (fun w => w.ix)))) with
    | .error f => creFault s c f
    | .ok (s1, bs) => startHandlers (setCre s1 c { x with phase := .respond, respond := false }) c (sortBy (fun p => bRank p.2) bs)
  else s

/-- PHASE_C_RESPOND (R348). -/
def execPhaseCRespond (clus : Nat) (s : State) : Host.Outcome State Fault Refusal := .next (phaseC s clus)

/-- The helper started for a dependant executes RETIRE (R349). -/
def creRetired (s : State) (x : Nat) : State :=
  match (getCtx s x).origin with
  | .bead c i t => if unreported (getCre s c) i ∧ (getCre s c).time = t then applyReport s c i none else s
  | _ => s

/-! ## QSLOPE (R364, R365) -/

/-- A binary32 that is NaN or infinite. -/
def badSlope (w : Nat) : Bool := notNum w

/-- QSLOPE (R365). -/
def execQslope (d a b : Reg) (s : State) : Host.Outcome State Fault Refusal :=
  let dn := (sreg s b).toNat % 2 ^ 32
  let g := (sreg s a).toNat
  let word := g / 2 ^ 14
  finish (.qslope d a b)
    (if isAband dn then .trap s (trapAband 0) (abandVal dn)
     else if badSlope dn then .ok (setSreg s d 3)
     else if 2 ^ 33 ≤ g ∨ 24 ≤ word % 32 ∨ jobNode s (word / 128) = false then .ok (setSreg s d 2)
     else
       .wait (sendBy s (launchOf s (curCore s)) s.turn
         (mkPacket s 5 (word / 128) (word / 32 % 4 * 1152 + word % 32 * 48) (.slope s.turn (cur s).start (launchOf s (curCore s)) g dn)))
         (.slope d))

/-- The answer to a report, and the state after it (R365). -/
def slopeAnswer (s : State) (c : Nat) (l : Option Nat) (i dn : Nat) : State × Nat :=
  let x := getCre s c
  if x.owner.isNone ∨ x.owner ≠ l ∨ x.nbead ≤ i then (s, 2)
  else if unreported x i then (applyReport s c i (some dn), 0)
  else if x.phase = .idle then (applyReport (setCre s c { x with dueTo := 0 }) c i (some dn), 0)
  else (s, 1)

/-- A reported slope, and its answer. -/
def isSlope (p : Packet) : Bool := match p.body with | .slope _ _ _ _ _ => true | _ => false
def isSlopeAns (p : Packet) : Bool := match p.body with | .slopeAns _ _ _ => true | _ => false

/-- SLOPE_REPORT (R365): the bead's engine applies or turns away a report, and answers. -/
def slopeReport (s : State) (n : Nat) : State :=
  match takeOrdered s (fun r q => isSlope r && decide (q.src ≠ myNode s)) isSlope n with
  | none => s
  | some (p, s1) =>
    match p.body with
    | .slope ctx start l g dn =>
      let (s2, code) := slopeAnswer s1 (p.die * 24 + p.clus) l (g % 2 ^ 14) dn
      sendPacket s2 (getCre s2 (p.die * 24 + p.clus)).owner (mkPacket s2 5 p.src (coreOf ctx) (.slopeAns ctx start code))
    | _ => s1

/-- SLOPE_REPORT (R344). -/
def execSlopeReport (n : Nat) (s : State) : Host.Outcome State Fault Refusal := .next (slopeReport s n)

/-- QSLOPE_ANSWER (R365): the answer reaches the context that waits, which writes s[d]. -/
def qslopeAnswer (s : State) (n : Nat) : State :=
  match takeOrdered s (fun r q => isSlopeAns r && decide (q.src ≠ myNode s)) isSlopeAns n with
  | none => s
  | some (p, s1) =>
    match p.body with
    | .slopeAns ctx start code =>
      (match (getCtx s1 ctx).wait with
       | some (.slope d) => if (getCtx s1 ctx).start = start then completeWait s1 ctx d (BitVec.ofNat 64 code) 4 else s1
       | _ => s1)
    | _ => s1

/-- QSLOPE_ANSWER (R365). -/
def execQslopeAnswer (n : Nat) (s : State) : Host.Outcome State Fault Refusal := .next (qslopeAnswer s n)

/-! ## Ends (R358, R373) -/

/-- The model of an engine unbound, where a launch owns it: group messages for it are discarded. -/
def unbindCre (s : State) (l c : Nat) : State :=
  let x := getCre s c
  if x.owner = some l then
    let s1 := { s with arrived := s.arrived.filter (fun p => match p.body with
      | .creJoin _ _ _ _ => true
      | .creEvent _ _ _ _ _ _ => !decide (p.die * 24 + p.clus = c)
      | _ => !isGroupMsg x c p) }
    setCre s1 c {}
  else s

end Sys2Proof.Machine
end

