-- ==== Sys2Proof/Machine/Spike.lean ====
section
/-!
DEFINITION. Spikes and step barriers (R367-R372): SPKTAB, SPKSTEP, SPIKE_ROUTE and STEP_BARRIER_COMPLETE; and RETIRE (R257), which
tells an engine or a step barrier that a handler has ended. A router counts each spike by its hops (log 17).
-/
namespace Sys2Proof.Machine

/-- The spike router serves the job of a slot (R367). DEDUCED (log 48). -/
def routerServes (s : State) (job : Nat) : Bool :=
  decide (bits (bar s 0x010010) 4 1 = 1 ∧ bits (bar s 0x010010) 0 4 = job)

/-- The access of an engine of a core to its cluster window. -/
def creOf (k : Nat) (m : EngCmd) : Cre := { core := k, priv := m.priv }

/-- A list of entries put into a map from an index on, modulo its size. -/
def putFrom {α : Type} (m : KMap α) (first size : Nat) (l : List α) : KMap α :=
  ((List.range l.length).zip l).foldl (fun acc p => kset acc ((first + p.1) % size) p.2) m

/-- SPKTAB (R370). DEDUCED (log 48). -/
def spktab (s : State) (k : Nat) : State :=
  match readyCmd s k .cre 0x46 with
  | none => s
  | some m =>
    let w := m.word
    if routerServes s (launchRec s k).job = false then creDone s k m 4 0
    else
      let n := cbits w 232 12 + 1
      let ln := if cbits w 155 1 = 1 then cbits w 180 14 + 1 else 0
      creTry s m (do
        let (s1, bs) ← creRead s (creOf k m) (cbits w 208 24) (16 * n)
        let (s2, ls) ← creRead s1 (creOf k m) (cbits w 156 24) (2 * ln)
        let ents := (numsOf 16 n bs).map (BitVec.ofNat 128)
        let words := (numsOf 2 ln ls).map (BitVec.ofNat 16)
        return creDone { s2 with spk := { ents := putFrom s.spk.ents (cbits w 244 12) 4096 ents
                                          list := putFrom s.spk.list (cbits w 194 14) 16384 words } } k m 0 n)

/-- SPKTAB (R370). -/
def execSpktab (core : Nat) (s : State) : Host.Outcome State Fault Refusal := .next (spktab s core)

/-- The node of a participant id, and its core (R371). -/
def partNode (w : Nat) : Nat := w / 2 ^ 13 % 2 ^ 12
def partCore (w : Nat) : Option Nat := coreOfId (w % 2 ^ 13)
/-- The root's module of a group. -/
def groupRoot (g : List Nat) : Nat := partNode (g.headD 0)

/-- The spikes of a step put before the module's router, in list order. -/
def emitSpikes (s : State) (k : Nat) (g : List Nat) (step : Nat) (keys : List Nat) : State :=
  keys.foldl (fun st key =>
    sendPacket st (launchOf st k) { mkPacket st 4 (myNode st) k (.spike g key step 0 (launchRec s k).job none) with mcast := true }) s

/-- SPKSTEP (R371): the engine joins the step at the root and emits its spikes; the command stays outstanding until the barrier
completes. DEDUCED (log 48). -/
def spkstep (s : State) (k : Nat) : State :=
  match readyCmd s k .cre 0x47 with
  | none => s
  | some m =>
    let w := m.word
    if routerServes s (launchRec s k).job = false then creDone s k m 4 0
    else
      let n := cbits w 186 14
      let np := cbits w 174 12 + 1
      let step := cbits w 224 32
      creTry s m (do
        let (s2, ks) ← creRead s (creOf k m) (cbits w 200 24) (4 * n)
        let (s3, ps) ← creRead s2 (creOf k m) (cbits w 150 24) (4 * np)
        let g := numsOf 4 np ps
        let s1 := setCmd s3 k .cre { m with phase := 3, out := 1, parts := g }
        let join := Body.stepJoin g step (myNode s * 2 ^ 13 + coreId k) n m.enqAt (cbits w 118 32)
        let s4 := if jobNode s1 (groupRoot g) then sendBy s1 (launchOf s k) m.ctx (mkPacket s1 5 (groupRoot g) k join) else s1
        return emitSpikes s4 k g step (numsOf 4 n ks))

/-- SPKSTEP (R371). -/
def execSpkstep (core : Nat) (s : State) : Host.Outcome State Fault Refusal := .next (spkstep s core)

/-! ## Routing (R368, R369) -/

/-- The fields of a router entry (R367). -/
def entPorts (e : BitVec 128) : Nat := e.toNat / 2 ^ 88 % 2 ^ 8
def entNloc (e : BitVec 128) : Nat := e.toNat / 2 ^ 80 % 2 ^ 7
def entStart (e : BitVec 128) : Nat := e.toNat / 2 ^ 64 % 2 ^ 14
/-- An entry is valid and matches a key. -/
def entMatch (e : BitVec 128) (key : Nat) : Bool :=
  decide (e.toNat / 2 ^ 87 % 2 = 1) && decide (entNloc e ≤ 64)
    && decide (Nat.land (Nat.xor (key % 2 ^ 32) (e.toNat % 2 ^ 32)) (e.toNat / 2 ^ 32 % 2 ^ 32) = 0)

/-- The counts of one spike told to the root of its group (R371). DEDUCED (log 17). -/
def tellStep (s : State) (g : List Nat) (body : Body) : State :=
  if jobNode s (groupRoot g) then sendPacket s none (mkPacket s 5 (groupRoot g) 0 body) else s

/-- Copies of a spike sent out of the ports of an entry that are up, but the one it came by: the state and how many. -/
def forwardSpike (s : State) (p : Packet) (body : Body) (from_ : Option Nat) (ports : List Nat) : State × Nat :=
  ports.foldl (fun acc i =>
    match neighbour acc.1 (myNode acc.1) (i / 2) (decide (i % 2 = 0)) with
    | some b =>
      if (acc.1.ports.toList.getD i {}).up && from_ != some i then
        (putOut acc.1 i { p with dst := b, body := body, tag := bodyTag body }, acc.2 + 1)
      else acc
    | none => acc) (s, 0)

/-- The message of a spike at a core (R369). -/
def spikeMsg (p : Packet) (g : List Nat) (key step job : Nat) : Msg :=
  { cls := 18, rel := false, spilled := false, src := BitVec.ofNat 64 (p.src * 2 ^ 15), a0 := BitVec.ofNat 64 key
    a1 := BitVec.ofNat 64 step, a2 := BitVec.ofNat 64 p.src, a3 := 0, job := job, origin := .spike g step }

/-- Copies of a spike delivered to listed cores: the state and how many were not discarded. -/
def spikeLocals (s : State) (m : Msg) (cores : List Nat) : State × Nat :=
  cores.foldl (fun acc w =>
    match coreOfId (w % 2 ^ 13) with
    | some k => (deliver acc.1 k m, if discards acc.1 k m then acc.2 else acc.2 + 1)
    | none => (countUp acc.1 0x042008 1, acc.2)) (s, 0)

/-- A spike. -/
def isSpike (p : Packet) : Bool := match p.body with | .spike _ _ _ _ _ _ => true | _ => false

/-- Spikes lost on a port that fails: each is counted lost for its step (R83, R371). -/
def loseSpikes (s : State) (l : List Packet) : State :=
  l.foldl (fun st p =>
    match p.body with
    | .spike g _ step hops _ _ => tellStep (countUp st 0x042028 1) g (.stepCount g step hops 1 0 0 1 0)
    | _ => st) s

/-- SPIKE_ROUTE (R368): the `n`-th spike that waits at the router. DEDUCED (log 15). -/
def spikeRoute (s : State) (n : Nat) : State :=
  match takeArrived s isSpike n with
  | none => s
  | some (p, s1) =>
    match p.body with
    | .spike g key step hops job from_ =>
      let lose := fun (lost : Nat) => tellStep (countUp s1 0x042028 1) g (.stepCount g step hops 1 0 0 lost 0)
      if routerServes s1 job = false ∨ 64 ≤ hops then lose 1
      else
        match s1.spk.ents.find? (fun e => entMatch e.2 key) with
        | none => lose 0
        | some (_, e) =>
          let ports := (List.range 8).filter (fun i => decide (entPorts e / 2 ^ i % 2 = 1))
          let cores := (List.range (entNloc e)).map (fun j => (kget 0 s1.spk.list ((entStart e + j) % 16384)).toNat)
          let (s2, fwd) := forwardSpike s1 p (.spike g key step (hops + 1) job none) from_ ports
          let (s3, loc) := spikeLocals s2 (spikeMsg p g key step job) cores
          tellStep s3 g (.stepCount g step hops 1 fwd loc 0 0)
    | _ => s1

/-- SPIKE_ROUTE (R368). -/
def execSpikeRoute (n : Nat) (s : State) : Host.Outcome State Fault Refusal := .next (spikeRoute s n)

/-! ## The step barrier (R371, R372) -/

/-- The step of a group at its root. -/
def getStep (s : State) (g : List Nat) (step : Nat) : StepGroup :=
  (s.steps.find? (fun x => x.parts == g && x.step == step)).getD { parts := g, step := step }
/-- The state with the step of a group replaced. -/
def setStep (s : State) (x : StepGroup) : State :=
  { s with steps := s.steps.filter (fun y => !(y.parts == x.parts && y.step == x.step)) ++ [x] }
/-- The step that a participant joins: one that is complete and is issued again begins anew (R371). -/
def newStep (s : State) (g : List Nat) (step : Nat) : StepGroup :=
  let x := getStep s g step
  if x.done.isSome then { parts := g, step := step } else x
/-- The steps whose barrier an engine of a core keeps are over (R371, R373). -/
def dropSteps (s : State) (k : Nat) : State :=
  { s with steps := s.steps.filter (fun x => x.parts.head? != some (myNode s * 2 ^ 13 + coreId k)) }
/-- A count raised at a key. -/
def kadd (m : KMap Nat) (k n : Nat) : KMap Nat := if n = 0 then m else kset m k (kget 0 m k + n)

/-- A command that is a participant's SPKSTEP for a step of a group, still outstanding. -/
def isStepCmd (g : List Nat) (step : Nat) (m : EngCmd) : Bool :=
  copOf m.word == 0x47 && m.phase == 3 && m.parts == g && cbits m.word 224 32 == step

/-- The commands of the participants of a group at this module for a step. -/
def stepCmds (s : State) (g : List Nat) (step : Nat) : List (Nat × EngCmd) :=
  ((g.filter (fun w => partNode w == myNode s)).filterMap partCore).eraseDups.flatMap (fun k =>
    ((getQ s k .cre).cmds.filter (isStepCmd g step)).map (fun m => (k, m)))

/-- A participant's SPKSTEP as it ends (R372). -/
def endedStep (m : EngCmd) (lost stretch : Nat) : EngCmd :=
  let st := min stretch (2 ^ 32 - 1)
  let trap := if cbits m.word 86 32 < stretch then
    [{ cause := trapOverrun, tval := BitVec.ofNat 64 (cbits m.word 224 32 * 2 ^ 32 + st) : Deferred }] else []
  { m with traps := trap, out := 0, status := if lost = 0 then 0 else 3, word2 := min lost (2 ^ 32 - 1) * 2 ^ 32 + st }

/-- A participant's SPKSTEP ends (R372). -/
def endStep (s : State) (p : Nat × EngCmd) (lost stretch : Nat) : State := setCmd s p.1 .cre (endedStep p.2 lost stretch)

/-- The SPKSTEPs of saved launches end as well (R435, R372). -/
def endSaved (s : State) (g : List Nat) (step lost stretch : Nat) : State :=
  let cmd := fun (m : EngCmd) => if isStepCmd g step m then endedStep m lost stretch else m
  let img := fun (c : CoreImage) =>
    ({ c with core := { c.core with eng := c.core.eng.map (fun q => { q with cmds := q.cmds.map cmd }) } } : CoreImage)
  { s with launches := s.launches.map (fun p => (p.1, { p.2 with images := p.2.images.map img })) }

/-- A step message. -/
def isStepMsg (p : Packet) : Bool :=
  match p.body with
  | .stepJoin _ _ _ _ _ _ => true | .stepCount _ _ _ _ _ _ _ _ => true | .stepDone _ _ _ _ _ => true | _ => false

/-- A step message taken. -/
def takeStepMsg (s : State) (p : Packet) : State :=
  match p.body with
  | .stepJoin g step who made time tstep =>
    let x := newStep s g step
    setStep s { x with joined := who :: x.joined, lastJoin := max x.lastJoin time, made := kadd x.made 0 made
                       tstep := if who = g.headD 0 then tstep else x.tstep }
  | .stepCount g step hops routed fwd loc lost retired =>
    let x := getStep s g step
    setStep s { x with routed := kadd x.routed hops routed, made := kadd x.made (hops + 1) fwd
                       loc := x.loc + loc, retired := x.retired + retired, lost := x.lost + lost }
  | .stepDone g step lost time nominal => 
    endSaved ((stepCmds s g step).foldl (fun st q => endStep st q lost (time - nominal)) s) g step lost (time - nominal)
  | _ => s

/-- Every step message that has come, taken in order. -/
def takeSteps (fuel : Nat) (s : State) : State :=
  match fuel with
  | 0 => s
  | fuel + 1 =>
    match takeArrived s isStepMsg 0 with
    | some (p, s1) => takeSteps fuel (takeStepMsg s1 p)
    | none => s

/-- The nominal end of a step (R371); `none` while the step before it has not completed. DEDUCED (log 48). -/
def nominalEnd (s : State) (x : StepGroup) : Option Nat :=
  match s.steps.find? (fun y => y.parts == x.parts && (y.step + 1) % 2 ^ 32 == x.step) with
  | some y => y.done.map (fun t => t + x.tstep)
  | none => some (x.lastJoin + x.tstep)

/-- The barrier of a step may complete: all have joined, delivery is complete, the nominal end is reached. DEDUCED (log 17). -/
def stepReady (s : State) (x : StepGroup) : Bool :=
  x.done.isNone && x.parts.all (fun w => x.joined.contains w) && x.made == x.routed && x.loc == x.retired
    && (match nominalEnd s x with | some t => decide (t ≤ nowNs s) | none => false)

/-- STEP_BARRIER_COMPLETE (R371): the `n`-th step whose barrier may complete; every participant's module is told. -/
def stepBarrier (s0 : State) (n : Nat) : State :=
  let s := takeSteps s0.arrived.length s0
  match lfindN (stepReady s) s.steps n with
  | none => s
  | some (_, x) =>
    let nominal := (nominalEnd s x).getD 0
    let s1 := setStep { s with steps := s.steps.filter (fun y => !(y.parts == x.parts && (y.step + 1) % 2 ^ 32 == x.step)) }
      { x with done := some (nowNs s) }
    (x.parts.map partNode).eraseDups.foldl (fun st node =>
      if jobNode st node then sendPacket st none (mkPacket st 5 node 0 (.stepDone x.parts x.step x.lost (nowNs s) nominal)) else st) s1

/-- STEP_BARRIER_COMPLETE (R371). -/
def execStepBarrierComplete (n : Nat) (s : State) : Host.Outcome State Fault Refusal := .next (stepBarrier s n)

/-! ## RETIRE (R257) -/

/-- The helper started by a spike of a step retires: the root is told (R371). -/
def spikeRetired (s : State) (x : Nat) : State :=
  match (getCtx s x).origin with
  | .spike g step => tellStep s g (.stepCount g step 0 0 0 0 0 1)
  | _ => s

/-- A context made FREE (R257): its bindings end, T and MK are cleared, its leave returns (R401), engines and steps learn of it. -/
def freeCtx (s : State) (x : Nat) : State :=
  let s1 := spikeRetired (creRetired (putLeave s x) x) x
  setCtx s1 x { unbindAll (getCtx s1 x) with st := .free, t := false, mkr := false, wait := none, held := [], cls := none,
                                             origin := .plain, answers := [], farTag := none }

/-- RETIRE (R257). -/
def execRetire (s : State) : Host.Outcome State Fault Refusal :=
  finish .retire
    (if (cur s).acks ≠ [] then .wait s .acks else .stay (settleSpill (freeCtx s s.turn) (curCore s)))

end Sys2Proof.Machine
end

