-- ==== Sys2Proof/Machine/Enq.lean ====
section
/-!
DEFINITION. ENQ (R88, R93-R95, R134, R300-R311, R323, R324, R357-R371): the checks of every tile command, in the order of R308 for a
matrix command, and the appending of a command to its queue.
-/
namespace Sys2Proof.Machine

/-- Bits `hi` to `lo` of a command are zero. -/
def zeroAt (c : Cmd) (hi lo : Nat) : Bool := decide (cbits c lo (hi + 1 - lo) = 0)

/-- The engine's own COPs (R93, R196). -/
def copOk (e : Engine) (cop : Nat) : Bool :=
  match e with
  | .mxu => decide (0x10 ≤ cop ∧ cop ≤ 0x17)
  | .cpe => decide (0x20 ≤ cop ∧ cop ≤ 0x22)
  | .gte => decide (0x30 ≤ cop ∧ cop ≤ 0x33)
  | .cre => decide (0x40 ≤ cop ∧ cop ≤ 0x47)

/-! ## Copy and gather commands (R88, R103, R106, R109, R119-R122) -/

/-- An address in the cluster or module window that names a core other than the issuer (R103); a unit that does not exist is no core, and
its bytes read zero (R24, R132). DEDUCED (log 62). -/
def otherSlice (k : Nat) (a : Word) : Bool :=
  let v := a.toNat
  if 0x1000000 ≤ v ∧ v < 0x1C00000 then decide (k / 48 * 48 + (v - 0x1000000) / 2 ^ 18 ≠ k)
  else if 2 ^ 32 ≤ v ∧ v < 0x180000000 then ((coreOfId (v / 2 ^ 18 % 2 ^ 13)).map (fun j => j != k)).getD false
  else false

/-- A scratch window address (R32). -/
def scratchAddr (a : Word) : Bool :=
  let v := a.toNat
  decide (v < 2 ^ 18 ∨ (0x1000000 ≤ v ∧ v < 0x1C00000) ∨ (2 ^ 32 ≤ v ∧ v < 0x180000000))

/-- The pegs of a booking that bytes from peg offset `pegoff` on touch: `n` bytes, or unpacked streams (R103). -/
def pegsOf (id : BookId) (pegoff : Nat) (streams : List (Nat × Nat)) : List Nat :=
  let sz := 2 ^ (bookSize id + 6)
  (streams.flatMap (fun p =>
    let lo := (pegoff * sz + p.1) / sz
    let hi := (pegoff * sz + p.1 + p.2 - 1) / sz
    (List.range (hi + 1 - lo)).map (fun j => bookFirst id + lo + j))).eraseDups

/-- A booking of the core's table takes these pegs (R103). DEDUCED (log 36). -/
def bookTakes (s : State) (k : Nat) (id : BookId) (pegs : List Nat) : Bool :=
  match (getCore s k).books.find? (fun b => b.id == id) with
  | some b => pegs.all (fun g => decide (bookFirst id ≤ g ∧ g < bookFirst id + bookCount id) && !b.pushed.contains g)
  | none => false

/-- The streams that XSEND writes (R103, R104): offset and length of each. -/
def sendStreams (c : Cmd) : List (Nat × Nat) :=
  let len := cbits c 160 32
  let n := cbits c 212 4
  if n = 0 ∨ cbits c 219 1 = 0 then [(0, len)] else (List.range n).map (fun j => (j * cbits c 220 24, len / n))

/-- The checks of a CPE command. DEDUCED (log 62). -/
def cpeOk (s : State) (k : Nat) (c : Cmd) : Bool :=
  let cop := copOf c
  let len := cbits c 160 32
  if cop = 0x20 then
    let n := cbits c 212 4
    let mode := cbits c 192 4
    zeroAt c 245 244 && zeroAt c 211 204 && decide (0 < len ∧ len ≤ 0x7FFFFFFF) && decide (mode ≤ 1) && decide (n ≠ 1 ∧ n ≤ 8)
      && (decide (n = 0) || decide (len % n = 0)) && !otherSlice k (fieldLo c)
      && (decide (mode = 0) || bookTakes s k (fieldHi c) (pegsOf (fieldHi c) (cbits c 196 8) (sendStreams c)))
  else if cop = 0x21 then
    let chunk := cbits c 160 24
    zeroAt c 245 244 && !ordOf c && decide (64 ≤ chunk ∧ chunk ≤ 65536 ∧ chunk % 64 = 0) && decide (cbits c 188 32 ≠ 0)
      && scratchAddr (fieldHi c) && decide ((fieldHi c).toNat % 64 = 0)
      && decide ((fieldHi c).toNat % 2 ^ 18 + (cbits c 184 4 + 1) * chunk ≤ 2 ^ 18)
  else
    let w := 2 ^ cbits c 192 2
    zeroAt c 245 194 && decide (0 < len ∧ len ≤ 0x7FFFFFFF ∧ len % w = 0) && decide ((fieldLo c).toNat % w = 0)
      && decide ((fieldHi c).toNat < 2 ^ (8 * w))

/-- The checks of a GTE command. DEDUCED (log 37). -/
def gteOk (s : State) (k : Nat) (c : Cmd) : Bool :=
  let cop := copOf c
  if cop = 0x32 then
    zeroAt c 245 200 && zeroAt c 191 191 && decide (cbits c 160 18 % 4 = 0)
      && (decide (cbits c 190 1 = 0)
          || bookTakes s k (fieldHi c) (pegsOf (fieldHi c) (cbits c 192 8) [(0, (cbits c 178 8 + 1) * pageBytes c)]))
  else
    let w := 2 ^ (cbits c 210 2 + 1)
    let n := cbits c 178 16
    let row := cbits c 194 16
    zeroAt c 245 244 && decide (cbits c 210 2 ≠ 3) && decide (n ≠ 0 ∧ row ≠ 0) && decide (cbits c 160 18 % w = 0)
      && decide (cbits c 160 18 + n * w ≤ 0x40000)
      && (decide (cop ≠ 0x31)
          || (decide (n ≤ 4096) && decide (n * row ≤ bookCount (fieldHi c) * 2 ^ (bookSize (fieldHi c) + 6))
              && bookTakes s k (fieldHi c) (pegsOf (fieldHi c) 0 [(0, n * row)])))

/-! ## Matrix commands (R300-R311, R323, R324) -/

/-- The fields that a matrix command leaves zero, OUT among them where it stores nothing (R300, R323). -/
def mxFields (c : Cmd) : Bool :=
  let cop := copOf c
  let out := decide (cbits c 10 1 = 1) || zeroAt c 223 160
  if cop = 0x10 ∨ cop = 0x12 then zeroAt c 253 251 && out
  else if cop = 0x11 then out
  else if cop = 0x13 then zeroAt c 253 251 && zeroAt c 159 32 && zeroAt c 10 9 && decide (mxK c ≤ 32)
  else if cop = 0x14 then
    zeroAt c 251 251 && zeroAt c 199 184 && zeroAt c 10 9 && decide (mxK c ≤ 1024)
      && (decide (cbits c 253 1 = 1) || (zeroAt c 252 252 && zeroAt c 223 200)) && decide (cbits c 200 24 % 4 = 0)
      && decide (cbits c 160 24 % 16 = 0) && decide (cbits c 160 24 + 16 * mxBlocks c * mxN c ≤ 0xC00000)
      && decide (cbits c 200 24 + (if cbits c 252 1 = 1 then 4 * mxM c else 4) ≤ 0xC00000)
  else if cop = 0x15 then zeroAt c 253 251 && zeroAt c 236 32 && zeroAt c 10 9
  else if cop = 0x16 then zeroAt c 253 251 && zeroAt c 236 96 && zeroAt c 10 9
  else zeroAt c 253 251 && zeroAt c 236 224 && zeroAt c 159 32 && zeroAt c 10 10

/-- A scratchpad descriptor obeys R303 and R134, for rows of `row` bytes. DEDUCED (log 42). -/
def descOk (d row : Nat) : Bool :=
  decide (d / 2 ^ 38 % 8 = 0) && decide (d % 2 ^ 24 % 16 = 0) && decide (d % 2 ^ 24 < 0xC00000)
    && (decide (d / 2 ^ 61 = 0)
        || (decide (d % 2 ^ 24 % 1024 = 0) && decide (d / 2 ^ 41 % 2 ^ 18 % 16 = 0) && decide (d / 2 ^ 24 % 2 ^ 14 % 64 = 0)
            && decide (row ≤ 1024)))

/-- A descriptor of a store, or of MLDACC: no VG, SKZ or TP (R303, R316). -/
def plainDesc (d row : Nat) : Bool := descOk d row && decide (d / 2 ^ 41 % 2 ^ 20 = 0)

/-- The registers that a VG operand of `rows` rows of elements of `w` bytes takes (R304). -/
def vgRegs (d w rows : Nat) : List Nat := (List.range (2 * w * rows)).map (fun j => d % 32 + j)

/-- An operand descriptor: from registers (R304), or from scratchpad. -/
def operandOk (s : State) (c : Cmd) (d w rows : Nat) : Bool :=
  if descVG d then
    decide (copOf c ≠ 0x11) && decide (d / 2 ^ 61 = 0) && decide (d % 2 ^ 59 < 32) && decide (mxK c ≤ 128)
      && (vgRegs d w rows).all (fun r => decide (r < 32) && (genOf (cur s) (BitVec.ofNat 5 r)).isNone && (endOf (cur s) (BitVec.ofNat 5 r)).isNone)
  else descOk d (min (mxK c) 128 * w)

/-- The byte width of a type. -/
def tyBytes (t : Option ETy) : Nat := tyWidth (t.getD .i8) / 8

/-- The command multiplies operands. -/
def mxMulti (cop : Nat) : Bool := decide (cop ≤ 0x12 ∨ cop = 0x14)
/-- The command stores accumulator values in OFMT. -/
def mxStores (c : Cmd) : Bool := decide (copOf c = 0x17) || (decide (copOf c ≤ 0x12) && decide (cbits c 10 1 = 1))

/-- The bytes of a row that a command stores in OFMT, or MTOPK writes. DEDUCED (log 42). -/
def outRow (c : Cmd) (o : Option ETy) : Nat :=
  if copOf c = 0x13 then 8 * mxK c else (mxSpan c).2 * mxN c * tyBytes o

/-- The descriptors of a matrix command (R303, R304, R134, R310). DEDUCED (log 42). -/
def mxDescs (s : State) (c : Cmd) (mf : Word) : Bool :=
  let cop := copOf c
  (!mxMulti cop || (operandOk s c (mxAD c) (tyBytes (aType mf)) (mxM c) && operandOk s c (mxBD c) (tyBytes (bType mf)) (mxN c)))
    && (decide (cop ≠ 0x12) || (!descSKZ (mxAD c) && !descSKZ (mxBD c)))
    && (decide (cop ≠ 0x16) || plainDesc (mxAD c) (4 * mxN c))
    && (!(mxStores c || decide (cop = 0x13)) || plainDesc (mxOUT c) (outRow c (oType mf)))

/-- The formats and SPAN (R305, R307, R311, R324). -/
def mxFormats (c : Cmd) (mf : Word) : Bool :=
  let cop := copOf c
  (!mxMulti cop || (match aType mf, bType mf with
    | some a, some b => (match mxMode a b with
      | some m => decide (cop ≠ 0x14) || blockRule m
      | none => false)
    | _, _ => false))
    && (!mxStores c || (oType mf).isSome) && (decide (cop ≠ 0x11) || decide (cbits c 251 3 ≤ 5))

/-- Two hulls joined. -/
def hullJoin (a b : Nat × Nat) : Nat × Nat := (min a.1 b.1, max a.2 b.2)

/-- The hull of a descriptor (R309): the lowest and highest address of its rows in its blocks, of the row lengths given. -/
def hullOf (d rows : Nat) (lens : List Nat) : Nat × Nat :=
  ((List.range lens.length).zip lens).foldl (fun acc kb =>
    (List.range rows).foldl (fun acc i =>
      (List.range ((kb.2 + 63) / 64)).foldl (fun acc g =>
        let a := (rowAddr d kb.1 i (64 * g)).toNat
        hullJoin acc (a, a + min 64 (kb.2 - 64 * g) - 1)) acc) acc) (2 ^ 64, 0)

/-- Two hulls meet. -/
def hullMeet (a b : Nat × Nat) : Bool := decide (a.1 ≤ b.2 ∧ b.1 ≤ a.2)

/-- OPS of the operand-alias trap (R309); 0 where no operand meets OUT. -/
def aliasOps (c : Cmd) (mf : Word) : Nat :=
  if copOf c ≤ 0x12 ∧ cbits c 10 1 = 1 then
    let lens := fun w => (List.range (mxBlocks c)).map (fun kb => min 128 (mxK c - 128 * kb) * w)
    let out := hullOf (mxOUT c) ((mxSpan c).1 * mxM c) [outRow c (oType mf)]
    let meets := fun d w rows => !descVG d && hullMeet out (hullOf d rows (lens w))
    b2n (meets (mxAD c) (tyBytes (aType mf)) ((mxSpan c).1 * mxM c))
      + 2 * b2n (meets (mxBD c) (tyBytes (bType mf)) ((mxSpan c).2 * mxN c))
  else 0

/-- The registers that the VG operands of a matrix command name (R304). -/
def vgNamed (c : Cmd) (mf : Word) : List Nat :=
  if mxMulti (copOf c) then
    (if descVG (mxAD c) then vgRegs (mxAD c) (tyBytes (aType mf)) (mxM c) else [])
      ++ (if descVG (mxBD c) then vgRegs (mxBD c) (tyBytes (bType mf)) (mxN c) else [])
  else []

/-! ## Crossing commands (R357-R363, R370, R371) -/

/-- A cluster-window offset of a crossing command: below 0xC0_0000 and aligned (R357). -/
def creOff (c : Cmd) (lo align : Nat) : Bool := decide (cbits c lo 24 < 0xC00000 ∧ cbits c lo 24 % align = 0)

/-- The checks of a CRE command. -/
def creOk (c : Cmd) : Bool :=
  let cop := copOf c
  zeroAt c 10 9 &&
    (if cop = 0x40 then zeroAt c 203 32 && creOff c 204 64 && decide (cbits c 242 14 + cbits c 228 14 ≤ 16383)
     else if cop = 0x41 then zeroAt c 101 32 && creOff c 202 64 && creOff c 166 4
     else if cop = 0x42 then zeroAt c 159 32
     else if cop = 0x43 then zeroAt c 255 32
     else if cop = 0x44 then zeroAt c 139 32 && creOff c 168 8 && decide (cbits c 154 14 + cbits c 140 14 ≤ 16383)
     else if cop = 0x45 then
       zeroAt c 144 32 && (decide (cbits c 145 1 = 1) || decide (cbits c 210 16 ≠ 0 ∧ cbits c 162 48 ≠ 0))
         && decide (cbits c 242 14 + cbits c 228 14 ≤ 16383)
     else if cop = 0x46 then
       zeroAt c 154 32 && creOff c 208 16 && creOff c 156 2 && decide (cbits c 244 12 + cbits c 232 12 ≤ 4095)
     else zeroAt c 85 32 && creOff c 200 4 && creOff c 150 4)

/-! ## ENQ (R93) -/

/-- A command passes the checks that raise the illegal-command trap (R93, R308). -/
def cmdOk (s : State) (e : Engine) (c : Cmd) (mf : Word) : Bool :=
  copOk e (copOf c) && zeroAt c 15 11 &&
    (match e with
     | .mxu => mxFields c && mxDescs s c mf && mxFormats c mf
     | .cpe => (depOf c || zeroAt c 255 246) && cpeOk s (curCore s) c
     | .gte => (depOf c || zeroAt c 255 246) && gteOk s (curCore s) c
     | .cre => creOk c)

/-- Commands that fill a queue (R26, R85, R87): a queue holds four, and the rules do not say whether the running one is among them; here
the queued, the held and the running one count, the outstanding ones do not. DESIGN CHOICE (log 77). -/
def queueFull (s : State) (k : Nat) (e : Engine) : Bool := decide (4 ≤ (getQ s k e).cmds.countP (fun m => decide (m.phase ≤ 2)))

/-- Addresses that meet every page of a range of `n` bytes (R41). -/
def pageProbes (a : Word) (n : Nat) : List Word :=
  (a + BitVec.ofNat 64 (n - 1)) :: (List.range (n / 4096 + 1)).map (fun j => a + BitVec.ofNat 64 (min (4096 * j) (n - 1)))

/-- No promise is made (R95): a push into a pitch, or with a byte that leaves the module, or a transfer that asks for leave.
DESIGN CHOICE (log 68). -/
def noPromise (s : State) (k : Nat) (m : EngCmd) : Bool :=
  let c := m.word
  let book := decide (copOf c = 0x20) && decide (cbits c 192 4 = 1)
  let a := { engWrite k m with eng := some .cpe }
  let leaves := fun (b : Word) (n : Nat) => (pageProbes b n).any (fun va => isFar (resolve s a va))
  decide (leaveUnits m ≠ 0) || book ||
    (if copOf c = 0x22 then leaves (fieldLo c) (cbits c 160 32)
     else if copOf c = 0x21 then leaves (fieldHi c) ((cbits c 184 4 + 1) * cbits c 160 24)
     else (sendStreams c).any (fun p => leaves (fieldHi c + BitVec.ofNat 64 p.1) p.2))

/-- The command as it enters its queue: what ENQ samples (R95, R304, R305). -/
def newCmd (s : State) (e : Engine) (c : Cmd) : EngCmd :=
  let x := cur s
  { uid := s.uid, word := c, id := if e = .cpe then (getCore s (curCore s)).nextId + 1 else tagOf c, ctx := s.turn,
    start := x.start, priv := x.sm, enqAt := nowNs s, mfmt := x.mfmt, ascale := x.ascale, bscale := x.bscale, fmode := x.fmode
    caps := if e = .mxu then (vgNamed c x.mfmt).map (fun r => vfile x (BitVec.ofNat 5 r)) else [] }

/-- A command appended to its queue, s[d] and ctl.xprom written (R93-R95). DESIGN CHOICE (log 68). -/
def appendCmd (s : State) (d : Reg) (e : Engine) (c : Cmd) : State :=
  let k := curCore s
  let m := newCmd s e c
  let s1 := setQ { s with uid := s.uid + 1, nonce := s.nonce + 1 } k e { getQ s k e with cmds := (getQ s k e).cmds ++ [m] }
  if e = .cpe then
    let s2 := setCore s1 k { getCore s1 k with nextId := m.id }
    setSreg (setCur s2 { cur s2 with xprom := if noPromise s k m then 0 else Config.promise s.nonce }) d (BitVec.ofNat 64 m.id)
  else setSreg s1 d (BitVec.ofNat 64 m.id)

/-- ENQ (R93, R308, R425). -/
def execEnq (d a : Reg) (e : Engine) (s : State) : Host.Outcome State Fault Refusal :=
  let i : Instr := .enq d a e
  finish i
    (bankThen s [a] (fun s1 =>
      match stallOf i s1 [a] none, heldFault s1 [a] with
      | some w, _ => w
      | none, some (cause, va) => .fault s1 cause va
      | none, none =>
        let c : Cmd := (vfile (cur (popAll s1 [a])) a).setWidth 256
        let mf := (cur s1).mfmt
        let vg := if e = .mxu ∧ copOk e (copOf c) then ((vgNamed c mf).filter (fun r => decide (r < 32))).map (BitVec.ofNat 5) else []
        bankThen s1 vg (fun s2 =>
          if cmdOk s2 e c mf = false then .trap s2 (trapIllegal .illCommand) (c.setWidth 64)
          else if e = .mxu ∧ aliasOps c mf ≠ 0 then .trap s2 trapAlias (BitVec.ofNat 64 (tagOf c * 2 ^ 48 + aliasOps c mf))
          else if queueFull s2 (curCore s2) e then .wait s2 (.enq e)
          else afterStores s2 .core (.ok (appendCmd (popAll s2 [a]) d e c)))))

end Sys2Proof.Machine
end

