-- ==== Sys2Proof/Machine/Token.lean ====
section
/-!
DEFINITION. Remote accesses and region tokens (R65-R81): the token instructions, and the events PEER_REQUEST, PEER_ANSWER,
PEER_STORE_ACK, NONE_STATE_ACCESS, TOKEN_REQUEST, TOKEN_REVOKE, TOKEN_REVOKE_ACK, TOKEN_GRANT and TOKEN_ANSWER. A home serves the
requests for a region one at a time, in the order they came (R70).
-/
namespace Sys2Proof.Machine

/-! ## Accesses performed for another module (R65, R71) -/

/-- An access performed on cells of this module's DRAM: the state and the answer, for the places `ixs`. A unit in error that is read, or
written in part, stops it (R29). -/
def performAcc (s : State) (acc : FarAcc) (keys ixs : List Nat) : State × FarAns :=
  let old := keys.map (mget s.mem)
  let writes := acc.kind == .store || acc.kind == .engWrite
  let reads := if writes then keys.filter (fun k => !wholeUnit keys k) else keys
  match (keys.zip ixs).find? (fun p => poisoned s p.1 && reads.contains p.1) with
  | some p => (noteDouble s p.1, .ecc p.2)
  | none =>
    let s1 := noteRead s reads
    if writes then (putCells s1 (keys.zip acc.data), .bytes (ixs.zip old))
    else
      ((match acc.kind with
        | .amo =>
          (match rmwNew acc.amo acc.cas acc.data old with
           | some bs => putCells s1 (keys.zip bs)
           | none => s1)
        | _ => s1), .bytes (ixs.zip old))

/-- The data of an access of a node, which travel on MC1 beside its request (R61, R65, R71). -/
def isDataOf (node tag : Nat) (p : Packet) : Bool :=
  match p.body with
  | .accData n t _ _ => n == node && t == tag
  | _ => false

/-- An access with its data, where they are needed, and the state without their packet; none while they have not come. -/
def withData (s : State) (node tag : Nat) (acc : FarAcc) : Option (FarAcc × State) :=
  if bringsData acc.kind then
    match takeArrived s (isDataOf node tag) 0 with
    | some (p, s1) =>
      (match p.body with
       | .accData _ _ d c => some ({ acc with data := d, cas := c }, s1)
       | _ => none)
    | none => none
  else some (acc, s)

/-- The class of an answer (R61): data that were read travel on MC1, ordered where the leaf is; all else on MC3. -/
def answerPacket (s : State) (node : Nat) (acc : FarAcc) (ans : FarAns) (body : Body) : Packet :=
  match acc.kind, ans with
  | .store, _ => mkPacket s 3 node 0 body
  | .engWrite, _ => mkPacket s 3 node 0 body
  | _, .bytes _ => { mkPacket s 1 node 0 body with ord := acc.ob }
  | _, _ => mkPacket s 3 node 0 body

/-- A direct peer access. -/
def isPeerReq (p : Packet) : Bool := match p.body with | .peerReq _ _ => true | _ => false

/-- A peer access may be performed (R65): its data have come, and no access that reached one of its dies before it waits. -/
def peerMay (s : State) (i : Nat) (p : Packet) : Bool :=
  match p.body with
  | .peerReq tag acc =>
    (withData s p.src tag acc).isSome
      && (s.arrived.take i).all (fun q => match q.body with
          | .peerReq _ b => !acc.addrs.any (fun o => b.addrs.any (fun v => dramDie v == dramDie o))
          | _ => true)
  | _ => false

/-- PEER_REQUEST (R65): the `n`-th direct peer access that may be performed, on local DRAM, is performed and answered. -/
def peerRequest (s : State) (n : Nat) : State :=
  match nthAt s (peerMay s) n with
  | none => s
  | some (i, p) =>
    match p.body with
    | .peerReq tag acc0 =>
      (match withData { s with arrived := ldel s.arrived i } p.src tag acc0 with
       | none => s
       | some (acc, s1) =>
         let (s2, ans) := performAcc s1 acc (acc.addrs.map dramKey) (List.range acc.addrs.length)
         let body := match acc.kind, ans with
           | .store, .bytes _ => Body.peerAck tag
           | _, _ => Body.peerAns tag ans
         sendPacket s2 none (answerPacket s2 p.src acc ans body))
    | _ => s

/-- PEER_REQUEST (R65). -/
def execPeerRequest (n : Nat) (s : State) : Host.Outcome State Fault Refusal := .next (peerRequest s n)

/-- The context that waits for a remote access, while it is live from the same start and still waits. -/
def farCtx (s : State) (x start tag : Nat) : Option Ctx :=
  let c := getCtx s x
  if c.st ≠ .free ∧ c.start = start ∧ (c.farTag = some tag ∨ c.holds.any (fun h => h.tag == tag) = true) then some c else none

/-- Bytes of an answer as the asker holds them. -/
def farBytes (f : FarReq) (bs : List (Nat × Byte)) : List (Word × Byte) :=
  bs.map (fun p => (BitVec.ofNat 64 (f.vas.getD p.1 0), p.2))

/-- The context of a remote access goes on: it executes again once no answer is owed to it. -/
def resumeCtx (c : Ctx) (tag : Nat) : Ctx :=
  let d := { c with farTag := if c.farTag = some tag then none else c.farTag, holds := c.holds.filter (fun h => decide (h.tag ≠ tag)) }
  let last := c.farTag = some tag ∨ d.holds.all (fun h => h.tag == 0) = true
  { d with
    holds := if c.farTag ≠ some tag ∧ last then [] else d.holds, farTag := if c.farTag ≠ some tag ∧ last then none else d.farTag
    st := if last ∧ c.st = .blocked then .ready else c.st }

/-- The whole answer has come: the context executes again, or the command goes on (R65). DEDUCED (log 23). -/
def farDone (s : State) (f : FarReq) : State :=
  match f.who with
  | .ctx x start =>
    (match farCtx s x start f.tag with
     | some c => setCtx s x (resumeCtx c f.tag)
     | none =>
       let c := getCtx s x
       setCtx s x { c with acks := c.acks.filter (fun t => t != f.tag) })
  | .cmd k e uid =>
    (match findCmd s k e uid with
     | some m =>
       if f.kind = .engWrite then setCmd s k e { m with out := m.out - 1, moved := m.moved + f.vas.length }
       else setCmd s k e { m with farTag := none }
     | none => s)
  | .record _ => s

/-- Bytes of an answer reach who asked. -/
def farTake (s : State) (f : FarReq) (bs : List (Nat × Byte)) : State :=
  let s1 := match f.who with
    | .ctx x start =>
      (match farCtx s x start f.tag with
       | some c => setCtx s x { c with answers := c.answers ++ farBytes f bs }
       | none => s)
    | .cmd k e uid =>
      (match findCmd s k e uid with
       | some m => if f.kind = .engWrite then s else setCmd s k e { m with answers := m.answers ++ farBytes f bs }
       | none => s)
    | .record _ => s
  let g := { f with got := f.got ++ bs.map (·.1) }
  if g.vas.length ≤ g.got.length then farDone (dropFar s1 f.tag) g
  else { s1 with fars := s1.fars.map (fun h => if h.tag = f.tag then g else h) }

/-- A fault of a remote access, against who asked; the tokens that its store holds are given up. -/
def farFault (s : State) (f : FarReq) (cause : Nat) (va : Word) : State :=
  let s1 := dropFar s f.tag
  match f.who with
  | .ctx x start =>
    if (getCtx s1 x).st ≠ .free ∧ (getCtx s1 x).start = start then raiseFault (releaseHolds s1 x) x cause va else s1
  | .cmd k e uid =>
    (match findCmd s1 k e uid with
     | some m => raiseFault s1 m.ctx cause va
     | none => s1)
  | .record _ => countUp s1 0x042038 1

/-- The home keeps the place of a store that is not performed: it is told so. -/
def unhold (s : State) (node tag : Nat) (launch : Option Nat) : State :=
  sendPacket s launch (mkPacket s 3 node 0 (.noneEnd tag false))

/-- A home has checked a part of a store over several tokens and keeps its place (R13, R71): the context goes on to hold the next one. -/
def farHeld (s : State) (f : FarReq) : State :=
  match f.who with
  | .ctx x start =>
    (match farCtx s x start f.tag with
     | some c =>
       let base := ((regionOf s (f.vas.headD 0)).map (·.base)).getD 0
       setCtx s x { c with st := if c.st = .blocked then .ready else c.st, farTag := none,
                           holds := c.holds ++ [{ base := base, node := f.node, tag := f.tag }] }
     | none => unhold (dropFar s f.tag) f.node f.tag f.launch)
  | _ => unhold (dropFar s f.tag) f.node f.tag f.launch

/-- An answer of a node taken (R65, R71, R72). -/
def farAnswer (s : State) (node tag : Nat) (ans : FarAns) : State :=
  match s.fars.find? (fun f => f.tag == tag) with
  | none => if ans = .held then unhold s node tag none else s
  | some f =>
    let va := fun i => BitVec.ofNat 64 (f.vas.getD i 0)
    match ans with
    | .bytes bs => farTake s f bs
    | .held => farHeld s f
    | .prot i => farFault s f faultProt (va i)
    | .ecc i => farFault s f (faultEcc 1) (va i)
    | .lost _ => farFault s f (faultLink 3) 0
    | .trap i =>
      let s1 := dropFar s tag
      (match f.who with
       | .ctx x start =>
         (match farCtx s1 x start tag with
          | some c => takeTrap (releaseHolds s1 x) x c.pc trapToken (va i)
          | none => s1)
       | _ => farFault s f faultProt (va i))

/-- An answer of a peer or of a home. -/
def isPeerAns (p : Packet) : Bool := match p.body with | .peerAns _ _ => true | .noneAns _ _ => true | _ => false

/-- Packets of a kind in strict order by source (R61): of MC1 only the ordered ones are. -/
def strictly (t : Packet → Bool) (r q : Packet) : Bool := t r && (decide (q.cls ≠ 1) || ordBefore r q)

/-- PEER_ANSWER (R65, R71): the `n`-th answer whose turn it is. -/
def peerAnswer (s : State) (n : Nat) : State :=
  match takeOrdered s (strictly isPeerAns) isPeerAns n with
  | none => s
  | some (p, s1) =>
    match p.body with
    | .peerAns tag ans => farAnswer s1 p.src tag ans
    | .noneAns tag ans => farAnswer s1 p.src tag ans
    | _ => s1

/-- PEER_ANSWER (R65). -/
def execPeerAnswer (n : Nat) (s : State) : Host.Outcome State Fault Refusal := .next (peerAnswer s n)

/-- The acknowledgement of a store made at a peer. -/
def isPeerAck (p : Packet) : Bool := match p.body with | .peerAck _ => true | _ => false

/-- PEER_STORE_ACK (R65): a store made at a peer is acknowledged. -/
def peerStoreAck (s : State) (n : Nat) : State :=
  match takeOrdered s (strictly isPeerAck) isPeerAck n with
  | none => s
  | some (p, s1) =>
    match p.body with
    | .peerAck tag =>
      (match s1.fars.find? (fun f => f.tag == tag) with
       | some f => farDone (dropFar s1 tag) f
       | none => s1)
    | _ => s1

/-- PEER_STORE_ACK (R65). -/
def execPeerStoreAck (n : Nat) (s : State) : Host.Outcome State Fault Refusal := .next (peerStoreAck s n)

/-! ## Regions -/

/-- The state with the region of a base replaced. -/
def setRegion (s : State) (r : Region) : State :=
  { s with regions := s.regions.map (fun x => if x.base = r.base then r else x) }

/-- The sub-region that a token is of; `none` for a whole region (R68). -/
def subOf (r : Region) (va : Nat) : Option Nat := if r.split then some (tokenIx r va).val else none
/-- The place of a token. -/
def subIx (sub : Option Nat) : Fin 32 := ⟨sub.getD 0 % 32, Nat.mod_lt _ (by decide)⟩
/-- Two transitions act on one token. -/
def sameTok (a b : Option Nat) : Bool := a.isNone || b.isNone || a == b

/-- The addresses of a token (R68). -/
def tokRange (r : Region) (sub : Option Nat) : Nat × Nat :=
  match sub with
  | some i => (r.base + i * 2 ^ 16, 2 ^ 16)
  | none => (r.base, r.size)

/-- The offset that a launch of this module maps an address of a region to. -/
def mappedTo (s : State) (va : Nat) : Option Nat :=
  s.launches.findSome? (fun l =>
    match walk s l.2.ptroot va with
    | .page p =>
      let pa := p.pa + va % p.size
      if bits p.ent 6 1 = 1 ∧ (pa / 2 ^ 52 = 0 ∨ (pa / 2 ^ 52 = 2 ∧ pa / 2 ^ 40 % 4096 = myNode s)) then some (pa % 2 ^ 39) else none
    | _ => none)

/-- The cell of an address in this module's backing (R66): of the home by its entry's offset, of another module by its mapping, by the
offset that firmware gave where nothing maps it. DEDUCED (log 41). -/
def backKey (s : State) (r : Region) (va : Nat) : Nat :=
  dramKey (if r.home = myNode s then r.homeBack + (va - r.base) else (mappedTo s va).getD (r.back + (va - r.base)))

/-- The code of a token state (R77). -/
def tokCode : TokSt → Nat
  | .none => 0 | .dup => 1 | .excl => 2

/-- A state of a node by a directory entry. -/
def dirState (d : DirEnt) (n : Nat) : TokSt :=
  if d.excl = some n then .excl else if d.dups.contains n then .dup else .none

/-- A directory entry after a node comes to hold a state. -/
def dirSet (d : DirEnt) (n : Nat) (st : TokSt) : DirEnt :=
  let d1 : DirEnt := { excl := if d.excl = some n then none else d.excl, dups := d.dups.filter (fun m => m != n) }
  match st with
  | .none => d1
  | .dup => { d1 with dups := n :: d1.dups }
  | .excl => { excl := some n, dups := [] }

/-- A region whose directory has a node hold a state of a token. -/
def noteDir (r : Region) (sub : Option Nat) (n : Nat) (st : TokSt) : Region :=
  { r with dir := r.dir.set (subIx sub) (dirSet r.dir[subIx sub] n st) }

/-! ## The home's order (R70) -/

/-- The address of a request that a home serves in order. -/
def homeVa (p : Packet) : Option Nat :=
  match p.body with
  | .tokReq _ _ va _ => some va
  | .noneReq _ acc _ => some (acc.addrs.headD 0)
  | _ => none

/-- Requests of one region. -/
def sameRegion (s : State) (a b : Nat) : Bool :=
  match regionOf s a, regionOf s b with
  | some r, some q => r.base == q.base
  | _, _ => false

/-- A request that is to answer BUSY: NB = 1 and a transition of its token in progress (R78). -/
def busyReq (s : State) (p : Packet) : Bool :=
  match p.body with
  | .tokReq _ op va nb =>
    (match regionOf s va with
     | some r => (match r.job with
       | some j => nb && sameTok j.sub (if op = .split ∨ op = .merge then none else subOf r va)
       | none => false)
     | none => false)
  | _ => false

/-- The request at place `i` may be served now: no transition of its region is in progress and no store is held there, its data have
come, and no request of the region came before it. DESIGN CHOICE (log 12). -/
def mayServe (s : State) (i : Nat) (p : Packet) : Bool :=
  match homeVa p with
  | none => false
  | some va =>
    busyReq s p ||
      ((match regionOf s va with | some r => r.job.isNone && r.lock.isNone | none => true)
        && (match p.body with | .noneReq tag acc _ => (withData s p.src tag acc).isSome | _ => true)
        && (s.arrived.take i).all (fun q => match homeVa q with | some vb => !sameRegion s va vb | none => true))

/-! ## NONE-state accesses (R71) -/

/-- A kind of access that a DUP holder forbids. -/
def dupStops : AccKind → Bool
  | .store => true | .amo => true | .engWrite => true | _ => false

/-- The part of an access at some of its places. -/
def accPart (acc : FarAcc) (ixs : List Nat) : FarAcc :=
  { acc with addrs := ixs.map (fun i => acc.addrs.getD i 0),
             data := if acc.kind = .store ∨ acc.kind = .engWrite then ixs.map (fun i => acc.data.getD i 0) else acc.data }

/-- Part of an access performed here as the holder, and answered to the module that asked; lines written are noted (R73). -/
def serveHere (s : State) (node tag : Nat) (ixs : List Nat) (acc : FarAcc) : State :=
  match regionOf s (acc.addrs.headD 0) with
  | none => sendPacket s none (mkPacket s 3 node 0 (.noneAns tag (.prot (ixs.headD 0))))
  | some r =>
    let (s1, ans) := performAcc s acc (acc.addrs.map (backKey s r)) ixs
    let s2 := if dupStops acc.kind then noteLines s1 acc.addrs else s1
    sendPacket s2 none (answerPacket s2 node acc ans (.noneAns tag ans))

/-- Part of an access passed on to the holder (R71): its data go beside it on MC1. -/
def passOn (s : State) (node tag m : Nat) (ixs : List Nat) (acc : FarAcc) : State :=
  let s1 := sendPacket s none (mkPacket s 3 m 0 (.noneFwd tag node ixs { acc with data := [], cas := acc.cas.map (fun _ => []) }))
  if bringsData acc.kind then
    sendPacket s1 none { mkPacket s1 1 m 0 (.accData node tag acc.data acc.cas) with ord := acc.ob }
  else s1

/-- The holder that performs a byte: the EXCL holder, else the home. -/
def holderOf (s : State) (r : Region) (va : Nat) : Nat := ((r.dir[tokenIx r va]).excl).getD (myNode s)

/-- The place of the lowest address of an access at which a DUP holder forbids it (R71, R72). -/
def dupPlace (r : Region) (acc : FarAcc) : Option Nat :=
  (List.range acc.addrs.length).foldl (fun best i =>
    if dupStops acc.kind && !(r.dir[tokenIx r (acc.addrs.getD i 0)]).dups.isEmpty then
      (match best with
       | none => some i
       | some j => if acc.addrs.getD i 0 < acc.addrs.getD j 0 then some i else some j)
    else best) none

/-- An access that has been checked is performed at each holder of its bytes (R71). -/
def performAtHolders (s : State) (r : Region) (node tag : Nat) (acc : FarAcc) : State :=
  let ixs := List.range acc.addrs.length
  ((ixs.map (fun i => holderOf s r (acc.addrs.getD i 0))).eraseDups).foldl (fun st m =>
    let mine := ixs.filter (fun i => holderOf s r (acc.addrs.getD i 0) == m)
    if m = myNode st then serveHere st node tag mine (accPart acc mine) else passOn st node tag m mine (accPart acc mine)) s

/-- A NONE-state access at the home (R71): the DUP check of every byte; then its performance, or, for a part of a store over several
tokens, its place is kept until the rest is checked (R13). -/
def noneAtHome (s : State) (node tag : Nat) (acc : FarAcc) (hold : Bool) : State :=
  match regionOf s (acc.addrs.headD 0) with
  | none => sendPacket s none (mkPacket s 3 node 0 (.noneAns tag (.prot 0)))
  | some r =>
    match dupPlace r acc with
    | some i => sendPacket s none (mkPacket s 3 node 0 (.noneAns tag (if acc.kind = .engWrite then .prot i else .trap i)))
    | none =>
      if hold then
        sendPacket (setRegion s { r with lock := some { node := node, tag := tag, acc := acc } }) none (mkPacket s 3 node 0 (.noneAns tag .held))
      else performAtHolders s r node tag acc

/-- The end of a store that a home keeps in its place: performed, or not. -/
def noneEnds (s : State) (node tag : Nat) (go : Bool) : State :=
  match s.regions.find? (fun r => (r.lock.map (fun l => l.node == node && l.tag == tag)).getD false) with
  | some r =>
    let s1 := setRegion s { r with lock := none }
    (match r.lock with
     | some l => if go then performAtHolders s1 { r with lock := none } node tag l.acc else s1
     | none => s1)
  | none => s

/-- A NONE-state access passed on to this module as the holder. -/
def isFwd (p : Packet) : Bool := match p.body with | .noneFwd _ _ _ _ => true | _ => false

/-- A NONE-state message that may be taken: at the home an access in its turn or the end of a held one; at the holder an access passed on
whose data have come, after those of its home before it. -/
def noneMay (s : State) (i : Nat) (p : Packet) : Bool :=
  match p.body with
  | .noneReq _ _ _ => mayServe s i p
  | .noneEnd _ _ => true
  | .noneFwd tag node _ acc =>
    (withData s node tag acc).isSome && !(s.arrived.take i).any (fun q => isFwd q && q.src == p.src)
  | _ => false

/-- NONE_STATE_ACCESS (R71): the `n`-th that may be taken. DESIGN CHOICE (log 12). -/
def noneStateAccess (s : State) (n : Nat) : State :=
  match nthAt s (noneMay s) n with
  | none => s
  | some (i, p) =>
    let s1 := { s with arrived := ldel s.arrived i }
    match p.body with
    | .noneReq tag acc hold =>
      (match withData s1 p.src tag acc with
       | some (a, s2) => noneAtHome s2 p.src tag a hold
       | none => s)
    | .noneEnd tag go => noneEnds s1 p.src tag go
    | .noneFwd tag node ixs acc =>
      (match withData s1 node tag acc with
       | some (a, s2) => serveHere s2 node tag ixs a
       | none => s)
    | _ => s

/-- NONE_STATE_ACCESS (R71). -/
def execNoneStateAccess (n : Nat) (s : State) : Host.Outcome State Fault Refusal := .next (noneStateAccess s n)

/-! ## Token instructions (R75-R81) -/

/-- The result word of R77. -/
def tokWord (status : Nat) (prev : TokSt) : Word := BitVec.ofNat 64 (tokCode prev * 16 + status)

/-- What the checks of R76 come to: a fault, an error in a table entry, an untracked page, or the region. -/
inductive TokChk where
  | fault (cause : Nat)
  | bad (key : Nat)
  | untracked
  | region (r : Region)
  deriving DecidableEq, Repr

/-- The checks of R76 on the address of a token instruction. A tracked page whose region has no entry is a protection violation, as it is
for an access (R66): R76 and R81 do not say. DESIGN CHOICE (log 74). -/
def tokCheck (s : State) (va : Word) (acq : Bool) : TokChk :=
  let v := va.toNat
  if v < 2 ^ 40 ∨ 2 ^ 47 ≤ v then .fault faultXlate
  else
    match translate s (accOf s .load) (launchRec s (curCore s)).ptroot v with
    | .fault => .fault faultXlate
    | .ecc key => .bad key
    | .page p =>
      if leafOk (accOf s (if acq then .amo else .load)) p.ent = false then .fault faultProt
      else if bits p.ent 6 1 = 0 then .untracked
      else match regionOf s v with
        | some r => .region r
        | none => .fault faultProt

/-- A token instruction (R76, R80): its checks; then, as a full fence, once its context's peer stores are acknowledged, what it does on an
untracked page and in a region. Soft errors in the table entries it reads are corrected (R29). -/
def tokThen (s : State) (va : Word) (acq : Bool) (untracked : State → Eff) (k : State → Region → Eff) : Eff :=
  match tokCheck s va acq with
  | .fault cause => .fault s cause va
  | .bad key => .fault (noteDouble s key) (eccOf key) va
  | .untracked => afterStores s .mod (untracked (noteRead s (walkCells s (accOf s .load) va)))
  | .region r => afterStores s .mod (k (noteRead s (walkCells s (accOf s .load) va)) r)

/-- A token instruction that sends a request to the home (R76-R80). -/
def tokOp (i : Instr) (s : State) (d a : Reg) (op : TokOp) (nb : Bool) : Host.Outcome State Fault Refusal :=
  let va := sreg s a
  finish i
    (tokThen s va (decide (op = .acq)) (fun s1 => .ok (setSreg s1 d (tokWord 5 .none))) (fun s1 r =>
      let sub := if op = .split ∨ op = .merge then none else subOf r va.toNat
      if nb ∧ r.pend.any (fun q => sameTok q.2 sub) = true then .ok (setSreg s1 d (tokWord 1 (ownTok r va.toNat)))
      else
        let tag := s1.uid
        let f : FarReq := { tag := tag, who := .ctx s1.turn (cur s1).start, kind := .load, vas := [va.toNat], node := r.home
                            launch := launchOf s1 (curCore s1), since := nowNs s1 }
        let s2 := setRegion { s1 with uid := s1.uid + 1, fars := s1.fars ++ [f] } { r with pend := (tag, sub) :: r.pend }
        .wait (sendBy s2 (launchOf s2 (curCore s2)) s2.turn (mkPacket s2 3 r.home 0 (.tokReq tag op va.toNat nb))) (.token d)))

/-- TKACQ (R78). -/
def execTkacq (d a : Reg) (nb : Bool) (s : State) : Host.Outcome State Fault Refusal := tokOp (.tkacq d a nb) s d a .acq nb
/-- TKDUP (R78). -/
def execTkdup (d a : Reg) (nb : Bool) (s : State) : Host.Outcome State Fault Refusal := tokOp (.tkdup d a nb) s d a .dup nb
/-- TKREL (R78). -/
def execTkrel (d a : Reg) (nb : Bool) (s : State) : Host.Outcome State Fault Refusal := tokOp (.tkrel d a nb) s d a .rel nb
/-- TKSPLIT (R78). -/
def execTksplit (d a : Reg) (nb : Bool) (s : State) : Host.Outcome State Fault Refusal := tokOp (.tksplit d a nb) s d a .split nb
/-- TKMERGE (R78). -/
def execTkmerge (d a : Reg) (nb : Bool) (s : State) : Host.Outcome State Fault Refusal := tokOp (.tkmerge d a nb) s d a .merge nb

/-- The word of TKQRY (R81). -/
def qryWord (r : Region) (va : Nat) : Word :=
  BitVec.ofNat 64 (r.home * 2 ^ 16 + (subOf r va).getD 0 * 2 ^ 8 + 2 ^ 5 + b2n r.split * 2 ^ 4
    + b2n (r.pend.any (fun q => sameTok q.2 (subOf r va))) * 2 ^ 3 + tokCode (ownTok r va))

/-- TKQRY (R81). -/
def execTkqry (d a : Reg) (s : State) : Host.Outcome State Fault Refusal :=
  let va := sreg s a
  finish (.tkqry d a)
    (tokThen s va false (fun s1 => .ok (setSreg s1 d 0)) (fun s1 r => .ok (setSreg s1 d (qryWord r va.toNat))))

/-! ## Transitions at the home (R73, R74, R78) -/

/-- The home's answer to a request. -/
def tokReply (s : State) (node tag status : Nat) (prev : TokSt) : State :=
  sendPacket s none (mkPacket s 3 node 0 (.tokAnswer tag status prev))

/-- What a request does at the home (R78): an answer at once with its status, or the parties that must change with the state each comes
to hold, and the grant that follows. -/
inductive TokPlan where
  | answer (status : Nat)
  | change (parties : List (Nat × TokSt)) (grant : Option (TokSt × Bool))
  deriving DecidableEq, Repr

/-- The plan of a request of node `n` (R78). DEDUCED (log 13). -/
def tokPlan (s : State) (r : Region) (n : Nat) (op : TokOp) (d : DirEnt) : TokPlan :=
  let h := myNode s
  let st := dirState d n
  let ex := match d.excl with | some m => [m] | none => []
  match op with
  | .acq =>
    if st = .excl then .answer 0
    else .change (((ex ++ d.dups).filter (fun m => m != n)).map (fun m => (m, .none))) (some (.excl, decide (n ≠ h) && decide (st ≠ .dup)))
  | .dup =>
    (match st with
     | .dup => .answer 0
     | .excl => .change [(n, .dup)] none
     | .none => .change (ex.map (fun m => (m, .dup))) (some (.dup, decide (n ≠ h))))
  | .rel => if st = .none then .answer 0 else .change [(n, .none)] none
  | .split =>
    if r.split = false ∧ (r.dir[0]).excl = some n then .change ((jobNodes s).map (fun m => (m, if m = n then .excl else .none))) none
    else .answer 2
  | .merge =>
    if r.split = true ∧ r.dir.toList.all (fun e => e.excl == some n) = true then
      .change ((jobNodes s).map (fun m => (m, if m = n then .excl else .none))) none
    else .answer 2

/-- The message that makes a party change its state. DEDUCED (log 13). -/
def tokTell (r : Region) (j : TokJob) (st : TokSt) : Body :=
  match j.op with
  | .split => .tokSplit r.base true st
  | .merge => .tokSplit r.base false st
  | _ => .tokRevoke r.base j.sub st

/-- Cells of a range as this module's backing holds them. -/
def rangeCells (s : State) (r : Region) (lo n : Nat) : List (Nat × Byte) :=
  (List.range n).map (fun i => (lo + i, mget s.mem (backKey s r (lo + i))))

/-- The copy of a token sent in packets of 4 KiB, in order (R54, R74). -/
def sendCopy (s : State) (r : Region) (node tag : Nat) (sub : Option Nat) : State :=
  let rg := tokRange r sub
  (List.range (rg.2 / packetBytes)).foldl (fun st i =>
    sendPacket st none { mkPacket st 1 node 0 (.grantCopy r.base tag (rangeCells s r (rg.1 + i * packetBytes) packetBytes)) with ord := true }) s

/-- An operation on the whole region. -/
def wholeOp (op : TokOp) : Bool := decide (op = .split ∨ op = .merge)

/-- A transition whose parties have all acknowledged: the grant is sent, or it ends and is answered (R74, R78); one that has lost a party
ends with STATUS 3, in the state it has reached, a TKSPLIT or TKMERGE done on the modules that are left. DEDUCED (log 13). -/
def tokNext (s : State) (r : Region) (j : TokJob) : State :=
  if j.waiting ≠ [] then setRegion s { r with job := some j }
  else
    match (if j.lost then none else j.grant) with
    | some (st, copy) =>
      let s1 := setRegion s { r with job := some { j with grant := none, waiting := [(j.node, st)] } }
      let s2 := if copy then sendCopy s1 r j.node j.tag j.sub else s1
      sendPacket s2 none (mkPacket s2 3 j.node 0 (.tokGrant r.base j.sub st copy j.tag))
    | none =>
      let dir := if wholeOp j.op then Vector.replicate 32 { excl := some j.node, dups := [] : DirEnt } else r.dir
      tokReply (setRegion s { r with job := none, dir := dir }) j.node j.tag (if j.lost then 3 else 0) j.prev

/-- A token request. -/
def isTokReq (p : Packet) : Bool := match p.body with | .tokReq _ _ _ _ => true | _ => false

/-- TOKEN_REQUEST (R70, R78): the `n`-th request that the home may serve. DESIGN CHOICE (log 12). -/
def tokenRequest (s : State) (n : Nat) : State :=
  match nthAt s (fun i p => isTokReq p && mayServe s i p) n with
  | none => s
  | some (i, p) =>
    let s1 := { s with arrived := ldel s.arrived i }
    match p.body with
    | .tokReq tag op va _ =>
      (match regionOf s1 va with
       | none => tokReply s1 p.src tag 3 .none
       | some r =>
         let d := r.dir[tokenIx r va]
         let prev := dirState d p.src
         if busyReq s p then tokReply s1 p.src tag 1 prev
         else
           match tokPlan s1 r p.src op d with
           | .answer st => tokReply s1 p.src tag st prev
           | .change parties grant =>
             let live := if wholeOp op then parties.filter (fun q => reachable s1 (myNode s1) q.1) else parties
             if live.any (fun q => !reachable s1 (myNode s1) q.1) || !reachable s1 (myNode s1) p.src then tokReply s1 p.src tag 3 prev
             else
               let j : TokJob := { tag := tag, node := p.src, op := op, sub := if wholeOp op then none else subOf r va, prev := prev
                                   waiting := live, grant := grant }
               let s2 := live.foldl (fun st q => sendPacket st none (mkPacket st 3 q.1 0 (tokTell r j q.2))) s1
               tokNext s2 r j)
    | _ => s1

/-- TOKEN_REQUEST (R78). -/
def execTokenRequest (n : Nat) (s : State) : Host.Outcome State Fault Refusal := .next (tokenRequest s n)

/-- The cells of the lines of a token written since EXCL was gained (R73). -/
def writeBack (s : State) (r : Region) (lo n : Nat) : List (Nat × Byte) :=
  ((r.lines.filter (fun l => decide (lo ≤ 256 * l ∧ 256 * l < lo + n))).eraseDups).flatMap (fun l => rangeCells s r (256 * l) 256)

/-- Lines written back to the home in packets of at most 4 KiB (R54, R73). -/
def sendBack (s : State) (r : Region) (cells : List (Nat × Byte)) : State :=
  (List.range ((cells.length + packetBytes - 1) / packetBytes)).foldl (fun st i =>
    sendPacket st none (mkPacket st 3 r.home 0 (.tokWriteBack r.base ((cells.drop (i * packetBytes)).take packetBytes)))) s

/-- A grant of a token that has not been acted on. -/
def isGrantOf (base : Nat) (sub : Option Nat) (p : Packet) : Bool :=
  match p.body with
  | .tokGrant b u _ _ _ => b == base && sameTok u sub
  | .grantCopy b _ _ => b == base
  | _ => false

/-- A revoke at the holder (R73): lines are written back by one that loses EXCL and is not the home; a grant that it takes back is not
acted on. -/
def takeRevoke (s : State) (r : Region) (sub : Option Nat) (st : TokSt) : State :=
  let rg := tokRange r sub
  let had := r.own[subIx sub]
  let cells := if had = .excl ∧ r.home ≠ myNode s then writeBack s r rg.1 rg.2 else []
  let s1 := setRegion { s with arrived := s.arrived.filter (fun p => !isGrantOf r.base sub p) } { r with
    own := r.own.set (subIx sub) st, copied := 0
    lines := r.lines.filter (fun l => !decide (rg.1 ≤ 256 * l ∧ 256 * l < rg.1 + rg.2)) }
  let s2 := sendBack s1 r cells
  sendPacket s2 none (mkPacket s2 3 r.home 0 (.tokRevokeAck r.base sub st))

/-- A change of state that a home orders. -/
def isRevoke (p : Packet) : Bool := match p.body with | .tokRevoke _ _ _ => true | .tokSplit _ _ _ => true | _ => false

/-- The region that a message of a home concerns. -/
def revokeBase : Body → Nat
  | .tokRevoke b _ _ => b | .tokSplit b _ _ => b | _ => 0

/-- The holder has accesses of a region to perform before it changes its state (R73): passed on to it, or stores that hold the token. -/
def busyHolder (s : State) (base : Nat) : Bool :=
  s.arrived.any (fun q => match q.body with
    | .noneFwd _ _ _ acc => ((regionOf s (acc.addrs.headD 0)).map (·.base)) == some base
    | _ => false)
    || s.ctxs.any (fun c => c.2.holds.any (fun h => h.base == base && h.tag == 0))

/-- TOKEN_REVOKE (R73, R78): the `n`-th change of state whose turn it is, after the accesses that the holder has checked. -/
def tokenRevoke (s : State) (n : Nat) : State :=
  match takeOrdered s (fun r q => isRevoke r && revokeBase r.body == revokeBase q.body) isRevoke n with
  | none => s
  | some (p, s1) =>
    if busyHolder s (revokeBase p.body) then s
    else
      match p.body with
      | .tokRevoke base sub st =>
        (match regionOf s1 base with
         | some r => takeRevoke s1 r sub st
         | none => s1)
      | .tokSplit base split st =>
        (match regionOf s1 base with
         | some r =>
           let s2 := setRegion s1 { r with split := split, own := Vector.replicate 32 st }
           sendPacket s2 none (mkPacket s2 3 r.home 0 (.tokRevokeAck base none st))
         | none => s1)
      | _ => s1

/-- TOKEN_REVOKE (R73). -/
def execTokenRevoke (n : Nat) (s : State) : Host.Outcome State Fault Refusal := .next (tokenRevoke s n)

/-- A copy and its grant are waited for no more: the grant is acknowledged. -/
def dropCopy (s : State) (node base : Nat) : State :=
  { s with sent := s.sent.filter (fun p => match p.pkt.body with
      | .grantCopy b _ _ => !(p.pkt.dst == node && b == base)
      | _ => true) }

/-- An acknowledgement at the home: the directory follows what the module has come to hold, and the transition goes on. -/
def takeRevokeAck (s : State) (r : Region) (node : Nat) (sub : Option Nat) (st : TokSt) : State :=
  let s1 := dropCopy s node r.base
  match r.job with
  | none => setRegion s1 (noteDir r sub node st)
  | some j =>
    let r1 := if wholeOp j.op then r else noteDir r sub node st
    if j.waiting.contains (node, st) then tokNext s1 r1 { j with waiting := j.waiting.filter (fun q => q.1 != node) }
    else setRegion s1 r1

/-- What a party of a transition sends to the home. -/
def isRevokeAck (p : Packet) : Bool := match p.body with | .tokRevokeAck _ _ _ => true | .tokWriteBack _ _ => true | _ => false

/-- TOKEN_REVOKE_ACK (R73): what is written back enters the home backing, and after it the acknowledgement is taken. -/
def tokenRevokeAck (s : State) (n : Nat) : State :=
  match takeOrdered s (strictly isRevokeAck) isRevokeAck n with
  | none => s
  | some (p, s1) =>
    match p.body with
    | .tokWriteBack base cells =>
      (match regionOf s1 base with
       | none => s1
       | some r => putCells s1 (cells.map (fun c => (backKey s1 r c.1, c.2))))
    | .tokRevokeAck base sub st =>
      (match regionOf s1 base with
       | none => s1
       | some r => takeRevokeAck s1 r p.src sub st)
    | _ => s1

/-- TOKEN_REVOKE_ACK (R73). -/
def execTokenRevokeAck (n : Nat) (s : State) : Host.Outcome State Fault Refusal := .next (tokenRevokeAck s n)

/-- A grant, or a part of its copy. -/
def isGrant (p : Packet) : Bool := match p.body with | .tokGrant _ _ _ _ _ => true | .grantCopy _ _ _ => true | _ => false

/-- A grant whose copy has come, or a part of a copy (R74). -/
def grantMay (s : State) (p : Packet) : Bool :=
  match p.body with
  | .tokGrant base sub _ copy _ =>
    (match regionOf s base with
     | some r => !copy || decide ((tokRange r sub).2 ≤ r.copied)
     | none => true)
  | .grantCopy _ _ _ => true
  | _ => false

/-- TOKEN_GRANT (R74): the copy enters the backing; after all of it the state is gained and acknowledged. -/
def tokenGrant (s : State) (n : Nat) : State :=
  match takeOrdered s (strictly isGrant) (fun p => isGrant p && grantMay s p) n with
  | none => s
  | some (p, s1) =>
    match p.body with
    | .grantCopy base _ cells =>
      (match regionOf s1 base with
       | none => s1
       | some r => setRegion (putCells s1 (cells.map (fun c => (backKey s1 r c.1, c.2)))) { r with copied := r.copied + cells.length })
    | .tokGrant base sub st _ _ =>
      (match regionOf s1 base with
       | none => s1
       | some r =>
         let s2 := setRegion s1 { r with own := r.own.set (subIx sub) st, copied := 0 }
         sendPacket s2 none (mkPacket s2 3 r.home 0 (.tokRevokeAck base sub st)))
    | _ => s1

/-- TOKEN_GRANT (R74). -/
def execTokenGrant (n : Nat) (s : State) : Host.Outcome State Fault Refusal := .next (tokenGrant s n)

/-- A request's answer at the module that made it (R79): its context writes s[d]. -/
def tokFinish (s : State) (tag status : Nat) (prev : TokSt) : State :=
  let drop : Region → Region := fun r => { r with pend := r.pend.filter (fun q => q.1 != tag) }
  let s1 : State := { s with regions := s.regions.map drop }
  match s1.fars.find? (fun f => f.tag == tag) with
  | none => s1
  | some f =>
    let s2 := dropFar s1 tag
    match f.who with
    | .ctx x start =>
      (match (getCtx s2 x).wait with
       | some (.token d) => if (getCtx s2 x).start = start then completeWait s2 x d (tokWord status prev) 4 else s2
       | _ => s2)
    | _ => s2

/-- The answer of a home to a token request. -/
def isTokAns (p : Packet) : Bool := match p.body with | .tokAnswer _ _ _ => true | _ => false

/-- TOKEN_ANSWER (R78, R79). -/
def tokenAnswer (s : State) (n : Nat) : State :=
  match takeOrdered s (strictly isTokAns) isTokAns n with
  | none => s
  | some (p, s1) =>
    match p.body with
    | .tokAnswer tag status prev => tokFinish s1 tag status prev
    | _ => s1

/-- TOKEN_ANSWER (R79). -/
def execTokenAnswer (n : Nat) (s : State) : Host.Outcome State Fault Refusal := .next (tokenAnswer s n)

/-! ## Losses (R78, R84) -/

/-- A transition has lost a party (R78, R84): it waits for the others, and ends with STATUS 3. A party that was to gain a state may hold
it, and the directory keeps it. DEDUCED (log 13). -/
def tokAbort (s : State) (base party : Nat) : State :=
  match regionOf s base with
  | some r =>
    (match r.job with
     | some j =>
       (match j.waiting.find? (fun q => q.1 == party) with
        | some (m, st) =>
          let gains := !wholeOp j.op && decide (tokCode (dirState r.dir[subIx j.sub] m) < tokCode st)
          tokNext s (if gains then noteDir r j.sub m st else r)
            { j with lost := true, waiting := j.waiting.filter (fun q => q.1 != party) }
        | none => s)
     | none => s)
  | none => s

/-- A part of a grant's copy is lost (R78, R84): the grant is taken back, and the request ends with STATUS 3. DEDUCED (log 13). -/
def copyLost (s : State) (base node tag : Nat) : State :=
  match regionOf s base with
  | some r =>
    (match r.job with
     | some j =>
       if j.tag = tag ∧ j.node = node ∧ j.lost = false then
         let st := dirState r.dir[subIx j.sub] node
         let s1 := setRegion (dropCopy s node base) { r with job := some { j with lost := true, waiting := [(node, st)] } }
         sendPacket s1 none (mkPacket s1 3 node 0 (.tokRevoke base j.sub st))
       else s
     | none => s)
  | none => s

end Sys2Proof.Machine
end

