-- ==== Sys2Proof/Machine/Fabric.lean ====
section
/-!
DEFINITION. The fabric (R52-R64, R82-R84): ports and their failures, packets that arrive, resending, and the consequences of a loss:
the events FLIT_RECEIVE, REPLAY_LIMIT, FEC_BLOCK_LOCK_LOSS, FEC_BLOCK_LOCK_REGAIN, FEC_LOCK_LOSS_TIMEOUT, ACK_CREDIT_TIMEOUT,
PORT_RETRAIN, PACKET_ARRIVAL, RESEND_TIMEOUT, DELIVERY_TIMEOUT, LINK_DOWN_NOTICE and MC1_LOSS_TIMEOUT.
-/
namespace Sys2Proof.Machine

/-! ## Ports (R53, R56, R82) -/

/-- The far end of a port (R57). -/
def portPeer (s : State) (i : Nat) : Option Nat := neighbour s (myNode s) (i / 2) (decide (i % 2 = 0))

/-- A port goes down (R56, R82): what it holds is not sent, its spikes are lost (R83), every module of the job is told. -/
def portDown (s : State) (i : Nat) : State :=
  let p := getPort s i
  if p.up = false then s
  else
    let s1 := setPort s i { p with up := false, fails := 0, naks := 0, retry := [], queue := [], credit := [], lossAt := none }
    let s2 := loseSpikes s1 (p.retry.map (·.2) ++ p.queue)
    match portPeer s i with
    | some b => (jobNodes s2).foldl (fun st n => sendPacket st none (mkPacket st 2 n 0 (.linkDown (myNode st) b (i / 2)))) s2
    | none => s2

/-- The flits that wait for an acknowledgement after one that acknowledges up to a number. -/
def retryAfter (l : List (BitVec 12 × Packet)) (ack : BitVec 12) : List (BitVec 12 × Packet) :=
  if l.any (fun f => f.1 == ack) then (l.dropWhile (fun f => f.1 != ack)).drop 1 else l

/-- The packets of flits, each once, in order. -/
def flitPackets (l : List (BitVec 12 × Packet)) : List Packet :=
  match l with
  | [] => []
  | [f] => [f.2]
  | f :: g :: t => if f.2 = g.2 then flitPackets (g :: t) else f.2 :: flitPackets (g :: t)

/-- What a good flit in its turn brings a port (R53): the next sequence number, acknowledgements, credits. -/
def takeFlit (s : State) (p : Port) (f : LinkFlit) : Port :=
  let left := retryAfter p.retry f.ack
  let came := decide (left.length < p.retry.length) || f.cred.any (fun n => n != 0)
  { p with
    rseq := p.rseq + 1, fails := 0, retry := left, naks := if f.nak then p.naks + 1 else if left.length < p.retry.length then 0 else p.naks
    credit := (List.range 6).map (fun c => p.credit.getD c 0 + f.cred.getD c 0)
    ackAt := if came then nowNs s else p.ackAt }

/-- FLIT_RECEIVE (R53): a flit that fails its CRC is to be replayed; a good one whose sequence number is not the next is part of what is
replayed, and is dropped; the next one brings acknowledgements and credits, and may ask for a replay, which sends every flit again from the
one asked for. The port goes down after eight failed replays in a row, of flits received or sent (R56). DESIGN CHOICE (log 16). -/
def flitReceive (s : State) (i : Nat) (f : LinkFlit) : State :=
  let p := getPort s i
  if p.up = false then s
  else if f.good = false then setPort s i { p with fails := p.fails + 1 }
  else if 8 ≤ p.fails then portDown s i
  else if f.seq ≠ p.rseq then s
  else
    let q := takeFlit s p f
    let s1 := setPort s i q
    if 8 ≤ q.naks then portDown s1 i
    else
      let s2 := if f.nak then { s1 with outbox := s1.outbox ++ (flitPackets q.retry).map (fun k => (i, k)) } else s1
      drainPort s2 i q.queue []

/-- FLIT_RECEIVE (R53). -/
def execFlitReceive (port : Nat) (flit : LinkFlit) (s : State) : Host.Outcome State Fault Refusal := .next (flitReceive s port flit)

/-- REPLAY_LIMIT (R56): eight failed replays in a row bring a port down. -/
def execReplayLimit (port : Nat) (s : State) : Host.Outcome State Fault Refusal :=
  .next (if 8 ≤ (getPort s port).fails then portDown s port else s)

/-- FEC_BLOCK_LOCK_LOSS (R56). -/
def execFecBlockLockLoss (port : Nat) (s : State) : Host.Outcome State Fault Refusal :=
  let p := getPort s port
  .next (if p.up ∧ p.lossAt = none then setPort s port { p with lossAt := some (nowNs s) } else s)

/-- FEC block lock has been lost for 2 µs (R56). -/
def lockLost (s : State) (i : Nat) : Bool :=
  match (getPort s i).lossAt with
  | some t => decide (t + 2000 ≤ nowNs s)
  | none => false

/-- FEC_BLOCK_LOCK_REGAIN (R56): before 2 µs have passed the count ends; after them the port is down. -/
def execFecBlockLockRegain (port : Nat) (s : State) : Host.Outcome State Fault Refusal :=
  .next (if lockLost s port then portDown s port else setPort s port { getPort s port with lossAt := none })

/-- FEC_LOCK_LOSS_TIMEOUT (R56). -/
def execFecLockLossTimeout (port : Nat) (s : State) : Host.Outcome State Fault Refusal :=
  .next (if lockLost s port then portDown s port else s)

/-- No acknowledgement or credit for 10 µs with flits outstanding (R56). -/
def ackLate (s : State) (i : Nat) : Bool :=
  let p := getPort s i
  p.up && decide (p.retry ≠ [] ∧ p.ackAt + 10000 ≤ nowNs s)

/-- ACK_CREDIT_TIMEOUT (R56). -/
def execAckCreditTimeout (port : Nat) (s : State) : Host.Outcome State Fault Refusal :=
  .next (if ackLate s port then portDown s port else s)

/-- A job runs on the module: it has an ASID registered (R456), or a launch. -/
def jobRuns (s : State) : Bool :=
  !s.launches.isEmpty || (List.range 256).any (fun j => decide (bits (bar s (0x010100 + 8 * j)) 63 1 = 1))

/-- The credits of a link that has come up. DESIGN CHOICE (log 16). -/
def freshCredit : List Nat := (List.range 6).map (fun c => Config.credits c + 17)

/-- PORT_RETRAIN (R56): a down port that a link joins comes up while no job that uses it runs, with fresh credits; the notices of that link
are over. The jobs that use a port are those in whose extents it joins two modules. DESIGN CHOICE (log 16). -/
def portRetrain (s : State) (i : Nat) : State :=
  match portPeer s i with
  | none => s
  | some b =>
    if (getPort s i).up ∨ jobRuns s = true then s
    else
      let s1 := setPort s i { up := true, ackAt := nowNs s, credit := freshCredit }
      { s1 with notices := s.notices.filter (fun x => !linkNoticed [x] (myNode s) b (i / 2)) }

/-- PORT_RETRAIN (R56). -/
def execPortRetrain (port : Nat) (s : State) : Host.Outcome State Fault Refusal := .next (portRetrain s port)

/-! ## Arrival of packets (R55, R62, R63) -/

/-- The header checks of R55. -/
def headerOk (p : Packet) : Bool :=
  decide (p.cls < 6 ∧ p.resv = 0 ∧ p.ndf ≤ 16 ∧ (p.mcast = false ∨ p.cls = 4) ∧ p.clus < 24 ∧ p.core < 48)

/-- The acknowledgement of a reliable class (R62): it takes no SEQ. -/
def ackPacket (s : State) (p : Packet) (seq : Nat) : State :=
  emitPacket s { mkPacket s p.cls p.src 0 (.ack p.cls seq) with seq := seq }

/-- A number is at or before another, modulo 2^16. -/
def seqLe (a b : Nat) : Bool := decide ((b + 2 ^ 16 - a) % 2 ^ 16 < 2 ^ 15)

/-- An acknowledgement at the sender: packets of the flow up to the number are kept no longer (R62). DEDUCED (log 14). -/
def takeAck (s : State) (node cls seq : Nat) : State :=
  { s with sent := s.sent.filter (fun p => !(p.pkt.dst == node && p.pkt.cls == cls && seqLe p.pkt.seq seq)) }

/-- Data pushed outside a pitch is written at its destination and counted (R63, R103): a unit in error that it covers in part stops it
(R29). The last packet of a transfer has no cells and says how many bytes there are. -/
def pushLand (s : State) (node core tag : Nat) (launch : Option Nat) (total first : Nat) (cells : List (Nat × Byte)) : State :=
  let x := getXfer s node core tag launch
  let keys := cells.map (fun c => dramKey c.1)
  match lfind (fun k => poisoned s k && !wholeUnit keys k) keys with
  | some (i, k) => noteXfer (noteDouble s k) x cells.length total 0 (faultEcc 1) (first + i)
  | none =>
    noteXfer (putCells (noteRead s (keys.filter (fun k => !wholeUnit keys k))) (keys.zip (cells.map (·.2)))) x cells.length total cells.length 0 0

/-- A packet delivered to its unit, where its event takes it up. -/
def landPacket (s : State) (p : Packet) : State :=
  match p.body with
  | .ack cls seq => takeAck s p.src cls seq
  | .pushMem core tag launch total first cells => pushLand s p.src core tag launch total first cells
  | .other => s
  | _ => { s with arrived := s.arrived ++ [p] }

/-- An acknowledgement, which is in no flow. -/
def isAck (p : Packet) : Bool := match p.body with | .ack _ _ => true | _ => false

/-- A packet for this module (R62): of a reliable class it is delivered when its SEQ is the next; a duplicate is discarded, and one
ahead of a missing packet is left to be sent again. DEDUCED (log 14). -/
def receivePacket (s : State) (p : Packet) : State :=
  if reliable p.cls = false ∨ isAck p = true then landPacket s p
  else
    let f := flowOf s p.src p.cls
    if p.seq = f.rx then
      landPacket (ackPacket (setFlow s { f with rx := (f.rx + 1) % 2 ^ 16 }) p p.seq) p
    else if seqLe p.seq f.rx then ackPacket s p p.seq
    else s

/-- A spike keeps the port it came by (R368). -/
def notePort (p : Packet) (i : Nat) : Packet :=
  match p.body with
  | .spike g key step hops job _ => { p with body := .spike g key step hops job (some i) }
  | _ => p

/-- PACKET_ARRIVAL (R55, R58-R60): a packet that reaches the module by a port that is up: discarded, delivered, or sent on. -/
def packetArrival (s : State) (i : Nat) (p : Packet) : State :=
  if (getPort s i).up = false then s
  else if headerOk p = false then countUp s 0x042000 1
  else if p.dst = myNode s then receivePacket s (notePort p i)
  else emitPacket s p (some i)

/-- PACKET_ARRIVAL (R55). -/
def execPacketArrival (a : Arrival) (s : State) : Host.Outcome State Fault Refusal := .next (packetArrival s a.port a.pkt)

/-! ## Resending and loss (R62, R83, R84) -/

/-- RESEND_TIMEOUT (R62): the `n`-th packet of a reliable class not acknowledged for 5 µs leaves again by the current route.
DEDUCED (log 14). -/
def resendTimeout (s : State) (n : Nat) : State :=
  match lfindN (fun p : Sent => reliable p.pkt.cls && decide (p.last + 5000 ≤ nowNs s)) s.sent n with
  | some (i, p) =>
    emitPacket { s with sent := lset s.sent i { p with last := nowNs s, port := packetPort s (myNode s) p.pkt none } } p.pkt
  | none => s

/-- RESEND_TIMEOUT (R62). -/
def execResendTimeout (n : Nat) (s : State) : Host.Outcome State Fault Refusal := .next (resendTimeout s n)

/-- The unhandled-link-loss fault of a class in a launch (R83, R428): CORE and CTX name the context that caused the loss, where one did.
DEDUCED (log 65). -/
def linkFault (s : State) (launch who : Option Nat) (cls : Nat) : State :=
  match launch with
  | some l =>
    if kmem s.launches l then
      (match who with
       | some x => faultLaunch s l { core := coreId (coreOf x), ctx := idxOf x, cause := faultLink cls, fva := 0, time := nowNs s }
       | none => raiseFaultL s l (faultLink cls))
    else s
  | none => s

/-- The context for which a remote access was made. -/
def askerCtx (s : State) (w : Asker) : Option Nat :=
  match w with
  | .ctx x _ => some x
  | .cmd k e uid => (findCmd s k e uid).map (·.ctx)
  | .record _ => none

/-- A remote access that is lost faults in the launch that made it (R65, R83). -/
def farLost (s : State) (tag cls : Nat) : State :=
  match s.fars.find? (fun f => f.tag == tag) with
  | none => s
  | some f =>
    let s1 := linkFault (dropFar s tag) f.launch (askerCtx s f.who) cls
    match f.who with
    | .ctx x start =>
      let c := getCtx s1 x
      if c.start = start then setCtx s1 x { c with acks := c.acks.filter (fun t => t != tag) } else s1
    | .cmd _ _ _ => s1
    | .record _ => countUp s1 0x042038 1

/-- The model that a message of a group of crossing engines belongs to. -/
def midOf (b : Body) : Option Nat :=
  match b with
  | .creJoin m _ _ _ => some m | .creBegin m => some m | .creProp m _ => some m | .creTime m _ => some m | .creEnd m _ _ => some m
  | .creEvent m _ _ _ _ _ => some m | .creEventAck m => some m | .creFired m _ => some m | .creRespond m => some m
  | _ => none

/-- The participants of a step that a message belongs to. -/
def stepParts (b : Body) : List Nat :=
  match b with
  | .stepJoin g _ _ _ _ _ => g | .stepCount g _ _ _ _ _ _ _ => g | .stepDone g _ _ _ _ => g
  | _ => []

/-- The engines of the group of a launch's model (R358). -/
def modelParts (s : State) (launch : Option Nat) (mid : Nat) : List Nat :=
  match s.clus.find? (fun c => c.2.cre.owner.isSome && c.2.cre.owner == launch && c.2.cre.mid == mid) with
  | some c => c.2.cre.parts
  | none => []

/-- A loss on MC5 (R83, R373): the fault in every launch that owns an engine of the group; engines of other modules are told. DEDUCED (log 65). -/
def groupLost (s : State) (p : Sent) : State :=
  let parts := (midOf p.pkt.body).elim [] (modelParts s p.launch)
  let here := (parts.filter (fun e => e / 128 == myNode s)).filterMap (fun e => (getCre s (e / 32 % 4 * 24 + e % 32)).owner)
  let steps := ((stepParts p.pkt.body).filter (fun w => partNode w == myNode s)).filterMap (fun w => (partCore w).bind (launchOf s))
  let s1 := ((p.launch.toList ++ here ++ steps).eraseDups).foldl (fun st l => linkFault st (some l) none 5) s
  match midOf p.pkt.body with
  | some mid =>
    (parts.filter (fun e => decide (e / 128 ≠ myNode s ∧ e % 32 < 24) && jobNode s (e / 128))).foldl (fun st e =>
      sendPacket st p.launch (mkPacket st 5 (e / 128) (e / 32 % 4 * 1152 + e % 32 * 48) (.creLost mid))) s1
  | none => s1

/-- A transfer into a pitch is lost (R83, R114): it completes LOST, and the owner of the booking is told. -/
def pegLost (s : State) (p : Sent) (core tag : Nat) (id : BookId) : State :=
  let s1 := ackPush s tag 3 0 0
  let c := getCore s1 core
  let s2 := setCore s1 core { c with books := c.books.filter (fun b => b.id != id) }
  tellOwner s2 p.launch id true

/-- The owner of a booking that a command's rows go to is told of their loss. -/
def gremLost (s : State) (p : Sent) (core uid : Nat) (id : BookId) : State := pegLost (gremReport s core uid 3 0 0 []) p core uid id

/-- A remote access or a transfer that is over because its end can come no more (R83). -/
def farGone (s : State) (f : FarReq) : State :=
  if f.push then
    let s1 := linkFault s f.launch (askerCtx s f.who) 1
    { s1 with fars := s1.fars.filter (fun g => g.tag != f.tag) }
  else farLost s f.tag 1

/-- What the loss of a packet brings about here (R78, R83, R84, R114). DEDUCED (log 65). DEDUCED (log 69). -/
def packetLost (s : State) (p : Sent) : State :=
  match p.pkt.body with
  | .tokReq tag _ va _ => tokFinish s tag 3 (match regionOf s va with | some r => ownTok r va | none => .none)
  | .tokRevoke base _ _ => tokAbort s base p.pkt.dst
  | .tokSplit base _ _ => tokAbort s base p.pkt.dst
  | .tokGrant base _ _ _ _ => tokAbort s base p.pkt.dst
  | .tokWriteBack _ _ => s
  | .tokRevokeAck _ _ _ => s
  | .tokAnswer _ _ _ => s
  | .grantCopy base tag _ => copyLost s base p.pkt.dst tag
  | .noneFwd tag node ixs _ => sendPacket s none (mkPacket s 3 node 0 (.noneAns tag (.lost (ixs.headD 0))))
  | .accData node tag _ _ => if node = myNode s then farLost s tag 1 else sendPacket s none (mkPacket s 3 node 0 (.noneAns tag (.lost 0)))
  | .peerReq tag _ => farLost s tag 3
  | .noneReq tag _ _ => farLost s tag 3
  | .noneEnd tag _ => farLost s tag 3
  | .peerAns _ _ => s
  | .peerAck _ => s
  | .noneAns _ _ => s
  | .bookReq core _ _ => bookAnswer s core (bookStatus 3)
  | .bookAns _ _ => s
  | .bookRel _ => s
  | .bookLost _ => s
  | .bookCancel _ _ _ => s
  | .pushMem _ tag _ _ _ _ => (s.fars.find? (fun f => f.tag == tag)).elim s (farGone s)
  | .pushPeg core tag _ id _ _ _ _ _ _ => pegLost s p core tag id
  | .grem core uid _ _ _ _ _ _ _ _ _ id _ => gremLost s p core uid id
  | .done _ _ launch _ _ _ => linkFault s launch none 2
  | .gremDone _ _ launch _ _ _ _ => linkFault s launch none 2
  | .creLost _ => s
  | _ => if p.pkt.cls = 5 then groupLost s p else linkFault s p.launch p.who p.pkt.cls

/-- DELIVERY_TIMEOUT (R62): the `n`-th packet of a reliable class not acknowledged for 100 µs whose destination is unreachable.
DEDUCED (log 14). -/
def deliveryTimeout (s : State) (n : Nat) : State :=
  match lfindN (fun p : Sent => reliable p.pkt.cls && decide (p.first + 100000 ≤ nowNs s)
      && !reachable s (myNode s) p.pkt.dst) s.sent n with
  | some (i, p) => packetLost { s with sent := ldel s.sent i } p
  | none => s

/-- DELIVERY_TIMEOUT (R62). -/
def execDeliveryTimeout (n : Nat) (s : State) : Host.Outcome State Fault Refusal := .next (deliveryTimeout s n)

/-! ## Link-down notices (R82) -/

/-- A link-down notice. -/
def isLinkDown (p : Packet) : Bool := match p.body with | .linkDown _ _ _ => true | _ => false

/-- The ports of this module at an end of a link that a notice names. -/
def portsOf (s : State) (a b d : Nat) : List Nat :=
  (List.range 8).filter (fun i =>
    decide (i / 2 = d) && ((a == myNode s && portPeer s i == some b) || (b == myNode s && portPeer s i == some a)))

/-- LINK_DOWN_NOTICE (R82): the `n`-th notice is recorded and counted; routes follow what is known; the other end of the link marks its own
port down (R56). DESIGN CHOICE (log 16). -/
def linkDownNotice (s : State) (n : Nat) : State :=
  match takeOrdered s (strictly isLinkDown) isLinkDown n with
  | none => s
  | some (p, s1) =>
    match p.body with
    | .linkDown a b d =>
      let s2 := countUp s1 0x042020 1
      let s3 := if linkNoticed s2.notices a b d then s2
        else { s2 with notices := s2.notices ++ [{ a := a, b := b, dim := d, time := nowNs s }] }
      (portsOf s3 a b d).foldl portDown s3
    | _ => s1

/-- LINK_DOWN_NOTICE (R82). -/
def execLinkDownNotice (n : Nat) (s : State) : Host.Outcome State Fault Refusal := .next (linkDownNotice s n)

/-- The deterministic route from a node to another passed over a link before its notice came (R58, R82). DEDUCED (log 15). -/
def wentOver (s : State) (x : LinkDown) (a b : Nat) : Bool :=
  let t := { s with ports := s.ports.map (fun p => { p with up := true }) }
  match routeFrom t (s.notices.filter (fun y => y != x)) a 80 a b with
  | some hops => hops.any (fun h => linkNoticed [x] h.a h.b h.dim)
  | none => false

/-- A packet of MC1 crossed a link that went down, or its end is awaited from beyond it (R82): one routed adaptively, by the port it left
by where the link is at this module, else possibly, where the link lies on a shortest way. DEDUCED (log 15). -/
def crossedLink (s : State) (x : LinkDown) (p : Sent) : Bool :=
  decide (p.pkt.cls = 1 ∧ p.first ≤ x.time) &&
    (longLost s p.pkt.dst ||
      (if adaptive p.pkt then
         (if x.a = myNode s ∨ x.b = myNode s then p.port.any (fun i => (portsOf s x.a x.b x.dim).contains i)
          else onShortest s x (myNode s) p.pkt.dst && Config.crossed p.num)
       else wentOver s x (myNode s) p.pkt.dst))

/-- A request of the token protocol. -/
def isTokFar (s : State) (f : FarReq) : Bool := s.regions.any (fun r => r.pend.any (fun q => q.1 == f.tag))

/-- The answer of a remote access was lost on its way, or can come no more (R65, R71, R82): a read's data come back on MC1, of a direct peer
access from its node, of a NONE-state access from whichever module holds the token. DEDUCED (log 15). -/
def answerLost (s : State) (x : LinkDown) (f : FarReq) : Bool :=
  let back := fun (n : Nat) => if f.ob then wentOver s x n (myNode s) else onShortest s x n (myNode s) && Config.crossed f.tag
  decide (f.since ≤ x.time) && !isTokFar s f &&
    (longLost s f.node ||
      (!f.push && decide (f.kind ≠ .store) && decide (f.kind ≠ .engWrite) &&
        (if ((regionOf s (f.vas.headD 0)).map (·.home)) = some f.node then
           Config.crossed f.tag && (jobNodes s).any (fun n => decide (n ≠ myNode s) && back n)
         else back f.node)))

/-- A token transition goes on without the parties that are lost for good; a store held for one is not performed (R84). -/
def freeRegion (s : State) (base : Nat) : State :=
  match regionOf s base with
  | some r =>
    let s1 := match r.lock with
      | some l => if longLost s l.node then setRegion s { r with lock := none } else s
      | none => s
    (match r.job with
     | some j => (j.waiting.filter (fun q => longLost s q.1)).foldl (fun st q => tokAbort st base q.1) s1
     | none => s1)
  | none => s

/-- What waits for a module that is lost for good comes to an end (R78, R83, R84): token requests, bookings, transitions. -/
def freeWaits (s : State) : State :=
  let s1 := (s.fars.filter (fun f => isTokFar s f && longLost s f.node)).foldl (fun st f =>
    tokFinish st f.tag 3 (match regionOf st (f.vas.headD 0) with | some r => ownTok r (f.vas.headD 0) | none => .none)) s
  let s2 := (s1.cores.filter (fun c => c.2.lzres.isSome && longLost s c.2.lzresTo)).foldl (fun st c => bookAnswer st c.1 (bookStatus 3)) s1
  (s2.regions.map (·.base)).foldl freeRegion s2

/-- What is lost 100 µs after a notice (R82, R83). DEDUCED (log 15). DEDUCED (log 69). -/
def sweepLink (s : State) (x : LinkDown) : State :=
  let lost := s.sent.filter (crossedLink s x)
  let s1 := { s with sent := s.sent.filter (fun p => !crossedLink s x p)
                     notices := s.notices.map (fun y => if y = x then { y with swept := true } else y) }
  let s2 := lost.foldl packetLost s1
  let s3 := (s2.fars.filter (answerLost s2 x)).foldl farGone s2
  freeWaits s3

/-- MC1_LOSS_TIMEOUT (R82): the `n`-th notice that is 100 µs old. -/
def mc1LossTimeout (s : State) (n : Nat) : State :=
  match lfindN (fun x : LinkDown => !x.swept && decide (x.time + 100000 ≤ nowNs s)) s.notices n with
  | some (_, x) => sweepLink s x
  | none => s

/-- MC1_LOSS_TIMEOUT (R82). -/
def execMc1LossTimeout (n : Nat) (s : State) : Host.Outcome State Fault Refusal := .next (mc1LossTimeout s n)

end Sys2Proof.Machine
end

