-- ==== Sys2Proof/Machine/Launch.lean ====
section
/-!
DEFINITION. Launches (R380-R395): records and their checks, placement, admission and start, the dependence table with DEPDEC, the end of
parts and of launches: DEPDEC_DEC, DEPDEC_ARM and the events LAUNCH_RECORD_ARRIVAL, LAUNCH_ADMIT, DEPENDENCE_DECREMENT,
DEPENDENCE_TABLE_ANSWER, CORE_PART_END and LAUNCH_COMPLETION.
-/
namespace Sys2Proof.Machine

/-! ## Records (R380, R386) -/

/-- The bits of dword `i` of a launch record that are fields (R380). -/
def recMask (i : Nat) : Word :=
  if i = 0 then 0xFFFFFFFF1FF3370F
  else if i = 6 then 0xC000001F000037FF
  else if i < 8 then BitVec.allOnes 64
  else if i < 16 then 0x77FFFFFFFF
  else if i = 16 then BitVec.allOnes 64
  else if i = 17 then 0xFFFFFF000F
  else if i = 18 then 0xFFFFFFFF
  else 0

/-- ENTRY, CREC, SIGD, HTAB of a record (R380). -/
def recEntry (l : Launch) : Word := recWord l 1
def recCrec (l : Launch) : Word := recWord l 5
def recSigd (l : Launch) : Word := recWord l 7
def recHtab (l : Launch) : Nat := (recWord l 16).toNat
/-- LID, LPRI, SPK in bytes. -/
def recLid (l : Launch) : Nat := bits (recWord l 0) 32 32
def recLpri (l : Launch) : Nat := bits (recWord l 0) 8 3
def recSp (l : Launch) : Nat := if bits (recWord l 0) 24 5 = 0 then 16384 else bits (recWord l 0) 24 5 * 4096
/-- KIND, SCLS, SDIE, SVAL. -/
def recKind (l : Launch) : Nat := bits (recWord l 6) 62 2
def recScls (l : Launch) : Nat := bits (recWord l 6) 32 5
def recSdie (l : Launch) : Nat := bits (recWord l 6) 12 2
def recSval (l : Launch) : Nat := bits (recWord l 6) 0 11
/-- The clusters and the dies that a launch may use. -/
def recAllows (l : Launch) (k : Nat) : Bool :=
  let cm := bits (recWord l 17) 16 24
  let dm := bits (recWord l 17) 0 4
  (decide (cm = 0) || decide (cm / 2 ^ (k / 48 % 24) % 2 = 1)) && (decide (dm = 0) || decide (dm / 2 ^ (k / 1152) % 2 = 1))

/-- The first cell that a record locator names (R386). -/
def locKey (w : Nat) : Option Nat :=
  if 2 ^ 56 ≤ w ∨ w % 256 ≠ 0 then none
  else if w < 2 ^ 39 then some (dramKey w)
  else if w / 2 ^ 52 = 8 ∧ w % 2 ^ 52 < 2 ^ 31 then (coreOfId (w / 2 ^ 18 % 2 ^ 13)).map (fun k => sliceKey k (w % 2 ^ 18))
  else none

/-- Dwords read by the device; `none` when a unit of them holds an uncorrectable error. -/
def readDwords (s : State) (key n : Nat) : Option (List Word) :=
  if (List.range n).any (fun i => poisoned s (key + 8 * i)) then none
  else some ((List.range n).map (fun i => BitVec.ofNat 64 (readNat s.mem (key + 8 * i) 8)))

/-- What reading those dwords leaves behind: errors are corrected and counted, or found (R29, R139). -/
def noteDwords (s : State) (key n : Nat) : State :=
  match (List.range n).find? (fun i => poisoned s (key + 8 * i)) with
  | some i => noteDouble s (key + 8 * i)
  | none => noteRead s ((List.range n).map (fun i => key + 8 * i))

/-- A dword at a place of a record replaced. -/
def setWord (l : List Word) (i : Nat) (w : Word) : List Word := l.set i w

/-! ## Hierarchies (R381-R383) -/

/-- A level: units, domain, scope, and n of R382. -/
structure Lev where
  cnt : Nat
  dom : Nat
  scope : Nat
  n : Nat := 1
  deriving DecidableEq, Repr

/-- Units of domain e − 1 in one of domain e (R381). -/
def perUnit (s : State) (e : Nat) : Nat :=
  match e with
  | 1 => 11 | 2 => 8 | 3 => 6 | 4 => 24 | 5 => 4
  | 6 => s.dims.1 * s.dims.2.1
  | 7 => s.dims.2.2.1 * s.dims.2.2.2
  | _ => 1

/-- cap(d, e) of R381. -/
def capOf (s : State) (d e : Nat) : Nat :=
  (List.range e).foldl (fun acc i => if d ≤ i then acc * perUnit s (i + 1) else acc) 1

/-- The levels with n of R382. -/
def withN (p : Lev) (rest : List Lev) : List Lev :=
  match rest with
  | [] => []
  | x :: t =>
    let y := { x with n := if p.dom < x.dom then 1 else p.n * p.cnt }
    y :: withN y t

/-- The levels of a record, innermost first. -/
def levsOf (l : Launch) : List Lev :=
  match (List.range (recLev l)).map (fun i => ({ cnt := recCount l i, dom := recDom l i, scope := recScope l i } : Lev)) with
  | [] => []
  | x :: t => x :: withN x t

/-- The levels as cores: contexts of DOM_0 = 0 lie in one core. -/
def coreLevs (l : Launch) : List Lev :=
  match levsOf l with
  | [] => []
  | x :: t => if x.dom = 0 then (let y : Lev := { cnt := 1, dom := 1, scope := max x.scope 1 }; y :: withN y t) else x :: t

/-- A level. -/
def lev (v : List Lev) (i : Nat) : Lev := v.getD i { cnt := 1, dom := 1, scope := 1 }

/-- The checks of R382 and of COUNT_0 (R387). -/
def hierOk (s : State) (l : Launch) : Bool :=
  let v := levsOf l
  let t := v.length - 1
  decide (1 ≤ recLev l ∧ recLev l ≤ 8) && decide ((lev v 0).dom ≤ 1) && (v.drop 1).all (fun x => decide (x.dom ≠ 0))
    && v.all (fun x => decide (1 ≤ x.cnt ∧ x.dom ≤ x.scope))
    && (List.range t).all (fun i =>
      let a := lev v i
      let b := lev v (i + 1)
      decide (a.dom ≤ b.dom) && (decide (b.dom ≤ a.dom) || decide (a.cnt * a.n ≤ capOf s a.dom b.dom)))
    && decide ((lev v t).cnt * (lev v t).n ≤ capOf s (lev v t).dom 7)
    && (decide ((lev v 0).dom ≠ 0) || decide ((lev v 0).cnt ≤ 11))

/-! ## Placement (R382, R388) -/

/-- `cnt` units of `n` places each from place `lo` on, below `hi`, taken greedily. DESIGN CHOICE (log 7). -/
def scanUnits (fuel : Nat) (place : Nat → Option (List Nat)) (n cnt lo hi : Nat) (acc : List Nat) : Option (List Nat) :=
  if cnt = 0 then some acc
  else
    match fuel with
    | 0 => none
    | fuel + 1 =>
      if hi < lo + n then none
      else
        match place lo with
        | some u => scanUnits fuel place n (cnt - 1) (lo + n) hi (acc ++ u)
        | none => scanUnits fuel place n cnt (lo + 1) hi acc

/-- The siblings of a level between two places of its domain, within one unit of its scope. DESIGN CHOICE (log 7). -/
def siblings (s : State) (place : Nat → Option (List Nat)) (x : Lev) (cnt lo hi : Nat) : Option (List Nat) :=
  if x.dom < x.scope ∧ x.scope < 5 then
    let size := capOf s x.dom x.scope
    (List.range ((hi - lo) / size + 2)).findSome? (fun j =>
      let a := (lo / size + j) * size
      scanUnits (hi - lo + 1) place x.n cnt (max a lo) (min (a + size) hi) [])
  else scanUnits (hi - lo + 1) place x.n cnt lo hi []

/-- One unit of level `l` at a place of its domain in this module: its cores. -/
def unitAt (s : State) (v : List Lev) (ok : Nat → Bool) (l : Nat) (p : Nat) : Option (List Nat) :=
  match l with
  | 0 => if ok p then some [p] else none
  | l + 1 =>
    let a := lev v l
    let b := lev v (l + 1)
    if a.dom < b.dom then
      siblings s (unitAt s v ok l) a a.cnt (p * capOf s a.dom b.dom) ((p + 1) * capOf s a.dom b.dom)
    else if a.dom < a.scope ∧ a.scope < 5 ∧ p / capOf s a.dom a.scope ≠ (p + b.n - 1) / capOf s a.dom a.scope then none
    else
      (List.range a.cnt).foldl (fun acc j =>
        match acc, unitAt s v ok l (p + j * a.n) with
        | some x, some u => some (x ++ u)
        | _, _ => none) (some [])

/-- The first level of a domain. -/
def levAt (v : List Lev) (d : Nat) : Option Nat := (List.range v.length).find? (fun i => (lev v i).dom == d)
/-- The stage's own die, then the others in ascending number. -/
def dieOrder (die : Nat) : List Nat := die :: (List.range 4).filter (fun d => d != die)
/-- The top level. -/
def topLev (v : List Lev) : Lev := lev v (v.length - 1)

/-- The dies of a launch whose top domain is 4 (R388): each that can hold one die-level unit, until enough are found.
DESIGN CHOICE (log 7). -/
def placeDies (s : State) (v : List Lev) (ok : Nat → Bool) (die : Nat) : Option (List Nat) :=
  let b := (levAt v 4).getD 0
  let need := (topLev v).cnt * (topLev v).n
  let fit := ((dieOrder die).filter (fun d => (unitAt s v ok b d).isSome)).take need
  if fit.length = need then some (((List.range 4).filter (fun d => fit.contains d)).flatMap (fun d => (unitAt s v ok b d).getD []))
  else none

/-- A launch of one module placed on the cores that meet a test (R388). DESIGN CHOICE (log 7). -/
def placeOne (s : State) (v : List Lev) (ok : Nat → Bool) (die : Nat) : Option (List Nat) :=
  let t := v.length - 1
  let x := topLev v
  if v.isEmpty then none
  else if x.dom ≤ 3 then
    (dieOrder die).findSome? (fun d =>
      siblings s (unitAt s v ok t) x x.cnt (d * capOf s x.dom 4) ((d + 1) * capOf s x.dom 4))
  else if x.dom = 4 then placeDies s v ok die
  else unitAt s v ok ((levAt v 5).getD 0) 0

/-- The launch uses several modules (R389). -/
def spans (v : List Lev) : Bool := decide (6 ≤ (topLev v).dom ∨ ((topLev v).dom = 5 ∧ 1 < (topLev v).cnt * (topLev v).n))

/-- The level whose units are shared out among modules: modules themselves, or the largest units below them. -/
def shareLev (v : List Lev) : Nat := (levAt v 5).getD (v.countP (fun x => decide (x.dom < 5)) - 1)
/-- The cores of one unit of a level. -/
def coresPer (v : List Lev) (l : Nat) : Nat := (v.take l).foldl (fun acc x => acc * x.cnt) 1

/-- This module's part of a launch of several: `share` units of the shared level. -/
def placePart (s : State) (v : List Lev) (ok : Nat → Bool) (share : Nat) : Option (List Nat) :=
  let b := shareLev v
  if share = 0 then some []
  else if (lev v b).dom = 5 then unitAt s v ok b 0
  else siblings s (unitAt s v ok b) (lev v b) share 0 (capOf s (lev v b).dom 5)

/-- Units of the shared level that an idle module holds at most. -/
def perModule (s : State) (v : List Lev) (ok : Nat → Bool) : Nat :=
  let b := shareLev v
  if (lev v b).dom = 5 then 1
  else
    let hi := capOf s (lev v b).dom 5
    ((List.range (hi + 1)).reverse.find? (fun c => (placePart s v ok c).isSome && decide (c ≤ hi))).getD 0

/-- Units dealt to modules in turn, `per` at most to each. -/
def deal (per c : Nat) (mods : List Nat) : List (Nat × Nat) :=
  match mods with
  | [] => []
  | m :: t => (m, min per c) :: deal per (c - per) t

/-- A list from a place on, and round again. -/
def rotated (l : List Nat) (i : Nat) : List Nat := l.drop i ++ l.take i

/-- The modules of a launch of several with their shares (R389): from the root's module, or its chassis partition, on.
DESIGN CHOICE (log 7). -/
def sharesOf (s : State) (v : List Lev) (ok : Nat → Bool) (root : Nat) : List (Nat × Nat) :=
  let mods := jobNodes s
  let at_ := mods.idxOf root
  let x := topLev v
  if x.dom = 5 then ((rotated mods at_).take (x.cnt * x.n)).map (fun m => (m, 1))
  else
    let xy := capOf s 5 6
    let p := (v.countP (fun y => decide (y.dom ≤ 5)))
    let below := lev v (p - 1)
    let per := perModule s v ok
    let each := below.cnt * (if below.dom = 5 then below.n else 1)
    let cap1 := if below.scope = 5 then (if each ≤ per then each else 0) else per
    let all_ := rotated mods (at_ / xy * xy)
    if x.dom = 6 then
      let par := (v.drop p).foldl (fun acc y => acc * y.cnt) 1
      (List.range par).flatMap (fun c => deal cap1 each ((all_.drop (c * xy)).take xy))
    else if below.scope = 6 ∧ below.dom ≤ 5 then deal cap1 each (all_.take xy) ++ (all_.drop xy).map (fun m => (m, 0))
    else
      let chassis := if (lev v p).dom = 6 then (v.drop p).foldl (fun acc y => if y.dom = 6 then acc * y.cnt else acc) 1 else 0
      if chassis = 0 then deal cap1 each all_
      else (List.range (all_.length / xy)).flatMap (fun (c : Nat) =>
        deal cap1 (if c < chassis then each else 0) ((all_.drop (c * xy)).take xy))

/-- Modules in ascending node id (R383). -/
def ascNodes (s : State) (l : List (Nat × Nat)) : List (Nat × Nat) :=
  (jobNodes s).filterMap (fun n => l.find? (fun p => p.1 == n))

/-- Two modules lie in one chassis partition (R57, R381). -/
def sameChassis (a b : Nat) : Bool := decide (a / 16 = b / 16)

/-- Siblings that are modules, or groups of them, lie in one chassis partition where their scope is 6 (R382). -/
def chassisOk (v : List Lev) (mods : List Nat) : Bool :=
  v.all (fun x =>
    !(decide (x.dom = 5 ∧ x.scope = 6)) ||
      (let size := x.cnt * x.n
       (List.range mods.length).all (fun i => sameChassis (mods.getD i 0) (mods.getD (i / size * size) 0))))

/-- The launch can be placed on an idle job (R387). -/
def placeable (s : State) (l : Launch) (die : Nat) : Bool :=
  let v := coreLevs l
  if spans v then
    let sh := sharesOf s v (recAllows l) (myNode s)
    let b := shareLev v
    decide (sh.foldl (fun acc p => acc + p.2) 0 = (v.drop b).foldl (fun acc x => acc * x.cnt) 1)
      && sh.all (fun p => (placePart s v (recAllows l) p.2).isSome)
      && chassisOk v ((ascNodes s (sh.filter (fun p => decide (0 < p.2)))).map (·.1))
  else (placeOne s v (recAllows l) die).isSome

/-! ## Handler images (R384, R385) -/

/-- A handler table that R387 lets through. -/
def handOk (ws : List Word) : Bool :=
  ((List.range 20).zip ws).all (fun p =>
    decide (bits p.2 60 3 = 0 ∧ bits p.2 48 6 = 0)
      && (!handValid p.2 || decide (p.1 ≠ 19 ∧ 1 ≤ handLim p.2 ∧ handLim p.2 ≤ 10 ∧ bits p.2 0 2 = 0)))

/-- Dwords at virtual addresses, each byte where `loc` leads it; `none` when a byte cannot be read. DEDUCED (log 51). -/
def readAt (s : State) (loc : Word → Loc) (va : Word) (n : Nat) : Option (List Word) :=
  let locs := (addrs va (8 * n)).map (fun a => (a, loc a))
  if (stopOf s locs false).isSome || locs.any (fun x => isFar x.2) then none
  else
    let bs := locs.map (fun x => match x.2 with | .cell k => mget s.mem k | _ => (0 : Byte))
    some ((List.range n).map (fun i => BitVec.ofNat 64 (natOfBytes ((bs.drop (8 * i)).take 8))))

/-- Where a translated address leads for the stage, through a record's PTROOT (R42, R43). -/
def stageLoc (s : State) (ptroot : Word) (kind : AccKind) (va : Word) : Loc :=
  let v := va.toNat
  if v < 2 ^ 40 ∨ 2 ^ 47 ≤ v then .xlate
  else
    match walk s ptroot v with
    | .page p => leafLoc s { core := 0, priv := true, kind := kind } p v
    | .ecc key => .bad key
    | .fault => .xlate

/-- HTAB is translated: the stage copies the image with the record (R385). -/
def htabFar (l : Launch) : Bool := decide (2 ^ 40 ≤ recHtab l ∧ recHtab l < 2 ^ 47)

/-- The image as the stage copies it; an empty one where each core reads its own slices (R384); `none` when the read fails.
DEDUCED (log 51). -/
def stageImage (s : State) (l : Launch) : Option (List Word) :=
  if htabFar l then readAt s (stageLoc s (recWord l 3) .load) (recWord l 16) 20 else some []

/-! ## Checks and rejection (R387, R460) -/

/-- A record that has a reserved field, or another of the faults of REASON 1. DEDUCED (log 50). -/
def recReserved (l : Launch) : Bool :=
  (List.range 32).any (fun i => decide (recWord l i &&& ~~~(recMask i) ≠ 0))
    || (List.range 8).any (fun i => decide (recLev l ≤ i ∧ recWord l (8 + i) ≠ 0))
    || decide (16 < bits (recWord l 0) 24 5 ∨ recCmax l < recCpri l ∨ bits (recEntry l) 0 2 ≠ 0)
    || decide (recKind l = 2 ∧ 15 < recScls l)

/-- The job of a record's ASID (R387). -/
def recJob (s : State) (l : Launch) : Nat := jobOfAsid s (bits (recWord l 3) 0 12)

/-- The REASON of a record's rejection, 0 for none, in the order of R460; `job` is the job that the ASID must be registered for.
DEDUCED (log 50). -/
def recReason (s : State) (l : Launch) (die : Nat) (job : Option Nat) : Nat :=
  match stageImage s l with
  | none => 6
  | some img =>
    if recReserved l then 1
    else if hierOk s l = false then 2
    else if (recWord l 3).toNat / 2 ^ 39 ≠ 0 ∨ recJob s l = 16 ∨ (job.getD (recJob s l) ≠ recJob s l) then 4
    else if handOk img = false then 5
    else if placeable s l die = false then 3
    else 0

/-- MSI-X vector `v` raised (R462): sent, or pending while it is masked. -/
def raiseMsix (s : State) (v : Nat) : State :=
  if bits (bar s (0x100008 + 16 * v)) 32 1 = 1 then
    let off := 0x108000 + 8 * (v / 64)
    setBar s off (bar s off ||| BitVec.ofNat 64 (2 ^ (v % 64)))
  else { s with irqs := s.irqs ++ [v] }

/-- The active message of KIND 2 (R394). DEDUCED (log 40). -/
def signalMsg (s : State) (l : Launch) (status tend : Nat) : State :=
  let m : Msg := { cls := recScls l, rel := true, spilled := false, src := srcId s (ctxNo (if l.cores.isEmpty && l.images.isEmpty then l.die * 1152 else lowestCore l) 0),
                   a0 := BitVec.ofNat 64 (recLid l), a1 := BitVec.ofNat 64 (status + l.fcnt * 2 ^ 16), a2 := recCrec l,
                   a3 := BitVec.ofNat 64 tend, job := l.job }
  match sendTarget m.cls (recSigd l), jobNode s (idNode (recSigd l)) with
  | some k, true => sendPacket s none (msgPacket s (idNode (recSigd l)) k m.cls m)
  | _, _ => s

/-- A rejected launch (R387): counted, with its signal message of KIND 2. -/
def rejectRec (s : State) (l : Launch) : State :=
  let s1 := countUp s 0x042010 1
  if recKind l = 2 ∧ recScls l ≤ 15 then signalMsg s1 { l with fcnt := 0 } 2 (nowNs s) else s1

/-- The record put into a die's stage queue (R385). -/
def enqueueRec (s : State) (die : Nat) (p : Pending) : State :=
  setDie { s with uid := s.uid + 1 } die { getDie s die with pend := (getDie s die).pend ++ [p] }

/-- A new launch key of this module: other modules name the launch by it. -/
def newKey (s : State) : Nat := myNode s * 2 ^ 32 + s.uid

/-- An accepted record as the stage keeps it. -/
def newPending (s : State) (l : Launch) : Pending :=
  { key := newKey s, words := l.words, image := (stageImage s l).getD [], tacc := nowNs s, seq := s.uid, root := myNode s, rank := 0,
    job := recJob s l }

/-- A record of a locator with its overrides checked and queued, or rejected (R386, R387). -/
def takeRecord (s : State) (die : Nat) (loc : Nat) (edit : List Word → List Word) (job : Nat) : State :=
  let s1 := (locKey loc).elim s (fun k => noteDwords s k 32)
  match (locKey loc).bind (fun k => readDwords s k 32) with
  | none => countUp s1 0x042010 1
  | some ws =>
    let l : Launch := { words := edit ws, die := die }
    let l1 := { l with job := recJob s l }
    if recReason s l1 die (some job) = 0 then enqueueRec s1 die (newPending s1 l1) else rejectRec s1 l1

/-- The overrides of a class-19 message (R386). -/
def msgEdits (m : Msg) (ws : List Word) : List Word :=
  let ws1 := if bits m.a3 0 1 = 1 then setWord ws 2 m.a1 else ws
  if bits m.a3 1 1 = 1 then
    setWord ws1 0 (BitVec.ofNat 64 ((m.a2.toNat % 2 ^ 32) * 2 ^ 32 + (ws1.getD 0 0).toNat % 2 ^ 32))
  else ws1

/-- A class-19 message at its stage (R386): argument 3 has no other bits. -/
def takeStageMsg (s : State) (die : Nat) (m : Msg) : State :=
  if bits m.a3 2 62 ≠ 0 then countUp s 0x042010 1 else takeRecord s die m.a0.toNat (msgEdits m) m.job

/-- The state of an entry of a dependence table. -/
def getDep (s : State) (die e : Nat) : Dep := kget {} (getDie s die).dep e
/-- The state with an entry replaced. -/
def setDep (s : State) (die e : Nat) (x : Dep) : State := setDie s die { getDie s die with dep := kset (getDie s die).dep e x }

/-- A part forwarded by the root enters D0's queue (R389); one that can never be placed here ends the launch as a fault (R50). -/
def takePart (s : State) (key : Nat) (ws image : List Word) (root rank time : Nat) : State :=
  let l : Launch := { words := ws }
  enqueueRec s 0 { key := key, words := ws, image := image, tacc := time, seq := s.uid, root := root, rank := rank, job := recJob s l }

/-- LAUNCH_RECORD_ARRIVAL (R385): a stage with room takes a forwarded part, else the oldest class-19 message, else the locator of the
lowest FIRING entry. -/
def launchArrival (s : State) (die : Nat) : State :=
  let d := getDie s die
  if bootState s ≠ 4 ∨ 256 ≤ d.pend.length then s
  else
    match (if die = 0 then takeArrived s (fun p => match p.body with | .launchPart _ _ _ _ _ _ => true | _ => false) 0 else none) with
    | some (p, s1) =>
      (match p.body with
       | .launchPart key ws img root rank time => takePart s1 key ws img root rank time
       | _ => s1)
    | none =>
      match d.inbox with
      | m :: rest => takeStageMsg (setDie s die { d with inbox := rest }) die m
      | [] =>
        match d.dep.find? (fun e => e.2.st == .firing) with
        | some (e, x) => takeRecord (setDep s die e { x with st := .idle }) die x.loc.toNat (fun w => w) x.job
        | none => s

/-- LAUNCH_RECORD_ARRIVAL (R385). -/
def execLaunchRecordArrival (die : Nat) (s : State) : Host.Outcome State Fault Refusal := .next (launchArrival s die)

/-! ## Admission and start (R383, R388, R389, R392) -/

/-- A core is free and the launch may use it. -/
def coreFree (s : State) (l : Launch) (k : Nat) : Bool := (getCore s k).launch.isNone && recAllows l k

/-- A record is ahead of another in its queue (R388). -/
def aheadOf (p q : Pending) : Bool :=
  let a := recLpri { words := p.words }
  let b := recLpri { words := q.words }
  decide (b < a ∨ (a = b ∧ p.seq < q.seq))

/-- The head of a stage's queue (R388). -/
def headOf_ (l : List Pending) : Option Pending :=
  l.foldl (fun acc p => match acc with | none => some p | some q => if aheadOf p q then some p else some q) none

/-- Translations of an ASID, and its table pointers, flushed (R45, R48). -/
def flushTlb (s : State) (asid : Nat) : State :=
  { s with tlb := s.tlb.filter (fun e => e.asid != asid), walks := s.walks.filter (fun e => e.asid != asid) }

/-- Those of every ASID that a launch has named (R39, R48). -/
def flushAsids (s : State) (l : Launch) : State := (l.asid :: l.asids).foldl flushTlb s

/-- The coordinates of the core of a rank (R383). -/
def coordOf (v : List Lev) (rank : Nat) : Vector Word 8 :=
  Vector.ofFn (fun i : Fin 8 =>
    if i.val < v.length then BitVec.ofNat 64 (rank / coresPer v i.val % (lev v i.val).cnt) else 0)

/-- A context at the start of a launch (R143, R383, R392); every register is dirty (R437). -/
def launchCtx (s : State) (l : Launch) (i rank : Nat) : Ctx :=
  let wid := coordOf (coreLevs l) rank
  { st := .ready, pc := recEntry l, s := startRegs [] (BitVec.ofNat 64 (0x40000 - recSp l) - BitVec.ofNat 64 (i * stackBytes l)),
    prioMax := recCmax l, prio := recCpri l, sd := BitVec.allOnes 32, vd := BitVec.allOnes 32, pd := BitVec.allOnes 8,
    kd := BitVec.allOnes 32, wid := if recDom l 0 = 0 then wid.set 0 (BitVec.ofNat 64 i) else wid,
    rng := rngSeed (recWord l 4) (BitVec.ofNat 64 rank) i, start := s.uid }

/-- The contexts that a core starts (R383). -/
def startCount (l : Launch) : Nat := if recDom l 0 = 0 then recCount l 0 else 1

/-- A core at the start of a launch (R392): what firmware set stays, and the serials of its pitches go on. -/
def launchCore (old : Core) (key : Nat) (l : Launch) (hand : List Word) (rank : Nat) : Core :=
  { launch := some key, lcore := BitVec.ofNat 64 rank, svec := old.svec, hand := Vector.ofFn (fun i : Fin 20 => hand.getD i.val 0),
    pitch := old.pitch.map (fun p => { serial := p.serial, gone := p.gone }), sp := recSp l, refused := old.refused, wdBase := 0 }

/-- A core set up and its contexts started (R392). -/
def startCore (s : State) (key : Nat) (l : Launch) (k rank : Nat) (hand : List Word) : State :=
  let s1 := setCore s k (launchCore (getCore s k) key l hand rank)
  let s2 := (List.range 11).foldl (fun st i =>
    setCtx { st with uid := st.uid + 1 } (ctxNo k i) (if i < startCount l then launchCtx st l i rank else {})) s1
  { s2 with clean := s2.clean.filter (fun ln => decide (ln / 1024 ≠ sliceKey k 0 / 2 ^ 18)) }

/-- The handler table of a core (R384): the stage's copy, or read through its own control context. DEDUCED (log 51). -/
def coreImage (s : State) (l : Launch) (k : Nat) : Option (List Word) :=
  if recHtab l = 0 then some (List.replicate 20 0)
  else if htabFar l then some l.image
  else readAt s (resolve s { core := k, priv := true, kind := .load }) (recWord l 16) 20

/-- The forwarded parts of a launch of several modules (R389). -/
def forwardParts (s : State) (key : Nat) (l : Launch) (nodes : List Nat) : State :=
  nodes.foldl (fun st n =>
    if n = myNode st then st
    else sendPacket st (some key) { mkPacket st 0 n 0 (.launchPart key l.words l.image (myNode st) (nodes.idxOf n) l.tacc) with stage := true }) s

/-- The report of a host-queue entry written and the head moved on (R461). -/
def finishEntry (s : State) (addr : Nat) (bytes : List Byte) : State :=
  let s1 := putCells s (((List.range bytes.length).zip bytes).map (fun p => (hostKey ((addr + 0x10 + p.1) % 2 ^ 64), p.2)))
  setBar s1 0x001020 (BitVec.ofNat 64 (((bar s 0x001020).toNat + 1) % 2 ^ bits (bar s 0x001010) 0 4))

/-- The host-queue entry of a record is reported: accepted, or rejected for a reason (R387, R461). -/
def reportEntry (s : State) (host : Option Nat) (reason : Nat) : State :=
  match host with
  | some addr => finishEntry s addr (if reason = 0 then [1] else [2, BitVec.ofNat 8 reason])
  | none => s

/-- A placed launch started on its cores (R389, R392), from the rank of the first of them. A record whose image turns out bad, or cannot be
read, is rejected, with REASON 5 or 6 in its host-queue entry (R387, R460). DEDUCED (log 51). -/
def startLaunch (s : State) (key : Nat) (l : Launch) (base : Nat) (host : Option Nat) : State :=
  let ranked := l.cores.zip (List.range l.cores.length)
  let s1 := l.cores.foldl (fun st k => setCore st k { getCore st k with launch := some key }) (setLaunch (flushAsids s l) key l)
  let imgs := ranked.map (fun q => (q, coreImage s1 l q.1))
  if imgs.all (fun q => (q.2.map handOk).getD false) then
    let s2 := imgs.foldl (fun st q => startCore st key l q.1.1 (base + q.1.2) (q.2.getD [])) s1
    reportEntry (if l.root = myNode s ∧ 1 < l.nodes.length then forwardParts s2 key l l.nodes else s2) host 0
  else if host.isSome then reportEntry (countUp s 0x042010 1) host (if imgs.any (fun q => q.2.isNone) then 6 else 5)
  else rejectRec s l

/-- The launch of a pending record placed on cores (R388, R389). -/
def launchFrom (s : State) (die : Nat) (p : Pending) (nodes cores : List Nat) : Launch :=
  { words := p.words, image := p.image, die := die, asid := bits (p.words.getD 3 0) 0 12, job := p.job, ptroot := p.words.getD 3 0,
    cores := cores, tacc := p.tacc, seq := p.seq, nodes := nodes, root := p.root, rank := p.rank,
    admitted := s.uid, partsLeft := if p.root = myNode s then nodes.filter (fun n => n != myNode s) else [] }

/-- Where a pending record would be placed now: its modules, the rank of its first core here, its cores (R388). -/
def placement (s : State) (die : Nat) (p : Pending) : Option (List Nat × Nat × List Nat) :=
  let l : Launch := { words := p.words }
  let v := coreLevs l
  if spans v then
    let sh := ascNodes s (sharesOf s v (recAllows l) p.root)
    let mine := ((sh.find? (fun q => q.1 == myNode s)).map (·.2)).getD 0
    let base := (sh.takeWhile (fun q => q.1 != myNode s)).foldl (fun acc q => acc + q.2 * coresPer v (shareLev v)) 0
    (placePart s v (coreFree s l) mine).map (fun c => (sh.map (·.1), base, c))
  else (placeOne s v (coreFree s l) die).map (fun c => ([myNode s], 0, c))

/-- A part that can never be placed, whose launch ends as a fault (R389): the fault has no code of its own (log 34). -/
def neverPlaced (s : State) (p : Pending) : Bool :=
  let l : Launch := { words := p.words }
  let v := coreLevs l
  decide (p.root ≠ myNode s) && !((placePart s v (recAllows l)
    (((sharesOf s v (recAllows l) p.root).find? (fun q => q.1 == myNode s)).map (·.2) |>.getD 0)).isSome)

/-- LAUNCH_ADMIT (R388): the head of a stage's queue is placed and started when it fits; a restored launch is RESTORE's.
DESIGN CHOICE (log 34). -/
def launchAdmit (s : State) (die : Nat) : State :=
  let d := getDie s die
  match headOf_ d.pend with
  | none => s
  | some p =>
    if bootState s ≠ 4 ∨ p.restore = true then s
    else
      let s1 := setDie s die { d with pend := d.pend.filter (fun q => q.key != p.key) }
      if neverPlaced s p then
        let l := launchFrom s die p [] []
        faultLaunch (setLaunch s1 p.key { l with nodes := [myNode s] }) p.key
          { core := 0, ctx := 0, cause := Config.placeFault p.key, fva := 0, time := nowNs s }
      else
        match placement s die p with
        | some (nodes, base, cores) => startLaunch s1 p.key (launchFrom s die p nodes cores) base p.host
        | none => s

/-- LAUNCH_ADMIT (R388). -/
def execLaunchAdmit (die : Nat) (s : State) : Host.Outcome State Fault Refusal := .next (launchAdmit s die)

/-! ## The dependence table (R390, R391) -/

/-- A packet for a dependence table, and the die it is for. -/
def depDie (p : Packet) : Option Nat :=
  match p.body with
  | .depDec die _ _ => some die
  | .depOp _ _ die _ _ _ => some die
  | _ => none

/-- The code of an entry's state (R391). -/
def depCode : DepSt → Nat
  | .idle => 0 | .armed => 1 | .firing => 2

/-- A decrement of an entry by `n` (R390); `quiet` for an amount that only reads. DEDUCED (log 56). -/
def depDecrement (s : State) (die e n : Nat) (quiet : Bool) : State :=
  let x := getDep s die e
  if x.st ≠ .armed then (if quiet then s else countUp s 0x042018 1)
  else
    let c := x.count - n
    setDep s die e { x with count := c, st := if c = 0 then .firing else .armed }

/-- The result word of DEPDEC (R391). -/
def depWord (x : Dep) (status : Nat) : Word := BitVec.ofNat 64 (status * 2 ^ 20 + depCode x.st * 2 ^ 16 + x.count)

/-- DEPDEC at the table (R391): the state and the word that answers it; an entry is armed for the job of its owner. DEDUCED (log 56). -/
def depApply (s : State) (job die e : Nat) (arm : Bool) (b : Word) : State × Word :=
  let x := getDep s die e
  if arm then
    if x.st ≠ .idle then (s, depWord x 2)
    else
      let c := bits b 0 16
      (setDep s die e { loc := BitVec.ofNat 64 (bits b 16 48 * 256), count := c, st := if c = 0 then .firing else .armed, job := job },
       depWord x 0)
  else (depDecrement s die e (bits b 0 16) (decide (bits b 0 16 = 0)), depWord x (if x.st = .armed then 0 else 1))

/-- DEPENDENCE_DECREMENT (R390): the `n`-th request that is the oldest for its table is applied; a DEPDEC is answered. -/
def depRequest (s : State) (n : Nat) : State :=
  let l := (List.range s.arrived.length).zip s.arrived
  let first := fun (q : Nat × Packet) => match depDie q.2 with
    | some d => (s.arrived.take q.1).all (fun r => depDie r != some d)
    | none => false
  match (l.filter first)[n]? with
  | none => s
  | some (i, p) =>
    let s1 := { s with arrived := ldel s.arrived i }
    match p.body with
    | .depDec die e k => depDecrement s1 die e k false
    | .depOp x start die e arm b =>
      let (s2, w) := depApply s1 (launchRec s1 (coreOf x)).job die e arm b
      sendPacket s2 (launchOf s2 (coreOf x)) (mkPacket s2 5 (myNode s2) (coreOf x) (.depAns x start w))
    | _ => s1

/-- DEPENDENCE_DECREMENT (R390). -/
def execDependenceDecrement (n : Nat) (s : State) : Host.Outcome State Fault Refusal := .next (depRequest s n)

/-- DEPDEC sent to the table of a die (R391). -/
def depdec (i : Instr) (d a b : Reg) (arm : Bool) (s : State) : Host.Outcome State Fault Refusal :=
  let w := sreg s a
  finish i
    (afterStores s .mod
      (if bits w 12 52 ≠ 0 ∨ (arm = false ∧ bits (sreg s b) 16 48 ≠ 0) then .ok (setSreg s d (BitVec.ofNat 64 (3 * 2 ^ 20)))
       else
         let body := Body.depOp s.turn (cur s).start (bits w 10 2) (bits w 0 10) arm (sreg s b)
         .wait (sendPacket s (launchOf s (curCore s)) (mkPacket s 5 (myNode s) (curCore s) body)) (.dep d)))

/-- DEPDEC `.dec` (R391). -/
def execDepdecDec (d a b : Reg) (s : State) : Host.Outcome State Fault Refusal := depdec (.depdecDec d a b) d a b false s
/-- DEPDEC `.arm` (R391). -/
def execDepdecArm (d a b : Reg) (s : State) : Host.Outcome State Fault Refusal := depdec (.depdecArm d a b) d a b true s

/-- DEPENDENCE_TABLE_ANSWER (R391): the `n`-th answer reaches its context. -/
def depAnswer (s : State) (n : Nat) : State :=
  match takeArrived s (fun p => match p.body with | .depAns _ _ _ => true | _ => false) n with
  | none => s
  | some (p, s1) =>
    match p.body with
    | .depAns x start w =>
      (match (getCtx s1 x).wait with
       | some (.dep d) => if (getCtx s1 x).start = start then completeWait s1 x d w 4 else s1
       | _ => s1)
    | _ => s1

/-- DEPENDENCE_TABLE_ANSWER (R391). -/
def execDependenceTableAnswer (n : Nat) (s : State) : Host.Outcome State Fault Refusal := .next (depAnswer s n)

/-! ## The end of a part and of a launch (R393, R394) -/

/-- A core has nothing left to do for its launch (R393). -/
def coreIdle (s : State) (k : Nat) : Bool :=
  let c := getCore s k
  (List.range 11).all (fun i => decide ((getCtx s (ctxNo k i)).st = .free))
    && c.eng.toList.all (fun q => q.cmds.isEmpty)
    && c.spill.all (fun e => e.compl) && c.refused.all (fun m => m.cls == 16)

/-- CORE_PART_END (R393): what is left in the completion queue is discarded. -/
def corePartEnd (s : State) (k : Nat) : State :=
  let c := getCore s k
  match c.launch with
  | some l =>
    let x := getLaunch s l
    if x.first.isNone && decide (x.pre = .no) && !c.ended && coreIdle s k then
      setLaunch (setCore s k { c with ended := true, spill := [], heldMsg := [], refused := [] }) l { x with tend := nowNs s }
    else s
  | none => s

/-- CORE_PART_END (R393). -/
def execCorePartEnd (core : Nat) (s : State) : Host.Outcome State Fault Refusal := .next (corePartEnd s core)

/-- An octet without a launch: its banks freed and zeroed (R297); the arbiter starts anew where no other launch has a command.
DEDUCED (log 43). -/
def freeOctet (s : State) (l o : Nat) : State :=
  let x := getOct s o
  let shared := (List.range 8).any (fun i => (getCore s (8 * o + i)).launch.isSome && (getCore s (8 * o + i)).launch != some l)
  let y := { x with banks := x.banks.map (fun b => if b.owner = some l then {} else b) }
  setOct s o (if shared then y else { y with order := [], turn := 0, used := 0, wts := 0 })

/-- A core leaves its launch (R114, R371, R393, R400): contexts FREE with their leave returned, commands and messages discarded, bookings
ended, pitches FREE, the step barriers it keeps over. -/
def clearCore (s : State) (k : Nat) (fault : Bool) : State :=
  let s1 := (List.range 11).foldl (fun st i =>
    let x := ctxNo k i
    setCtx (abandon (putLeave st x) x) x {}) s
  let s2 := (getCore s1 k).eng.toList.foldl (fun st q => q.cmds.foldl (fun st2 m => dropLeave (dropGang st2 k m) k m) st) s1
  let s3 := endBooks (dropSteps s2 k) k fault
  let s4 := (List.range 4).foldl (fun st p =>
    let t := cancelBooks st k p 4
    setPitch t k p { serial := (getPitch t k p).serial, gone := (getPitch t k p).gone }) s3
  let c := getCore s4 k
  setCore s4 k { launch := c.launch, lcore := c.lcore, svec := c.svec, hand := c.hand, pitch := c.pitch, sp := c.sp,
                 refused := c.refused, halted := false, ended := true }
where
  /-- A gang of a discarded command lets its units go (R312, R429). -/
  dropGang (s : State) (k : Nat) (m : EngCmd) : State :=
    if (getClus s (clusOf k)).gang.any (fun g => g.uid == m.uid && g.running) then gangEnd s k m else s

/-- The newest image of each core, by the core's number at the save. DESIGN CHOICE (log 52). -/
def newestImages (x : Launch) : List CoreImage :=
  x.images.foldr (fun i acc => i :: acc.filter (fun j => j.slot != i.slot)) []

/-- The bookings that a saved launch keeps with its state (R118) end with it (R114, R429). -/
def endSavedBooks (s : State) (l : Nat) (fault : Bool) : State :=
  let x := getLaunch s l
  if x.pre = .saved then (newestImages x).foldl (fun st i => i.core.books.foldl (fun t b => tellOwner t (some l) b.id fault) st) s else s

/-- What a launch holds here is freed (R393 step 1, R429): its cores, banks, gangs and models, the bookings of a saved one. -/
def freeLaunch (s : State) (l : Nat) (fault : Bool) : State :=
  let x := getLaunch s l
  let s1 := x.cores.foldl (fun st k => clearCore st k fault) (endSavedBooks s l fault)
  let s2 := ((x.cores.map octOf).eraseDups).foldl (fun st o => freeOctet st l o) s1
  let s3 := ((x.cores.map clusOf).eraseDups).foldl (fun st c => unbindCre st l c) s2
  let s4 := (s3.octs.filter (fun o => o.2.banks.toList.any (fun b => b.owner == some l))).foldl (fun st o => freeOctet st l o.1) s3
  { s4 with fars := s4.fars.filter (fun f => f.launch != some l || (match f.who with | .record _ => true | _ => false)) }

/-- A message for a core that its launch has left is discarded (R254). -/
def dropRefused (s : State) (k : Nat) : State :=
  let c := getCore s k
  countUp (setCore s k { c with launch := none, refused := [] }) 0x042008 c.refused.length

/-- Where a byte of a completion record is written (R393): a window names the slices of the launch's lowest core on this module, and a
slice that is another launch's by then is not written. -/
def recLoc (s : State) (l : Nat) (va : Word) : Loc :=
  let x := getLaunch s l
  let k0 := lowestCore x
  let own := fun (k o : Nat) => match (getCore s k).launch with
    | some m => if m = l then Loc.cell (sliceKey k o) else Loc.prot
    | none => Loc.cell (sliceKey k o)
  let v := va.toNat
  if v < 2 ^ 18 then own k0 v
  else if v < 0x1000000 then .xlate
  else if v < 0x1C00000 then own (k0 / 48 * 48 + (v - 0x1000000) / 2 ^ 18) (v % 2 ^ 18)
  else if v < 2 ^ 32 then .xlate
  else if v < 0x180000000 then
    (match coreOfId (v / 2 ^ 18 % 2 ^ 13) with
     | some k => own k (v % 2 ^ 18)
     | none => .oor)
  else if v < 2 ^ 40 then .xlate
  else stageLoc s x.ptroot .store va

/-- The completion record of a launch (R394). -/
def complRec (x : Launch) : List Word :=
  let f := x.first
  [ BitVec.ofNat 64 (recLid x * 2 ^ 32 + (x.fcnt % 2 ^ 16) * 2 ^ 16 + (if f.isSome then 1 else 0)),
    (f.map (fun g => BitVec.ofNat 64 (g.core % 2 ^ 13 * 2 ^ 20 + g.ctx % 16 * 2 ^ 16 + g.cause % 2 ^ 16))).getD 0,
    (f.map (fun g => g.fva)).getD 0,
    BitVec.ofNat 64 x.tacc, BitVec.ofNat 64 x.tstart, BitVec.ofNat 64 x.tend, BitVec.ofNat 64 (x.npre % 2 ^ 32), 0 ]

/-- The completion record written (R393): a write that faults is counted; one to another module is waited for. -/
def writeRecord (s : State) (l : Nat) : State :=
  let x := getLaunch s l
  let s1 := setLaunch s l { x with recSent := true }
  if recCrec x = 0 then s1
  else
    let cells := (addrs (recCrec x) 64).zip ((complRec x).flatMap (fun w => bytesOfNat 8 w.toNat))
    let locs := cells.map (fun c => (c.1, recLoc s l c.1))
    match stopOf s locs true with
    | some (.ecc key _) => countUp (noteDouble s1 key) 0x042038 1
    | some _ => countUp s1 0x042038 1
    | none =>
      let here := (cells.zip locs).filterMap (fun p => match p.2.2 with | .cell k => some (k, p.1.2) | _ => none)
      let s2 := putCells s1 here
      let piece := farPiece s2 (locs.filter (fun y => isFar y.2))
      if piece.isEmpty then s2
      else
        let data := piece.map (fun y => ((cells.find? (fun c => c.1 == y.1)).map (·.2)).getD 0)
        let (s3, tag) := askFar s2 (.record l) none .store piece data none none
        setLaunch s3 l { getLaunch s3 l with recTag := some tag }

/-- The signal of a launch (R394). -/
def sendSignal (s : State) (l : Nat) : State :=
  let x := getLaunch s l
  if recKind x = 1 then raiseMsix s (recSval x)
  else if recKind x = 2 then signalMsg s x (if x.first.isSome then 1 else 0) x.tend
  else if recKind x = 3 ∧ x.first.isNone then
    sendPacket s none (mkPacket s 5 (myNode s) (recSdie x * 1152) (.depDec (recSdie x) (recSval x % 1024) 1))
  else s

/-- A launch leaves the module (R48, R393, R442): its cores take part in none, its barriers and translations are gone. -/
def removeLaunch (s : State) (l : Nat) : State :=
  let x := getLaunch s l
  let s1 := x.cores.foldl dropRefused s
  let s2 := flushAsids { s1 with launches := kdel s1.launches l, bars := s1.bars.filter (fun b => b.launch != l) } x
  { s2 with jobs := kset s2.jobs x.job { kget {} s2.jobs x.job with since := nowNs s, count := 0 } }

/-- The part of this module has ended: nothing of it is left, or the fault has stopped it. -/
def partEnded (s : State) (l : Nat) : Bool :=
  let x := getLaunch s l
  decide (x.pre = .no) && (if x.first.isSome then x.stopped else x.cores.all (fun k => (getCore s k).ended))

/-- The root is told that this part has ended (R393, R430). -/
def reportEnd (s : State) (l : Nat) : State :=
  let x := getLaunch s l
  sendPacket (setLaunch s l { x with reported := true }) none (mkPacket s 0 x.root 0 (.partEnd l x.fcnt x.first x.tstart x.tend))

/-- The earlier of two first faults, the lower core first at one time (R51). DEDUCED (log 49). -/
def earlier (a b : Option FaultRec) : Option FaultRec :=
  match a, b with
  | some f, some g => if g.time < f.time ∨ (g.time = f.time ∧ g.core < f.core) then some g else some f
  | some f, none => some f
  | none, b => b

/-- The times of a first instruction: the earlier of those that are known. -/
def minTime (a b : Nat) : Nat := if a = 0 then b else if b = 0 then a else min a b

/-- The report of another module's part at the root. -/
def takeEnd (s : State) (l node fcnt : Nat) (first : Option FaultRec) (tstart tend : Nat) : State :=
  if kmem s.launches l then
    let x := getLaunch s l
    setLaunch s l { x with fcnt := min (x.fcnt + fcnt) 0xFFFF, first := earlier x.first first, tstart := minTime x.tstart tstart,
                           tend := max x.tend tend, partsLeft := x.partsLeft.filter (fun n => n != node) }
  else s

/-- A QRUN of a launch has begun or ended at another module (R441): after the last one the progress watchdogs start again. -/
def takeQrun (s : State) (l : Nat) (on : Bool) : State :=
  if kmem s.launches l then
    let x := getLaunch s l
    setLaunch s l (if on then { x with qruns := x.qruns + 1 } else { x with qruns := x.qruns - 1, wdBase := nowNs s })
  else s

/-- The root's word that a launch is over, at another module (R393): first it frees what its part held and says so; after the record and
the signal its translations are flushed. -/
def takeOver (s : State) (l root : Nat) (last : Bool) : State :=
  if kmem s.launches l = false then s
  else if last then removeLaunch s l
  else
    let s1 := freeLaunch s l false
    sendPacket (setLaunch s1 l { getLaunch s1 l with localEnd := true }) none (mkPacket s1 0 root 0 (.partFreed l))

/-- Another module has freed what its part held, as the root learns (R393). -/
def takeFreed (s : State) (l node : Nat) : State :=
  if kmem s.launches l then
    let x := getLaunch s l
    setLaunch s l { x with freeLeft := x.freeLeft.filter (fun n => n != node) }
  else s

/-- A packet that LAUNCH_COMPLETION takes: reports and ends of parts, and of QRUNs. -/
def isEnd (p : Packet) : Bool :=
  match p.body with
  | .partEnd _ _ _ _ _ => true | .launchEnd _ _ => true | .partFreed _ => true | .qrunNote _ _ => true | _ => false

/-- The reports and ends of launches that have come, taken in order. -/
def takeEnds (fuel : Nat) (s : State) : State :=
  match fuel with
  | 0 => s
  | fuel + 1 =>
    match takeArrived s isEnd 0 with
    | some (p, s1) =>
      (match p.body with
       | .partEnd l fcnt first t0 t1 => takeEnds fuel (takeEnd s1 l p.src fcnt first t0 t1)
       | .launchEnd l last => takeEnds fuel (takeOver s1 l p.src last)
       | .partFreed l => takeEnds fuel (takeFreed s1 l p.src)
       | .qrunNote l on => takeEnds fuel (takeQrun s1 l on)
       | _ => s1)
    | none => s

/-- The other modules of a launch are told that it is over: first to free what they hold, at last to flush (R393). -/
def tellEnd (s : State) (l : Nat) (last : Bool) : State :=
  ((getLaunch s l).nodes.filter (fun n => n != myNode s)).foldl
    (fun st n => sendPacket st none (mkPacket st 0 n 0 (.launchEnd l last))) s

/-- Step 1 of R393 at the root: every module of the launch frees what it holds. -/
def freeParts (s : State) (l : Nat) : State :=
  let s1 := freeLaunch (tellEnd s l false) l false
  let x := getLaunch s1 l
  setLaunch s1 l { x with localEnd := true, freeLeft := x.nodes.filter (fun n => n != myNode s) }

/-- The signal goes out and the translations are flushed (R393 steps 3 and 4). -/
def signalEnd (s : State) (l : Nat) : State := removeLaunch (tellEnd (sendSignal s l) l true) l

/-- The end of a launch at its root (R393): free, on every module; then record, signal, flush. -/
def endLaunch (s : State) (l : Nat) : State :=
  let s1 := if (getLaunch s l).localEnd then s else freeParts s l
  if (getLaunch s1 l).freeLeft ≠ [] then s1
  else
    let s2 := if (getLaunch s1 l).recSent then s1 else writeRecord s1 l
    match (getLaunch s2 l).recTag with
    | some t => if s2.fars.any (fun f => f.tag == t) then s2 else signalEnd s2 l
    | none => signalEnd s2 l

/-- LAUNCH_COMPLETION (R393): at the root, once every part has ended; elsewhere the root is told. -/
def launchCompletion (s0 : State) (l : Nat) : State :=
  let s := takeEnds s0.arrived.length s0
  let x := getLaunch s l
  if kmem s.launches l = false ∨ partEnded s l = false then s
  else if x.root ≠ myNode s then (if x.reported then s else reportEnd s l)
  else if x.partsLeft ≠ [] then s
  else endLaunch s l

/-- LAUNCH_COMPLETION (R393). -/
def execLaunchCompletion (launch : Nat) (s : State) : Host.Outcome State Fault Refusal := .next (launchCompletion s launch)

end Sys2Proof.Machine
end

