-- ==== Sys2Proof/Machine/Faults.lean ====
section
/-!
DEFINITION. How a fault ends a launch (R429-R431), the watchdogs (R440-R442) and the debugger (R443-R446): the events LAUNCH_FAULT,
FAULT_NOTICE, LAUNCH_WATCHDOG, PROGRESS_WATCHDOG, JOB_WATCHDOG, DEBUG_HALT, DEBUG_RESUME, DEBUG_STEP and DEBUG_HOLD_NOTICE.
-/
namespace Sys2Proof.Machine

/-! ## The end by a fault (R429-R431) -/

/-- A pending record of a launch leaves every queue. -/
def dropPending (s : State) (key : Nat) : State :=
  (List.range 4).foldl (fun st d => setDie st d { getDie st d with pend := (getDie st d).pend.filter (fun p => p.key != key) }) s

/-- LAUNCH_FAULT (R429, R431): the launch's contexts, work and resources are given up; a save or a restore in progress is abandoned. -/
def launchFault (s : State) (l : Nat) : State :=
  let x := getLaunch s l
  if kmem s.launches l = false ∨ x.first.isNone = true ∨ x.stopped = true then s
  else
    let s1 := dropPending (freeLaunch s l true) l
    let y := getLaunch s1 l
    setLaunch s1 l { y with stopped := true, tend := nowNs s, pre := .no, images := [], banks := [], cres := [] }

/-- LAUNCH_FAULT (R429). -/
def execLaunchFault (launch : Nat) (s : State) : Host.Outcome State Fault Refusal := .next (launchFault s launch)

/-- A fault of another module's part is known here (R430): it counts there. -/
def noteFault (s : State) (l : Nat) (f : FaultRec) : State :=
  let x := getLaunch s l
  setLaunch s l { x with first := earlier x.first (some f) }

/-- A part that has not started when its launch faults never does: it has ended. -/
def neverStarted (s : State) (key : Nat) : State :=
  match (List.range 4).findSome? (fun d => (getDie s d).pend.find? (fun p => p.key == key)) with
  | some p =>
    if p.root = myNode s then s
    else sendPacket (dropPending s key) none (mkPacket s 0 p.root 0 (.partEnd key 0 none 0 (nowNs s)))
  | none => s

/-- FAULT_NOTICE (R430): the `n`-th notice; the root sends it on to every other part. -/
def faultNotice (s : State) (n : Nat) : State :=
  match takeArrived s (fun p => match p.body with | .faultNotice _ _ => true | _ => false) n with
  | none => s
  | some (p, s1) =>
    match p.body with
    | .faultNotice l f =>
      if kmem s1.launches l then
        let x := getLaunch s1 l
        let s2 := noteFault s1 l f
        if x.root = myNode s ∧ x.first.isNone = true then
          (x.nodes.filter (fun m => m != myNode s && m != p.src)).foldl
            (fun st m => sendPacket st (some l) (mkPacket st 0 m 0 (.faultNotice l f))) s2
        else s2
      else neverStarted s1 l
    | _ => s1

/-- FAULT_NOTICE (R430). -/
def execFaultNotice (n : Nat) (s : State) : Host.Outcome State Fault Refusal := .next (faultNotice s n)

/-! ## Watchdogs (R440-R442) -/

/-- A job slot's record. -/
def getJob (s : State) (j : Nat) : Job := kget {} s.jobs j
/-- A debug hold is in force for a job (R445). -/
def held (s : State) (j : Nat) : Bool := decide (0 < (getJob s j).holds)
/-- A launch's running time is counting (R440). -/
def counting (s : State) (x : Launch) : Bool := x.began && decide (x.pre ≠ .saved ∧ x.pre ≠ .back) && !held s x.job
/-- The time a launch has spent running (R440). -/
def runTime (s : State) (x : Launch) : Nat := x.ran + (if counting s x then nowNs s - x.mark else 0)
/-- The limit of a launch in ns (R440). -/
def launchLimit (s : State) (x : Launch) : Nat :=
  1000 * (if bits (recWord x 18) 0 32 = 0 then bits (bar s 0x090008) 0 32 else bits (recWord x 18) 0 32)

/-- LAUNCH_WATCHDOG (R440). -/
def launchWatchdog (s : State) (l : Nat) : State :=
  let x := getLaunch s l
  if kmem s.launches l && x.first.isNone && counting s x && decide (launchLimit s x < runTime s x) then raiseFaultL s l (faultDog 1) else s

/-- LAUNCH_WATCHDOG (R440). -/
def execLaunchWatchdog (launch : Nat) (s : State) : Host.Outcome State Fault Refusal := .next (launchWatchdog s launch)

/-- A QRUN of a launch is active, here or at another of its modules (R441). -/
def qrunActive (s : State) (x : Launch) : Bool :=
  decide (0 < x.qruns) || x.cores.any (fun k => (getQ s k .cre).cmds.any (fun m => decide (copOf m.word = 0x42 ∧ 2 ≤ m.phase)))

/-- A wait that no progress watchdog counts (R441). -/
def isSleep : Wait → Bool
  | .sleep _ _ => true | _ => false

/-- PROGRESS_WATCHDOG (R441): a context blocked for longer than the limit, counted from the last of the times that begin it anew. -/
def progressWatchdog (s : State) (x : Nat) : State :=
  let c := getCtx s x
  let k := coreOf x
  let l := launchRec s k
  let base := max c.blockedAt (max (getCore s k).wdBase l.wdBase)
  if launchRuns s k && decide (c.st = .blocked) && !(c.wait.map isSleep).getD false && !held s l.job
      && !((getCore s k).eng.toList.any (fun q => q.cmds.any (fun m => decide (2 ≤ m.phase)))) && !qrunActive s l
      && decide (base + bits (bar s 0x090000) 0 32 * 1000000 < nowNs s) then
    raiseFault s x (faultDog 2) 0
  else s

/-- PROGRESS_WATCHDOG (R441). -/
def execProgressWatchdog (x : Nat) (s : State) : Host.Outcome State Fault Refusal := .next (progressWatchdog s x)

/-- What a job watchdog has counted (R442). DEDUCED (log 60). -/
def jobCount (s : State) (j : Nat) : Nat :=
  let b := getJob s j
  b.count + (if held s j then 0 else nowNs s - b.since)

/-- JOB_WATCHDOG (R442): every running launch of the job faults. -/
def jobWatchdog (s : State) (j : Nat) : State :=
  if held s j = false ∧ bits (bar s (0x090100 + 8 * j)) 0 32 * 1000000 < jobCount s j then
    (s.launches.filter (fun p => decide (p.2.job = j) && p.2.first.isNone && decide (p.2.pre ≠ .saved))).foldl
      (fun st p => raiseFaultL st p.1 (faultDog 3)) s
  else s

/-- JOB_WATCHDOG (R442). -/
def execJobWatchdog (slot : BitVec 4) (s : State) : Host.Outcome State Fault Refusal := .next (jobWatchdog s slot.toNat)

/-- A job watchdog begins again (R442). DEDUCED (log 60). -/
def refreshJob (s : State) (j : Nat) : State := { s with jobs := kset s.jobs j { getJob s j with since := nowNs s, count := 0 } }

/-! ## Debug holds (R445, R446) -/

/-- A hold begins for a job: its watchdogs keep what they have counted. -/
def holdOn (s : State) (j : Nat) : State :=
  let b := getJob s j
  if 0 < b.holds then { s with jobs := kset s.jobs j { b with holds := b.holds + 1 } }
  else
    let stop := fun (x : Launch) => if x.job = j then { x with ran := runTime s x } else x
    { s with jobs := kset s.jobs j { b with holds := 1, heldAt := nowNs s, count := jobCount s j }
             launches := s.launches.map (fun p => (p.1, stop p.2)) }

/-- A time from which a watchdog counts, moved by the length of a hold. -/
def shifted (heldAt now t : Nat) : Nat := t + (now - max heldAt t)

/-- The last hold of a job ends: its watchdogs go on from what they had counted. -/
def holdOff (s : State) (j : Nat) : State :=
  let b := getJob s j
  if b.holds ≠ 1 then { s with jobs := kset s.jobs j { b with holds := b.holds - 1 } }
  else
    let now := nowNs s
    let mine := fun (k : Nat) => (getCore s k).launch.isSome && decide ((launchRec s k).job = j)
    let launch := fun (x : Launch) => if x.job = j then { x with mark := now, wdBase := shifted b.heldAt now x.wdBase } else x
    let core := fun (p : Nat × Core) => if mine p.1 then (p.1, { p.2 with wdBase := shifted b.heldAt now p.2.wdBase }) else p
    let ctx := fun (p : Nat × Ctx) => if mine (coreOf p.1) then (p.1, { p.2 with blockedAt := shifted b.heldAt now p.2.blockedAt }) else p
    { s with jobs := kset s.jobs j { b with holds := 0, since := now }
             launches := s.launches.map (fun p => (p.1, launch p.2))
             cores := s.cores.map core
             ctxs := s.ctxs.map ctx }

/-- A core of a launch is halted somewhere, or halted no more (R433). -/
def noteHalt (s : State) (l : Nat) (on : Bool) : State :=
  if kmem s.launches l then
    let x := getLaunch s l
    setLaunch s l { x with halts := if on then x.halts + 1 else x.halts - 1 }
  else s

/-- A notice of a hold, or of its end (R445). -/
def isHold (p : Packet) : Bool := match p.body with | .debugHold _ _ _ => true | _ => false

/-- DEBUG_HOLD_NOTICE (R445, R446): the `n`-th notice of a hold or of its end. -/
def debugHold (s : State) (n : Nat) : State :=
  match takeOrdered s (strictly isHold) isHold n with
  | none => s
  | some (p, s1) =>
    match p.body with
    | .debugHold j l on => if on then noteHalt (holdOn s1 j) l true else noteHalt (holdOff s1 j) l false
    | _ => s1

/-- DEBUG_HOLD_NOTICE (R445). -/
def execDebugHoldNotice (n : Nat) (s : State) : Host.Outcome State Fault Refusal := .next (debugHold s n)

/-- A hold for a core of a launch, or its end, told to every module of the job (R445). -/
def tellHold (s : State) (k : Nat) (on : Bool) : State :=
  let j := (launchRec s k).job
  let l := (launchOf s k).getD 0
  (jobNodes s).foldl (fun st n => sendPacket st none (mkPacket st 2 n 0 (.debugHold j l on))) s

/-- A launch is being pre-empted on this module (R433): a halt that comes now has no core to hold. DESIGN CHOICE (log 53). -/
def beingSaved (s : State) (k : Nat) : Bool :=
  decide ((launchRec s k).pre ≠ .no ∧ (launchRec s k).pre ≠ .back)

/-! ## Halt, resume and step (R443-R446) -/

/-- A wait whose request leaves its unit when the context halts (R285, R282, R401). -/
def withdrawn : Wait → Bool
  | .sfu => true | .vxchg => true | .leave _ _ => true | _ => false

/-- A live context HALTED (R443). -/
def haltCtx (s : State) (x : Nat) : State :=
  let c := getCtx s x
  match c.st with
  | .ready => setCtx s x { c with st := .halted }
  | .blocked =>
    let s1 := if (c.wait.map withdrawn).getD false then abandon s x else s
    setCtx s1 x { getCtx s1 x with st := .halted }
  | _ => s

/-- DEBUG_HALT (R443, R445, R459): one of a core of no launch is ignored and counted, and so is one of a core that is being saved, which a
halt does not reach (R433, R434). DESIGN CHOICE (log 53). -/
def debugHalt (s : State) (k : Nat) : State :=
  let c := getCore s k
  if c.launch.isNone || beingSaved s k then countUp s 0x042048 1
  else if c.halted then s
  else
    let s1 := (List.range 11).foldl (fun st i => haltCtx st (ctxNo k i)) (setCore s k { c with halted := true })
    tellHold s1 k true

/-- DEBUG_HALT (R443). -/
def execDebugHalt (core : Nat) (s : State) : Host.Outcome State Fault Refusal := .next (debugHalt s core)

/-- A halted context goes on as it was (R446): BLOCKED while it waits for something, else READY. -/
def unhaltCtx (c : Ctx) : Ctx :=
  if c.st ≠ .halted then c
  else
    match c.wait with
    | none => { c with st := .ready }
    | some .far => if c.farTag.isSome then { c with st := .blocked } else { c with st := .ready }
    | some _ => { c with st := .blocked }

/-- DEBUG_RESUME (R446, R459). -/
def debugResume (s : State) (k : Nat) : State :=
  let c := getCore s k
  if c.launch.isNone then countUp s 0x042048 1
  else if c.halted = false then s
  else
    let s1 := (List.range 11).foldl (fun st i => setCtx st (ctxNo k i) (unhaltCtx (getCtx st (ctxNo k i))))
      (setCore s k { c with halted := false, stepOf := none })
    settleSpill (tellHold s1 k false) k

/-- DEBUG_RESUME (R446). -/
def execDebugResume (core : Nat) (s : State) : Host.Outcome State Fault Refusal := .next (debugResume s core)

/-- A halted context may be stepped: it waits for no answer. -/
def mayStep (c : Ctx) : Bool :=
  decide (c.st = .halted) && c.farTag.isNone && !(c.wait.map firmWait).getD false

/-- DEBUG_STEP (R443): the next step issues one instruction of the context, which then halts again. -/
def debugStep (s : State) (k i : Nat) : State :=
  let x := ctxNo k i
  if (getCore s k).halted && mayStep (getCtx s x) then
    let s1 := setCore s k { getCore s k with stepOf := some i }
    let s2 := setCtx s1 x { getCtx s1 x with st := .ready }
    { s2 with agenda := .issue x :: s2.agenda }
  else s

/-- DEBUG_STEP (R443). -/
def execDebugStep (core ctx : Nat) (s : State) : Host.Outcome State Fault Refusal := .next (debugStep s core ctx)

end Sys2Proof.Machine
end

