-- ==== Sys2Proof/Machine/Preempt.lean ====
section
/-!
DEFINITION. Pre-emption and restore (R388, R433-R439): the events PREEMPTION_STOP, PREEMPTION_DRAIN, PREEMPTION_WRITE,
PREEMPTION_RELEASE and RESTORE. Each step of a launch of several modules is ordered by its root once the step before has ended everywhere.
-/
namespace Sys2Proof.Machine

/-! ## Restoring: which cores (R438) -/

/-- The launch is restored onto exactly the cores it left (R438). -/
def exactOnly (x : Launch) : Bool :=
  x.modWin || !x.cres.isEmpty || x.images.any (fun i => i.core.pitch.toList.any (fun p => decide (p.state ≠ 0)))

/-- Clusters found for the clusters a launch left: the same core numbers free in each, its own cluster first. DESIGN CHOICE (log 7). -/
def findClusters (ok : Nat → Bool) (olds : List Nat) (need : Nat → List Nat) (used : List Nat) : Option (List (Nat × Nat)) :=
  match olds with
  | [] => some []
  | c :: t =>
    (c :: List.range 96).findSome? (fun d =>
      if used.contains d || !((need c).all (fun i => ok (48 * d + i))) then none
      else (findClusters ok t need (d :: used)).map (fun m => (c, d) :: m))

/-- Where the cores of a saved launch go now: old and new core numbers (R438). DESIGN CHOICE (log 7). DEDUCED (log 54). -/
def restorePlace (s : State) (x : Launch) : Option (List (Nat × Nat)) :=
  let slots := (newestImages x).map (fun i => i.slot)
  let ok := coreFree s { words := x.words }
  if exactOnly x then (if slots.all ok then some (slots.map (fun k => (k, k))) else none)
  else
    let olds := (slots.map clusOf).eraseDups
    (findClusters ok olds (fun c => (slots.filter (fun k => clusOf k == c)).map (fun k => k % 48)) []).map (fun m =>
      slots.map (fun k => (k, ((m.find? (fun p => p.1 == clusOf k)).map (·.2)).getD 0 * 48 + k % 48)))

/-- The new number of a core. -/
def moved (m : List (Nat × Nat)) (k : Nat) : Nat := ((m.find? (fun p => p.1 == k)).map (·.2)).getD k
/-- The new number of an octet, of whose cores the launch had one. -/
def movedOct (m : List (Nat × Nat)) (o : Nat) : Nat :=
  ((m.find? (fun p => octOf p.1 == o)).map (fun p => octOf p.2)).getD o

/-- The banks of a saved launch are free where it goes (R297, R438). DEDUCED (log 54). -/
def banksFree (s : State) (x : Launch) (m : List (Nat × Nat)) : Bool :=
  x.banks.all (fun b => ((getOct s (movedOct m b.oct)).banks.toList.getD b.bank {}).owner.isNone)
    && x.cres.all (fun c => (getCre s c.1).owner.isNone)

/-! ## Who is pre-empted (R388) -/

/-- A pending record fits now. -/
def fitsNow (s : State) (die : Nat) (p : Pending) : Bool :=
  if p.restore then
    let x := getLaunch s p.key
    match restorePlace s x with
    | some m => banksFree s x m
    | none => false
  else (placement s die p).isSome

/-- A launch runs on this module and may be pre-empted. -/
def running (x : Launch) : Bool := decide (x.pre = .no) && x.first.isNone && !x.cores.isEmpty

/-- The launch that a stage pre-empts for its head: the lowest LPRI below the head's, among equals the most recently admitted. -/
def victim (s : State) (die : Nat) : Option Nat :=
  match headOf_ (getDie s die).pend with
  | none => none
  | some p =>
    if fitsNow s die p then none
    else
      let lp := recLpri { words := p.words }
      (s.launches.foldl (fun acc q =>
        if running q.2 && decide (recLpri q.2 < lp) then
          match acc with
          | none => some q
          | some r =>
            if recLpri q.2 < recLpri r.2 ∨ (recLpri q.2 = recLpri r.2 ∧ r.2.admitted < q.2.admitted) then some q else some r
        else acc) none).map (fun q => q.1)

/-- A pre-emption is under way on this module. -/
def preempting (s : State) : Bool := s.launches.any (fun q => decide (q.2.pre ≠ .no ∧ q.2.pre ≠ .saved ∧ q.2.pre ≠ .back))

/-- Some stage wants the launch pre-empted now. -/
def wanted (s : State) (l : Nat) : Bool :=
  decide (bootState s = 4) && !preempting s && (List.range 4).any (fun d => victim s d == some l)

/-! ## The order of steps (R433) -/

/-- An order or a report of another module's part. -/
def takePre (s : State) (p : Packet) : State :=
  match p.body with
  | .preempt l step done =>
    if kmem s.launches l then
      let x := getLaunch s l
      if done then setLaunch s l { x with preDone := (8 * p.src + step) :: x.preDone }
      else if step = 0 then setLaunch s l { x with preDone := (8 * p.src) :: x.preDone }
      else setLaunch s l { x with preOrder := step }
    else s
  | _ => s

/-- An order or a report of a pre-emption. -/
def isPre (p : Packet) : Bool := match p.body with | .preempt _ _ _ => true | _ => false

/-- Orders and reports that have come, taken in turn. -/
def takePres (fuel : Nat) (s : State) : State :=
  match fuel with
  | 0 => s
  | fuel + 1 =>
    match takeArrived s isPre 0 with
    | some (p, s1) => takePres fuel (takePre s1 p)
    | none => s

/-- Every other part has ended a step. -/
def othersDone (s : State) (x : Launch) (step : Nat) : Bool :=
  x.nodes.all (fun n => n == myNode s || x.preDone.contains (8 * n + step))

/-- The root orders a step of the other parts; a part that is not the root's has it ordered. -/
def orderStep (s : State) (l step : Nat) : State :=
  let x := getLaunch s l
  if x.root ≠ myNode s ∨ step ≤ x.preOrder then s
  else
    (x.nodes.filter (fun n => n != myNode s)).foldl
      (fun st n => sendPacket st none (mkPacket st 0 n 0 (.preempt l step false))) (setLaunch s l { x with preOrder := step })

/-- A step may begin here: the root's once every part has ended the step before, another's when it is ordered. -/
def stepOpen (s : State) (x : Launch) (step : Nat) : Bool :=
  if x.root = myNode s then decide (step ≤ 1) || othersDone s x (step - 1) else decide (step ≤ x.preOrder)

/-- A step has ended here: the root is told. -/
def endPre (s : State) (l step : Nat) : State :=
  let x := getLaunch s l
  if x.root = myNode s then s else sendPacket s none (mkPacket s 0 x.root 0 (.preempt l step true))

/-! ## Stop (R434, R435, R118) -/

/-- The crossing engines of a launch are at a phase-A boundary (R373, R435); one whose proposal has gone waits there, and what the root
answers waits for it. DEDUCED (log 53). -/
def creAtBoundary (s : State) (l : Nat) : Bool :=
  s.clus.all (fun c => c.2.cre.owner != some l || decide (c.2.cre.phase = .idle) || decide (c.2.cre.phase = .choose))

/-- The stop step may be taken: no core of the launch is halted, here or, as the hold notices tell, at another module (R433, R445); its
engines are at their boundary. DEDUCED (log 53). -/
def mayStop (s : State) (l : Nat) : Bool :=
  let x := getLaunch s l
  running x && x.cores.all (fun k => !(getCore s k).halted) && decide (x.halts = 0) && creAtBoundary s l

/-- A wait that lasts until its answer comes: the context is saved after it (R434). -/
def answerWait : Wait → Bool
  | .far => true | w => firmWait w

/-- The request of a context for leave withdrawn. -/
def withdrawLeave (s : State) (x : Nat) : State :=
  let c := clusOf (coreOf x)
  setClus s c { getClus s c with waits := (getClus s c).waits.filter (fun r => r.who != .ctx x) }

/-- A context stopped (R401, R434): its grant goes back, and what it had or was to have again it asks for on restore. -/
def stopCtx (s : State) (x : Nat) : State :=
  let c := getCtx s x
  if c.st = .free then s
  else
    let g := max c.leave c.reask
    let s1 := putLeave (if 0 < c.reask then withdrawLeave s x else s) x
    let s2 := if c.st = .blocked ∧ (c.wait.map answerWait).getD false = false then abandon s1 x else s1
    setCtx s2 x { getCtx s2 x with reask := g }

/-- A command of the matrix unit stopped at its tile boundary, a gang let go; a command of the others that has not begun; what each has
been granted is given back, and it keeps its phase (R435). DEDUCED (log 30). DEDUCED (log 53). -/
def stopCmd (s : State) (k : Nat) (e : Engine) (m : EngCmd) : State :=
  if (e = .mxu ∧ m.phase ≤ 2) ∨ ((e = .cpe ∨ e = .gte) ∧ m.phase ≤ 1) then
    let s1 := if e = .mxu ∧ m.phase = 2 ∧ copOf m.word = 0x11 then gangEnd s k m else s
    let s2 := dropLeave s1 k m
    let s3 := { s2 with fars := s2.fars.filter (fun f => f.who != .cmd k e m.uid) }
    setCmd s3 k e { m with grant := 0, asked := false, answers := [], farTag := none }
  else s

/-- A pitch with live bookings enters SAVING (R118). DEDUCED (log 32). -/
def savePitch (s : State) (k p : Nat) : State :=
  let x := getPitch s k p
  if x.books.isEmpty then s else setPitch s k p { x with state := 5, back := x.state, since := nowNs s }

/-- A core stopped. -/
def stopCore (s : State) (k : Nat) : State :=
  let s1 := (List.range 11).foldl (fun st i => stopCtx st (ctxNo k i)) s
  let s2 := [Engine.mxu, .cpe, .gte].foldl (fun st e => (getQ st k e).cmds.foldl (fun st2 m => stopCmd st2 k e m) st) s1
  (List.range 4).foldl (fun st p => savePitch st k p) s2

/-- PREEMPTION_STOP (R433): of a launch that a stage here wants pre-empted, or whose root has ordered it; the root is asked by a stage
of another module. -/
def preemptStop (s0 : State) (l : Nat) : State :=
  let s := takePres s0.arrived.length s0
  let x := getLaunch s l
  if kmem s.launches l = false then s
  else if x.root ≠ myNode s ∧ x.preOrder = 0 then
    (if wanted s l && !x.preDone.contains 0 then
       sendPacket (setLaunch s l { x with preDone := [0] }) none (mkPacket s 0 x.root 0 (.preempt l 0 false))
     else s)
  else if (x.root ≠ myNode s ∨ wanted s l ∨ x.preDone.any (fun d => d % 8 == 0)) ∧ mayStop s l = true then
    let s1 := orderStep s l 1
    let s2 := x.cores.foldl stopCore (setLaunch s1 l { getLaunch s1 l with pre := .stop })
    endPre s2 l 1
  else s

/-- PREEMPTION_STOP (R433). -/
def execPreemptionStop (launch : Nat) (s : State) : Host.Outcome State Fault Refusal := .next (preemptStop s launch)

/-! ## Drain (R433, R435) -/

/-- A core has nothing left that must end before its save. DEDUCED (log 30). -/
def coreDrained (s : State) (k : Nat) : Bool :=
  let c := getCore s k
  (List.range 11).all (fun i =>
    let x := getCtx s (ctxNo k i)
    !(decide (x.st = .blocked) && (x.wait.map answerWait).getD false) && x.acks.isEmpty)
    && (getQ s k .cpe).cmds.all (fun m => decide (m.phase ≤ 1)) && (getQ s k .gte).cmds.all (fun m => decide (m.phase ≤ 1))
    && (getQ s k .mxu).cmds.all (fun m => decide (m.phase ≤ 2))
    && c.lzres.isNone && c.pitch.toList.all (fun p => p.books.isEmpty)

/-- A launch is drained: its MC0 and MC2 messages are acknowledged, its cores have nothing pending (R433). -/
def drained (s : State) (l : Nat) : Bool :=
  s.sent.all (fun p => p.launch != some l || !(decide (p.pkt.cls = 0 ∨ p.pkt.cls = 2)))
    && (getLaunch s l).cores.all (coreDrained s)

/-- The tokens that a stopped store holds while it is checked are given up: it is checked again on restore (R13, R434). -/
def dropHolds (s : State) (k : Nat) : State := (List.range 11).foldl (fun st i => releaseHolds st (ctxNo k i)) s

/-- PREEMPTION_DRAIN (R433). -/
def preemptDrain (s0 : State) (l : Nat) : State :=
  let s := takePres s0.arrived.length s0
  let x := getLaunch s l
  if kmem s.launches l && decide (x.pre = .stop) && stepOpen s x 2 && x.first.isNone then
    let s1 := orderStep s l 2
    if drained s1 l then
      let s2 := x.cores.foldl dropHolds s1
      endPre (setLaunch s2 l { getLaunch s2 l with pre := .drain }) l 2
    else s1
  else s

/-- PREEMPTION_DRAIN (R433). -/
def execPreemptionDrain (launch : Nat) (s : State) : Host.Outcome State Fault Refusal := .next (preemptDrain s launch)

/-! ## Write (R129, R437) -/

/-- The lines of a core's slice that are dirty (R129). -/
def dirtyLines (s : State) (k : Nat) : List Nat :=
  (List.range 1024).filter (fun i => !s.clean.contains (lineOf (sliceKey k 0) + i))

/-- The bits of a mask that are set. -/
def ones {n : Nat} (w : BitVec n) : Nat := (List.range n).countP (fun i => w.getLsbD i)

/-- The registers of a context that its dirty bits name; the image holds no other (R437). -/
def dirtyRegs (c : Ctx) : Ctx :=
  { c with
    s := Vector.ofFn (fun i : Fin 32 => if c.sd.getLsbD i.val then c.s[i] else 0)
    v := Vector.ofFn (fun i : Fin 32 => if c.vd.getLsbD i.val then c.v[i] else 0)
    p := Vector.ofFn (fun i : Fin 8 => if c.pd.getLsbD i.val then c.p[i] else 0)
    k := Vector.ofFn (fun i : Fin 32 => if c.kd.getLsbD i.val then c.k[i] else 0) }

/-- The bytes of a context record (R437): its header, the registers that are dirty, the loop stack and the control registers. -/
def ctxBytes (c : Ctx) : Nat := 48 + 8 * ones c.sd + 64 * ones c.vd + 2 * ones c.pd + 4 * ones c.kd + 256

/-- The contexts that an image of a core holds: the live ones, and the control context, whose trap targets and coordinates a helper
takes even after it has retired (R143). -/
def imageCtxs (s : State) (k : Nat) : List (Nat × Ctx) :=
  (((List.range 11).map (fun i => (i, getCtx s (ctxNo k i)))).filter (fun p => decide (p.1 = 0 ∨ p.2.st ≠ .free))).map
    (fun p => (p.1, dirtyRegs p.2))

/-- The first byte of the DRAM kept for images that no image of a launch fills. -/
def imageTop (s : State) : Nat :=
  s.launches.foldl (fun acc l => l.2.images.foldl (fun a i => max a (i.addr + i.len)) acc) s.saveArea.1

/-- The image of a core (R437); `top` is where it goes, if it fits. Its registers, lines and masks are as R437 says; the layout of its
header and records is not stated. DESIGN CHOICE (log 52). -/
def imageOf (s : State) (k top prev : Nat) : CoreImage :=
  let lines := dirtyLines s k
  let base := sliceKey k 0
  let ctxs := imageCtxs s k
  let len := (64 + 4096 + (ctxs.map (fun p => ctxBytes p.2)).foldl (fun a b => a + b) 0 + 256 * lines.length + 63) / 64 * 64
  let room := decide (top + len ≤ s.saveArea.1 + s.saveArea.2)
  { slot := k, core := getCore s k, addr := if room then top else 0, len := if room then len else 0, prev := prev
    ctxs := ctxs, lines := lines
    bytes := (s.mem.filter (fun c => decide (base ≤ c.1 ∧ c.1 < base + 2 ^ 18) && lines.contains ((c.1 - base) / 256))).map
      (fun c => (c.1 - base, c.2)) }

/-- The bytes of an image in DRAM: those of its header and records have no stated layout, the lines follow. DESIGN CHOICE (log 52). -/
def imageCells (s : State) (i : CoreImage) : List (Nat × Byte) :=
  let head := i.len - 256 * i.lines.length
  (List.range head).map (fun j => (dramKey (i.addr + j), Config.freeByte s.nonce j))
    ++ ((List.range i.lines.length).zip i.lines).flatMap (fun p => (List.range 256).map (fun j =>
      (dramKey (i.addr + head + 256 * p.1 + j), mget s.mem (sliceKey i.slot (256 * p.2 + j)))))

/-- A core's image written (R437): it joins the launch's images, newest first, its bytes go to DRAM, the dirty bits of the lines are
cleared. -/
def writeImage (l : Nat) (s : State) (k : Nat) : State :=
  let x := getLaunch s l
  let prev := ((x.images.find? (fun i => i.slot == k)).map (fun i => i.addr)).getD 0
  let i := imageOf s k (imageTop s) prev
  let s1 := if i.len = 0 then s else putCells { s with nonce := s.nonce + 1 } (imageCells s i)
  let lines := (List.range 1024).map (fun j => lineOf (sliceKey k 0) + j)
  setLaunch { s1 with clean := lines ++ s1.clean.filter (fun n => !lines.contains n) } l { x with images := i :: x.images }

/-- The first cell of a dirty line of a core that holds an uncorrectable error. -/
def poisonedLine (s : State) (k : Nat) : Option Nat :=
  s.poison.find? (fun g => decide (sliceKey k 0 ≤ g ∧ g < sliceKey k 0 + 2 ^ 18) && !s.clean.contains (lineOf g))

/-- The banks of a launch, by octet and place. -/
def bankImages (s : State) (l : Nat) : List BankImage :=
  s.octs.flatMap (fun o => (List.range 4).filterMap (fun b =>
    let x := o.2.banks.toList.getD b {}
    if x.owner = some l then some { oct := o.1, bank := b, data := x } else none))

/-- PREEMPTION_WRITE (R433, R437): the images are written and the dirty bits cleared; an uncorrectable error met is a fault of the core's
control context, at the place in its slice. DEDUCED (log 53). -/
def preemptWrite (s0 : State) (l : Nat) : State :=
  let s := takePres s0.arrived.length s0
  let x := getLaunch s l
  if kmem s.launches l && decide (x.pre = .drain) && stepOpen s x 3 && x.first.isNone then
    match x.cores.findSome? (fun k => (poisonedLine s k).map (fun g => (k, g))) with
    | some (k, g) => raiseFault s (ctxNo k 0) (faultEcc 0) (BitVec.ofNat 64 (g - sliceKey k 0))
    | none =>
      let s1 := x.cores.foldl (writeImage l) (orderStep s l 3)
      let y := getLaunch s1 l
      endPre (setLaunch s1 l { y with
        pre := .write, banks := bankImages s1 l
        cres := (s1.clus.filter (fun c => c.2.cre.owner == some l)).map (fun c => (c.1, c.2.cre)) }) l 3
  else s

/-- PREEMPTION_WRITE (R433). -/
def execPreemptionWrite (launch : Nat) (s : State) : Host.Outcome State Fault Refusal := .next (preemptWrite s launch)

/-! ## Release (R433) -/

/-- A core given up at a release: what it held is saved, its refused messages too (R436). -/
def releaseCore (s : State) (k : Nat) : State :=
  let c := getCore s k
  let s1 := (List.range 11).foldl (fun st i => setCtx st (ctxNo k i) {}) s
  setCore s1 k { svec := c.svec, pitch := c.pitch.map (fun p => { serial := p.serial, gone := p.gone }) }

/-- PREEMPTION_RELEASE (R433): cores, banks and engines are free; the launch waits again in the queue of the die that admitted it. -/
def preemptRelease (s0 : State) (l : Nat) : State :=
  let s := takePres s0.arrived.length s0
  let x := getLaunch s l
  if kmem s.launches l && decide (x.pre = .write) && stepOpen s x 4 && x.first.isNone then
    let s1 := x.cores.foldl releaseCore (orderStep s l 4)
    let s2 := (x.banks.map (fun b => b.oct)).eraseDups.foldl (fun st o => freeOctet st l o) s1
    let s3 := x.cres.foldl (fun st c => setCre st c.1 {}) s2
    let y := getLaunch s3 l
    let s4 := setLaunch s3 l { y with
      pre := .saved, npre := y.npre + 1, ran := runTime s y, cores := [], preDone := [], preOrder := 0 }
    enqueueRec (endPre s4 l 4) x.die
      { key := l, words := x.words, image := x.image, tacc := x.tacc, seq := x.seq, root := x.root, rank := x.rank, job := x.job,
        restore := true }
  else s

/-- PREEMPTION_RELEASE (R433). -/
def execPreemptionRelease (launch : Nat) (s : State) : Host.Outcome State Fault Refusal := .next (preemptRelease s launch)

/-! ## Restore (R118, R437, R438) -/

/-- The bytes of a core's slice as its chain of images holds them: each line from the newest image that has it.
DESIGN CHOICE (log 52). -/
def chainBytes (images : List CoreImage) (k : Nat) : List (Nat × Byte) :=
  let mine := images.filter (fun i => i.slot == k)
  (List.range 1024).flatMap (fun ln =>
    match mine.find? (fun i => i.lines.contains ln) with
    | some i =>
      let bs := i.bytes.filter (fun c => decide (c.1 / 256 = ln))
      (List.range 256).map (fun j => (256 * ln + j, ((bs.find? (fun c => c.1 == 256 * ln + j)).map (·.2)).getD 0))
    | none => [])

/-- A pitch as it resumes (R118): the serials of the physical core go on. -/
def resumePitch (img now : Pitch) : Pitch :=
  { img with state := if img.state = 5 then img.back else img.state, back := 0, serial := now.serial, gone := now.gone ++ img.gone, books := [] }

/-- A restored context (R401, R434): one that held leave asks for it again before it issues. -/
def restoreCtx (s : State) (x : Nat) (c : Ctx) : State :=
  let s1 := setCtx s x c
  if c.reask = 0 then s1 else askLeave s1 (clusOf (coreOf x)) (.ctx x) c.reask

/-- A context as its images hold it (R437), the newest first: each register from the newest one that has it. -/
def chainCtx (c : Ctx) (chain : List Ctx) : Ctx :=
  { c with
    s := Vector.ofFn (fun i : Fin 32 => ((chain.find? (fun d => d.sd.getLsbD i.val)).map (fun d => d.s[i])).getD 0)
    v := Vector.ofFn (fun i : Fin 32 => ((chain.find? (fun d => d.vd.getLsbD i.val)).map (fun d => d.v[i])).getD 0)
    p := Vector.ofFn (fun i : Fin 8 => ((chain.find? (fun d => d.pd.getLsbD i.val)).map (fun d => d.p[i])).getD 0)
    k := Vector.ofFn (fun i : Fin 32 => ((chain.find? (fun d => d.kd.getLsbD i.val)).map (fun d => d.k[i])).getD 0)
    sd := 0, vd := 0, pd := 0, kd := 0 }

/-- A core restored from its images (R437, R438). -/
def restoreCore (l : Nat) (images : List CoreImage) (m : List (Nat × Nat)) (s : State) (i : CoreImage) : State :=
  let k := moved m i.slot
  let old := getCore s k
  let cmd := fun (q : EngCmd) => { q with ctx := ctxNo (moved m (coreOf q.ctx)) (idxOf q.ctx) }
  let core : Core := { i.core with
    launch := some l, svec := old.svec, refused := old.refused ++ i.core.refused, wdBase := nowNs s, halted := false, stepOf := none
    eng := i.core.eng.map (fun q => { q with cmds := q.cmds.map cmd })
    pitch := Vector.ofFn (fun p : Fin 4 => resumePitch i.core.pitch[p] old.pitch[p]) }
  let mine := images.filter (fun j => j.slot == i.slot)
  let chain := fun (n : Nat) => mine.filterMap (fun j => (j.ctxs.find? (fun q => q.1 == n)).map (fun q => q.2))
  let cells := (chainBytes images i.slot).map (fun c => (sliceKey k c.1, c.2))
  let lines := (List.range 1024).map (fun j => lineOf (sliceKey k 0) + j)
  let s1 := setCore (putCells s cells) k core
  let s2 := i.ctxs.foldl (fun st c => restoreCtx st (ctxNo k c.1) (chainCtx c.2 (chain c.1))) s1
  { s2 with clean := lines ++ s2.clean.filter (fun n => !lines.contains n) }

/-- A bank restored (R438). -/
def restoreBank (l : Nat) (m : List (Nat × Nat)) (s : State) (b : BankImage) : State :=
  let o := movedOct m b.oct
  let x := getOct s o
  setOct s o { x with banks := x.banks.setIfInBounds b.bank { b.data with owner := some l } }

/-- The unit of a barrier after the launch has moved (R258). -/
def movedUnit (m : List (Nat × Nat)) (b : Barrier) : Barrier :=
  match b.scope with
  | .core => { b with unit := moved m b.unit }
  | .oct => { b with unit := movedOct m b.unit }
  | .clus => { b with unit := ((m.find? (fun p => clusOf p.1 == b.unit)).map (fun p => clusOf p.2)).getD b.unit }
  | .die => { b with unit := ((m.find? (fun p => dieOf p.1 == b.unit)).map (fun p => dieOf p.2)).getD b.unit }
  | _ => b

/-- A launch of several modules. -/
def manyParts (x : Launch) : Bool := decide (1 < x.nodes.length)

/-- Every context of a restored launch starts (R438): helpers for the messages that its spill areas hold may start, too (R255). -/
def goOn (s : State) (l : Nat) : State :=
  let x := getLaunch s l
  let s1 := setLaunch s l { x with pre := .no, mark := nowNs s, wdBase := nowNs s, preDone := [], preOrder := 0 }
  x.cores.foldl settleSpill s1

/-- The launch brought back onto the cores found: it goes on, or waits for its other parts (R438). -/
def restoreOn (s : State) (l : Nat) (m : List (Nat × Nat)) : State :=
  let x := getLaunch s l
  let cores := (List.range 4608).filter (fun k => m.any (fun p => p.2 == k))
  let s1 := setLaunch (dropPending (flushAsids s x) l) l { x with
    cores := cores, pre := .back, preDone := x.preDone.filter (fun d => d % 8 == 5), preOrder := 0, banks := [], cres := []
    admitted := s.uid, wdBase := nowNs s, halts := 0
    images := x.images.map (fun (i : CoreImage) => { i with slot := moved m i.slot }) }
  let s2 := (newestImages x).foldl (restoreCore l x.images m) s1
  let s3 := x.banks.foldl (restoreBank l m) s2
  let s4 := x.cres.foldl (fun st c => setCre st c.1 c.2) s3
  let s5 := { s4 with uid := s4.uid + 1, bars := s4.bars.map (fun b => if b.launch = l then movedUnit m b else b) }
  if manyParts x then endPre s5 l 5 else goOn s5 l

/-- An uncorrectable error in the DRAM of an image of the launch (R431). -/
def badImage (s : State) (x : Launch) : Option Nat :=
  s.poison.find? (fun g => x.images.any (fun i => decide (i.addr ≤ g ∧ g < i.addr + i.len)))

/-- A saved launch at the head of its stage's queue, once its cores and banks are free (R438); an error in an image is a fault (R431).
DEDUCED (log 54). -/
def restoreSaved (s : State) (l : Nat) : State :=
  let x := getLaunch s l
  match headOf_ (getDie s x.die).pend with
  | some p =>
    if x.first.isNone && p.restore && decide (p.key = l) && decide (bootState s = 4) then
      match restorePlace s x with
      | some m =>
        if banksFree s x m then
          match badImage s x with
          | some g => raiseFaultL (noteDouble s g) l (faultEcc 1)
          | none =>
            restoreOn (noteRead s (s.soft.filter (fun g => x.images.any (fun i => decide (i.addr ≤ g ∧ g < i.addr + i.len))))) l m
        else s
      | none => s
    else s
  | none => s

/-- RESTORE (R438): a saved part is brought back; the parts of a launch of several modules go on together, once its root knows that all
are back. DEDUCED (log 54). -/
def restore (s0 : State) (l : Nat) : State :=
  let s := takePres s0.arrived.length s0
  let x := getLaunch s l
  if kmem s.launches l = false then s
  else if x.pre = .saved then restoreSaved s l
  else if x.pre = .back then
    (if x.root = myNode s then (if othersDone s x 5 then goOn (orderStep s l 5) l else s)
     else if x.preOrder = 5 then goOn s l else s)
  else s

/-- RESTORE (R438). -/
def execRestore (launch : Nat) (s : State) : Host.Outcome State Fault Refusal := .next (restore s launch)

end Sys2Proof.Machine
end

