-- ==== Sys2Proof/Machine/HostLink.lean ====
section
/-!
DEFINITION. The host link, boot, attestation and power (R450-R473), the patrol scrubber (R140) and the page walkers (R42-R47): the events
HOST_REGISTER_WRITE, COUNTER_CLEAR, HQEN_WRITE, HQSIZE_WRITE, HQTAIL_WRITE, HOST_QUEUE_ENTRY, MSIX_UNMASK, SPKOWN_WRITE, PCAP_WRITE,
LBUDGET_WRITE, JOB_WATCHDOG_REFRESH, ATTESTATION_REQUEST, ATTESTATION_REPORT, RECOVERY_GO, RECOVERY_VERIFY_DONE, BOOT, THERMAL_SAMPLE,
DEVICE_RESET, PATROL_SCRUB and PAGE_TABLE_WALK.
-/
namespace Sys2Proof.Machine

/-! ## Registers with a behaviour of their own (R453-R459) -/

/-- A register with the bits under a mask written (R9, R10). -/
def putMasked (s : State) (off mask : Nat) (v : Word) : State :=
  let m := BitVec.ofNat 64 mask
  setBar s off ((bar s off &&& ~~~m) ||| (v &&& m))

/-- BSTAT.QERR set (R460). -/
def setQerr (s : State) : State := setBar s 0 (bar s 0 ||| 0x80)

/-- HQEN_WRITE (R454, R460). -/
def hqenWrite (s : State) (v : Word) : State := putMasked s 0x001000 1 v
/-- HQSIZE_WRITE (R454): N from 4 to 12, else QERR. -/
def hqsizeWrite (s : State) (v : Word) : State :=
  if 4 ≤ bits v 0 4 ∧ bits v 0 4 ≤ 12 then putMasked s 0x001010 0xF v else setQerr s
/-- HQTAIL_WRITE (R460): a tail outside the ring is ignored and sets QERR. -/
def hqtailWrite (s : State) (v : Word) : State :=
  if bits v 0 12 < 2 ^ bits (bar s 0x001010) 0 4 then putMasked s 0x001018 0xFFF v else setQerr s

/-- HQEN_WRITE (R460). -/
def execHqenWrite (v : Word) (s : State) : Host.Outcome State Fault Refusal := .next (hqenWrite s v)
/-- HQSIZE_WRITE (R454). -/
def execHqsizeWrite (v : Word) (s : State) : Host.Outcome State Fault Refusal := .next (hqsizeWrite s v)
/-- HQTAIL_WRITE (R460). -/
def execHqtailWrite (v : Word) (s : State) : Host.Outcome State Fault Refusal := .next (hqtailWrite s v)

/-- SPKOWN_WRITE (R367, R456): a change of V or SLOT clears the router, and with it the steps that the old owner left. -/
def spkownWrite (s : State) (v : Word) : State :=
  let s1 := putMasked s 0x010010 0x1F v
  if bar s1 0x010010 = bar s 0x010010 then s1 else { s1 with spk := {}, steps := [] }
/-- SPKOWN_WRITE (R456). -/
def execSpkownWrite (v : Word) (s : State) : Host.Outcome State Fault Refusal := .next (spkownWrite s v)

/-- A 12-bit field clamped to a range. -/
def clamped (v : Word) (lo hi : Nat) : Word := BitVec.ofNat 64 (min hi (max lo (bits v 0 12)))
/-- PCAP_WRITE (R457). -/
def execPcapWrite (v : Word) (s : State) : Host.Outcome State Fault Refusal := .next (setBar s 0x020000 (clamped v 1600 3200))
/-- LBUDGET_WRITE (R399, R457), of one of the 96 clusters. -/
def execLbudgetWrite (clus : Nat) (v : Word) (s : State) : Host.Outcome State Fault Refusal :=
  .next (if clus < 96 then setBar s (0x020100 + 8 * clus) (clamped v 64 4095) else s)

/-- COUNTER_CLEAR (R458): the counter at an offset of the counter block, which ends with the one at 0x042048. -/
def execCounterClear (off : BitVec 16) (s : State) : Host.Outcome State Fault Refusal :=
  .next (if off.toNat < 0x2050 ∧ off.toNat % 8 = 0 then setBar s (0x040000 + off.toNat) 0 else s)

/-- JOB_WATCHDOG_REFRESH (R442, R459). -/
def execJobWatchdogRefresh (slot : BitVec 4) (s : State) : Host.Outcome State Fault Refusal := .next (refreshJob s slot.toNat)

/-- MSIX_UNMASK (R462): a pending vector is sent once unmasked. -/
def msixUnmask (s : State) (v : Nat) : State :=
  let off := 0x108000 + 8 * (v / 64)
  let s1 := setBar s (0x100008 + 16 * v) (bar s (0x100008 + 16 * v) &&& ~~~(BitVec.ofNat 64 (2 ^ 32)))
  if bits (bar s1 off) (v % 64) 1 = 1 then
    { setBar s1 off (bar s1 off &&& ~~~(BitVec.ofNat 64 (2 ^ (v % 64)))) with irqs := s1.irqs ++ [v] }
  else s1
/-- MSIX_UNMASK (R462), of one of the 2,048 vectors. -/
def execMsixUnmask (vec : Nat) (s : State) : Host.Outcome State Fault Refusal := .next (if vec < 2048 then msixUnmask s vec else s)

/-! ## Recovery and attestation commands (R467, R469) -/

/-- Bytes of host memory. -/
def hostBytes (s : State) (a n : Nat) : List Byte := (List.range n).map (fun i => mget s.mem (hostKey ((a + i) % 2 ^ 64)))

/-- RECOVERY_GO (R467): in RECOVERY, with no verification running, the image is read. DEDUCED (log 57). -/
def recoveryGo (s : State) : State :=
  if bootState s ≠ 5 ∨ s.recov.isSome = true then countUp s 0x042048 1
  else
    let n := bits (bar s 0x000018) 0 32
    let img := hostBytes s (bar s 0x000010).toNat (min n (513 + 2 ^ 25))
    { putMasked s 0x000008 1 1 with recov := some img }
/-- RECOVERY_GO (R467). -/
def execRecoveryGo (s : State) : Host.Outcome State Fault Refusal := .next (recoveryGo s)

/-- ATTESTATION_REQUEST (R469): one made while another is pending is ignored. -/
def attestRequest (s : State) : State := putMasked s 0x002000 1 1
/-- ATTESTATION_REQUEST (R469). -/
def execAttestationRequest (s : State) : Host.Outcome State Fault Refusal := .next (attestRequest s)

/-- Registers from one offset to another, 8 bytes each. -/
def regWords (s : State) (off n : Nat) : List Word := (List.range n).map (fun i => bar s (off + 8 * i))
/-- Bytes of words. -/
def wordBytes (l : List Word) : List Byte := l.flatMap (fun w => bytesOfNat 8 w.toNat)

/-- M2 (R469): the measurement of what firmware applies: node id, registered ASIDs, HWBASE, PCAP, the leave budgets. DEDUCED (log 58). -/
def measureConfig (s : State) : BitVec 384 :=
  Config.sha384 (wordBytes (bar s 0x010008 :: regWords s 0x010100 256 ++ [bar s 0x010000, bar s 0x020000] ++ regWords s 0x020100 96))

/-- The report of R469 before its signature. DEDUCED (log 58). -/
def reportBody (s : State) : List Byte :=
  bytesOfNat 8 Config.serialNumber.toNat ++ bytesOfNat 1 (bits (bar s 0) 24 8) ++ List.replicate 7 0
    ++ bytesOfNat 48 Config.romMeasurement.toNat ++ bytesOfNat 48 s.measured.toNat ++ bytesOfNat 48 (measureConfig s).toNat
    ++ wordBytes (regWords s 0x002020 4)

/-- ATTESTATION_REPORT (R469): the signed report is written, DONE set and REQ cleared. DEDUCED (log 58). -/
def attestReport (s : State) : State :=
  if bits (bar s 0x002000) 0 1 = 0 then s
  else
    let body := reportBody s
    let bytes := body ++ bytesOfNat 96 (Config.identitySign s.nonce (Config.sha384 body)).toNat
    let s1 := (List.range 36).foldl (fun st i =>
      setBar st (0x002200 + 8 * i) (BitVec.ofNat 64 (natOfBytes ((bytes.drop (8 * i)).take 8)))) { s with nonce := s.nonce + 1 }
    setBar s1 0x002000 2
/-- ATTESTATION_REPORT (R469). -/
def execAttestationReport (s : State) : Host.Outcome State Fault Refusal := .next (attestReport s)

/-! ## Reads of BAR0 (R451, R459) -/

/-- A register of BAR0 as it reads: of a core's debug register, whether every live context of the core is HALTED (R459); another as it
stands. -/
def regRead (s : State) (off : Nat) : Word :=
  if 0x080000 ≤ off ∧ off < 0x080000 + 8 * 4608 then
    let k := (off - 0x080000) / 8
    BitVec.ofNat 64 (4 * b2n ((getCore s k).halted && (List.range 11).all (fun i =>
      decide ((getCtx s (ctxNo k i)).st = .free ∨ (getCtx s (ctxNo k i)).st = .halted))))
  else bar s off

/-! ## Writes to BAR0 (R451) -/

/-- The writable bits of a register with no behaviour of its own that the host, or firmware, writes; `none` for another register. -/
def plainMask (off : Nat) (host : Bool) : Option Nat :=
  if host then
    if off = 0x001008 then some (2 ^ 64 - 2 ^ 12)
    else if 0x002020 ≤ off ∧ off < 0x002040 then some (2 ^ 64 - 1)
    else if 0x100000 ≤ off ∧ off < 0x108000 then (if off % 16 = 0 then some (2 ^ 64 - 4) else some (2 ^ 33 - 1))
    else none
  else
    if off = 0x010008 then some 0xFFF
    else if 0x010100 ≤ off ∧ off < 0x010900 then some (2 ^ 63 + 0xF000000000000 + 0xFFF)
    else if off = 0x090000 ∨ off = 0x090008 then some 0xFFFFFFFF
    else if 0x090100 ≤ off ∧ off < 0x090180 then some 0xFFFFFFFF
    else none

/-- A register that firmware writes (R451). -/
def firmwareReg (off : Nat) : Bool :=
  decide (off = 0x010000 ∨ off = 0x010008 ∨ off = 0x010010 ∨ (0x010100 ≤ off ∧ off < 0x010900) ∨ off = 0x020000
    ∨ (0x020100 ≤ off ∧ off < 0x020400) ∨ off = 0x090000 ∨ off = 0x090008 ∨ (0x090100 ≤ off ∧ off < 0x090180))

/-- A job's watchdog begins when firmware registers its first ASID here (R442, R456). DEDUCED (log 60). -/
def noteJob (old s : State) (off : Nat) : State :=
  let w := bar s off
  let j := bits w 48 4
  let known := (List.range 256).any (fun i =>
    let v := bar old (0x010100 + 8 * i)
    decide (bits v 63 1 = 1 ∧ bits v 48 4 = j))
  if 0x010100 ≤ off ∧ off < 0x010900 ∧ bits w 63 1 = 1 ∧ known = false then refreshJob s j else s

/-- A host write to a register that acts on it; `none` for a register with no behaviour of its own. DESIGN CHOICE (log 61). -/
def hostAct (s : State) (off : Nat) (v : Word) : Option State :=
  if off = 0x000000 then some (if bits v 7 1 = 1 then setBar s 0 (bar s 0 &&& ~~~(0x80 : Word)) else s)
  else if off = 0x000008 then
    some (if bootState s ≠ 5 ∨ s.recov.isSome = true then countUp s 0x042048 1
      else
        let s1 := putMasked s off 2 v
        if bits v 0 1 = 1 then recoveryGo s1 else s1)
  else if off = 0x000010 ∨ off = 0x000018 then
    some (if bootState s ≠ 5 ∨ s.recov.isSome = true then countUp s 0x042048 1
      else putMasked s off (if off = 0x000010 then 2 ^ 64 - 2 ^ 12 else 0xFFFFFFFF) v)
  else if off = 0x001000 then some (hqenWrite s v)
  else if off = 0x001010 then some (hqsizeWrite s v)
  else if off = 0x001018 then some (hqtailWrite s v)
  else if off = 0x002000 then
    some (let s1 := if bits v 1 1 = 1 then putMasked s off 2 0 else s
          if bits v 0 1 = 1 then attestRequest s1 else s1)
  else if 0x040000 ≤ off ∧ off < 0x042050 then some (setBar s off 0)
  else if 0x080000 ≤ off ∧ off < 0x080000 + 8 * 4608 then
    some (let k := (off - 0x080000) / 8
          let s1 := if bits v 0 1 = 1 then debugHalt s k else s
          if bits v 1 1 = 1 then debugResume s1 k else s1)
  else if 0x091000 ≤ off ∧ off < 0x091080 then some (refreshJob s ((off - 0x091000) / 8))
  else if 0x100000 ≤ off ∧ off < 0x108000 ∧ off % 16 = 8 ∧ bits v 32 1 = 0 then
    some (msixUnmask (putMasked s off 0xFFFFFFFF v) ((off - 0x100000) / 16))
  else none

/-- HWBASE written (R452, R456): while a launch is on the module a later access may still use the base before. -/
def hwbaseWrite (s : State) (v : Word) : State :=
  { setBar s 0x010000 v with hwOld := if s.launches.isEmpty then none else some (bar s 0x010000) }

/-- A firmware write to a register that acts on it. DESIGN CHOICE (log 61). -/
def firmwareAct (s : State) (off : Nat) (v : Word) : Option State :=
  if off = 0x010000 then some (hwbaseWrite s v)
  else if off = 0x010010 then some (spkownWrite s v)
  else if off = 0x020000 then some (setBar s off (clamped v 1600 3200))
  else if 0x020100 ≤ off ∧ off < 0x020400 then some (setBar s off (clamped v 64 4095))
  else none

/-- A write whose bytes are the whole register (R453): a half goes with the other half as it reads. -/
def wholeWord (s : State) (off bytes : Nat) (v : Word) : Word :=
  if bytes = 8 then v
  else
    let old := bar s (off / 8 * 8)
    if off % 8 = 4 then BitVec.ofNat 64 (old.toNat % 2 ^ 32 + v.toNat % 2 ^ 32 * 2 ^ 32)
    else BitVec.ofNat 64 (old.toNat / 2 ^ 32 * 2 ^ 32 + v.toNat % 2 ^ 32)

/-- Bits that act when written one: the half that is not written leaves them zero. -/
def actWord (s : State) (off bytes : Nat) (v : Word) : Word :=
  let w := wholeWord s off bytes v
  if bytes = 4 ∧ off % 8 = 4 ∧ (off / 8 * 8 = 0 ∨ off / 8 * 8 = 0x002000) then BitVec.ofNat 64 (w.toNat / 2 ^ 32 * 2 ^ 32) else w

/-- HOST_REGISTER_WRITE (R451): a malformed request of the host, and its write to a register that firmware writes, are counted and do
nothing more; a write to a reserved or read-only offset is ignored. DESIGN CHOICE (log 61). -/
def registerWrite (s : State) (off bytes : Nat) (host : Bool) (v : Word) : State :=
  if (bytes ≠ 4 ∧ bytes ≠ 8) ∨ off % bytes ≠ 0 then (if host then countUp s 0x042048 1 else s)
  else
    let r := off / 8 * 8
    let w := actWord s off bytes v
    if host ∧ firmwareReg r = true then countUp s 0x042048 1
    else
      match (if host then hostAct s r w else firmwareAct s r w) with
      | some s1 => s1
      | none =>
        match plainMask r host with
        | some m => noteJob s (putMasked s r m w) r
        | none => s

/-- HOST_REGISTER_WRITE (R451). -/
def execHostRegisterWrite (off : BitVec 24) (bytes : Nat) (host : Bool) (v : Word) (s : State) : Host.Outcome State Fault Refusal :=
  .next (registerWrite s off.toNat bytes host v)

/-! ## The host launch queue (R460, R461) -/

/-- The record of a host-queue entry whose handler image each core is yet to read (R384): its entry is reported when they have. -/
def imagePending (l : Launch) : Bool := decide (recHtab l ≠ 0) && !htabFar l

/-- HOST_QUEUE_ENTRY (R461): an accepted record waits for room in D0's queue; one whose image is in a window is reported, and the next
entry taken, when its cores have read it. DEDUCED (log 51). DEDUCED (log 57). -/
def hostQueueEntry (s : State) : State :=
  let head := (bar s 0x001020).toNat
  if bootState s ≠ 4 ∨ bits (bar s 0x001000) 0 1 = 0 ∨ head = bits (bar s 0x001018) 0 12
      ∨ (getDie s 0).pend.any (fun p => p.host.isSome) = true then s
  else
    let addr := (bar s 0x001008).toNat + 64 * head
    let raddr := natOfBytes (hostBytes s addr 8)
    let ws := (List.range 32).map (fun i => BitVec.ofNat 64 (natOfBytes (hostBytes s (raddr + 8 * i) 8)))
    let l : Launch := { words := ws }
    let reason := recReason s l 0 none
    if reason ≠ 0 then reportEntry (countUp s 0x042010 1) (some addr) reason
    else if 256 ≤ (getDie s 0).pend.length then s
    else if imagePending l then enqueueRec s 0 { newPending s l with host := some addr }
    else finishEntry (enqueueRec s 0 (newPending s l)) addr [1]

/-- HOST_QUEUE_ENTRY (R461). -/
def execHostQueueEntry (s : State) : Host.Outcome State Fault Refusal := .next (hostQueueEntry s)

/-! ## Firmware images and boot (R463-R467, R473) -/

/-- A number in bytes of an image, the first the least significant. -/
def imgNat (img : List Byte) (off n : Nat) : Nat := natOfBytes ((img.drop off).take n)

/-- The bytes of MAGIC. -/
def magic : List Byte := [0x4D, 0x5A, 0x46, 0x4A, 0x34, 0x38, 0x46, 0x57]

/-- The checks of R466: 0, or the code of ERR. DESIGN CHOICE (log 3). -/
def verifyImage (s : State) (img : List Byte) : Nat :=
  let len := imgNat img 8 4
  let body := (img.drop 512).take len
  let h := Config.sha384 (img.take 256 ++ body)
  if img.take 8 ≠ magic ∨ ((img.drop 0x00D).take 243).any (fun b => b != 0) = true ∨ ((img.drop 0x190).take 112).any (fun b => b != 0) = true
  then 1
  else if 2 ^ 25 < len ∨ img.length < 512 + len then 2
  else if h ≠ BitVec.ofNat 384 (imgNat img 0x100 48) then 3
  else if Config.rootVerify h (BitVec.ofNat 384 (imgNat img 0x130 48)) (BitVec.ofNat 384 (imgNat img 0x160 48)) = false then 4
  else if imgNat img 0xC 1 < bits (bar s 0) 24 8 then 5
  else 0

/-- BSTAT.ERR written (R463). -/
def setErr (s : State) (code : Nat) : State := putMasked s 0 0xFF0000 (BitVec.ofNat 64 (code * 2 ^ 16))

/-- The image runs as firmware: its DIGEST is M1 (R469). -/
def loadImage (s : State) (img : List Byte) : State :=
  { setBootState s 3 with measured := BitVec.ofNat 384 (imgNat img 0x100 48) }

/-- Memory prepared before READY (R473): slices, local DRAM and banks are zero, with valid check bits. -/
def memoryInit (s : State) : State :=
  { s with mem := s.mem.filter (fun c => decide (2 ^ 40 ≤ c.1)), poison := [], soft := []
           octs := s.octs.map (fun o => (o.1, { o.2 with banks := Vector.replicate 4 {} })) }

/-- Firmware starts the module (R464, R473): memory is prepared, ports that a link joins come up, the state is READY. -/
def startFirmware (s : State) : State :=
  let s1 := memoryInit s
  let up := (List.range 8).filter (fun i => (portPeer s1 i).isSome)
  setBootState (up.foldl (fun st i => setPort st i { up := true, ackAt := nowNs st, credit := freshCredit }) s1) 4

/-- BOOT (R463, R464): one stage of it. From RESET the ROM runs; it reads the flash image, verifies it, and goes to LOAD or, with ERR, to
RECOVERY; loaded firmware starts the module. DESIGN CHOICE (log 3). -/
def boot (s : State) : State :=
  match bootState s with
  | 0 => setBootState s 1
  | 1 => setBootState s 2
  | 2 =>
    (match verifyImage s s.flash with
     | 0 => loadImage s s.flash
     | e => setBootState (setErr s e) 5)
  | 3 => startFirmware s
  | _ => s

/-- BOOT (R464). -/
def execBoot (s : State) : Host.Outcome State Fault Refusal := .next (boot s)

/-- RECOVERY_VERIFY_DONE (R467). DEDUCED (log 59). -/
def recoveryDone (s : State) : State :=
  match s.recov with
  | none => s
  | some img =>
    let s1 := { putMasked s 0x000008 1 0 with recov := none }
    let e := verifyImage s img
    match (if e = 1 ∨ img.length = 512 + imgNat img 8 4 then e else 2) with
    | 0 => if bits (bar s 0x000008) 1 1 = 1 then { loadImage s1 img with flash := img } else loadImage s1 img
    | e => setErr s1 e

/-- RECOVERY_VERIFY_DONE (R467). -/
def execRecoveryVerifyDone (s : State) : Host.Outcome State Fault Refusal := .next (recoveryDone s)

/-- DEVICE_RESET (R10, R463, R472): every register takes its reset value, but those that R10 has keep their content across reset: the die
temperatures (R457). Memory keeps its bytes until firmware prepares it, and host memory, the flash image, the job's extents and what has
been sent are not the device's registers. DEDUCED (log 55). -/
def deviceReset (s : State) : State :=
  { State.reset with
    turn := s.turn, agenda := s.agenda, nonce := s.nonce, flip := s.flip, uid := s.uid, mem := s.mem, poison := s.poison, soft := s.soft
    regs := s.regs.filter (fun r => decide (0x020800 ≤ r.1 ∧ r.1 < 0x020880))
    dims := s.dims, flash := s.flash, irqs := s.irqs, outbox := s.outbox }

/-- DEVICE_RESET (R472). -/
def execDeviceReset (s : State) : Host.Outcome State Fault Refusal := .next (deviceReset s)

/-! ## Power (R470-R472) -/

/-- A thermal trip (R472): every core and engine stops, the ports go down, nothing is reported; only a reset leaves HALTED.
DEDUCED (log 55). -/
def thermalTrip (s : State) : State :=
  setBootState { s with
    ctxs := [], launches := [], bars := [], arrived := [], sent := [], fars := [], xfers := [], grems := [], steps := [], tlb := [], walks := []
    cores := s.cores.map (fun p => (p.1, { svec := p.2.svec }))
    octs := s.octs.map (fun p => (p.1, { mxwt := p.2.mxwt })), clus := []
    dies := s.dies.map (fun p => (p.1, { row := p.2.row }))
    ports := Vector.replicate 8 {} } 6

/-- A temperature, signed in 1/16 °C. -/
def hottest (t : Vector (BitVec 16) 16) (die : Nat) : Int :=
  ((t.toList.drop (4 * die)).take 4).foldl (fun acc x => max acc x.toInt) (-32768)

/-- The row of R471 by temperature alone. -/
def rowOf (t : Int) : Nat := if t < 1520 then 0 else if t < 1680 then 1 else 2
/-- The threshold of a row. -/
def rowTemp (r : Nat) : Int := if r = 1 then 1520 else 1680

/-- The row of a die after a sample (R471): up at once, down one row after 10 ms that stay 5 °C below its threshold, and from
there after another 10 ms. DEDUCED (log 55). -/
def dieRow (now : Nat) (d : Die) (t : Int) : Die :=
  if d.row ≤ rowOf t then { d with row := rowOf t, cool := none }
  else if rowTemp d.row - 80 < t then { d with cool := none }
  else
    match d.cool with
    | none => { d with cool := some now }
    | some c => if c + 10000000 ≤ now then { d with row := d.row - 1, cool := some now } else d

/-- THERMAL_SAMPLE (R470-R472). -/
def thermalSample (s : State) (t : Vector (BitVec 16) 16) : State :=
  if bootState s ≠ 4 then s
  else
    let s1 := (List.range 16).foldl (fun st i => setBar st (0x020800 + 8 * i) ((t.toList.getD i 0).setWidth 64)) s
    if (List.range 4).any (fun d => decide (1840 ≤ hottest t d)) then thermalTrip s1
    else
      (List.range 4).foldl (fun st d =>
        let y := dieRow (nowNs s) (getDie st d) (hottest t d)
        setBar (setDie st d y) (0x020900 + 8 * d) (BitVec.ofNat 64 y.row)) s1

/-- THERMAL_SAMPLE (R471). -/
def execThermalSample (t : Vector (BitVec 16) 16) (s : State) : Host.Outcome State Fault Refusal := .next (thermalSample s t)

/-! ## Patrol scrubbing and page walks (R42, R46, R140) -/

/-- What the scrubber finds in a granule: the error that it holds, else one that has just appeared. -/
def scrubFind (s : State) (b : Nat) (f : EccFind) : EccFind :=
  if s.poison.contains b then .double else if s.soft.contains b ∧ f ≠ .double then .single else f

/-- PATROL_SCRUB (R140): a granule of a slice is read. DESIGN CHOICE (log 21). -/
def patrolScrub (s : State) (k g : Nat) (f : EccFind) : State :=
  let b := sliceKey k (8 * g)
  let s1 := { s with soft := s.soft.filter (fun x => x != b) }
  match scrubFind s b f with
  | .clean => s
  | .single => countUp s1 (eccCounter b false) 1
  | .double =>
    let s2 := countUp s1 (eccCounter b true) 1
    if s2.poison.contains b then s2 else { s2 with poison := b :: s2.poison }

/-- PATROL_SCRUB (R140). -/
def execPatrolScrub (core granule : Nat) (found : EccFind) (s : State) : Host.Outcome State Fault Refusal :=
  .next (patrolScrub s core granule found)

/-- The kind of a cache, as its index function takes it. -/
def tlbKind : Tlb → Nat
  | .inst _ => 0 | .data _ => 1 | .cpe _ => 2 | .clus _ => 3

/-- The sets and the ways of a cache (R45): one set where it is fully associative. -/
def tlbSets : Tlb → Nat
  | .inst _ => 1 | .data _ => 1 | .cpe _ => 32 | .clus _ => 512
def tlbWays : Tlb → Nat
  | .inst _ => 32 | .data _ => 64 | .cpe _ => 8 | .clus _ => 8

/-- Two entries compete for one place: of one cache and one set; in a cluster's cache of one page size (R45). -/
def competes (e f : TlbEntry) : Bool :=
  let set := fun (x : TlbEntry) => Config.cacheSet (tlbKind x.tlb) (x.va / x.size) % tlbSets x.tlb
  f.tlb == e.tlb && set f == set e && (match e.tlb with | .clus _ => f.size == e.size | _ => true)

/-- A list without its `n`-th element of those that meet a test, where they fill the ways. -/
def evict {α : Type} [DecidableEq α] (l : List α) (p : α → Bool) (ways n : Nat) : List α :=
  let full := l.filter p
  if full.length < ways then l
  else
    match full[n % full.length]? with
    | some v => l.filter (fun x => x != v)
    | none => l

/-- A translation enters a cache (R45): in a full set another gives up its place, the spec does not say which. DESIGN CHOICE (log 72). -/
def fillTlb (s : State) (e : TlbEntry) : State :=
  if s.tlb.any (fun f => f.tlb == e.tlb && f.asid == e.asid && f.va == e.va) then s
  else { s with nonce := s.nonce + 1, tlb := e :: evict s.tlb (competes e) (tlbWays e.tlb) (Config.victim s.nonce) }

/-- A table pointer enters the walk cache of a die (R45): 1,024 of them in sets of 8. DESIGN CHOICE (log 72). -/
def fillWalk (s : State) (e : WalkEntry) : State :=
  let set := fun (x : WalkEntry) => Config.cacheSet 4 (x.hi * 4 + x.lvl) % 128
  if s.walks.any (fun f => f.die == e.die && f.asid == e.asid && f.lvl == e.lvl && f.hi == e.hi) then s
  else
    { s with
      nonce := s.nonce + 1
      walks := e :: evict s.walks (fun f => f.die == e.die && set f == set e) 8 (Config.victim s.nonce) }

/-- The caches that a walk for a context's core fills (R45): its cluster's, and that of the unit that missed. DESIGN CHOICE (log 72). -/
def walkFills (s : State) (k : Nat) : List Tlb :=
  let n := Config.walkUnit s.nonce % 4
  .clus (clusOf k) :: (if n = 0 then [.inst k] else if n = 1 then [.data k] else if n = 2 then [.cpe (octOf k)] else [])

/-- PAGE_TABLE_WALK (R42, R45, R46, R49): the translation of an address of a context's launch enters the caches, and the table pointers of
the walk the walk cache of the die; a walk that ends in no page raises nothing. -/
def pageTableWalk (s : State) (x : Nat) (va : Word) : State :=
  let k := coreOf x
  let root := (launchRec s k).ptroot
  let asid := bits root 0 12
  let v := va.toNat
  if (launchOf s k).isNone ∨ v < 2 ^ 40 ∨ 2 ^ 47 ≤ v then s
  else
    let tables := walkTables s [0, 1, 2, 3] (bits root 12 44 * 2 ^ 12) v
    match walkBy s { core := k, priv := true, kind := .load } root v with
    | .page p =>
      let s1 := noteRead s (tables.map (fun t => entryKey t.2 t.1 v))
      let s2 := (tables.filter (fun t => t.1 != 0)).foldl (fun st t =>
        fillWalk st { die := dieOf k, asid := asid, lvl := t.1, hi := v / 2 ^ (48 - 9 * t.1), table := t.2 }) s1
      (walkFills s k).foldl (fun st t =>
        fillTlb st { tlb := t, asid := asid, va := v / p.size * p.size, size := p.size, pa := p.pa, ent := p.ent }) s2
    | .fault => s
    | .ecc _ => s

/-- PAGE_TABLE_WALK (R42). -/
def execPageTableWalk (x : Nat) (va : Word) (s : State) : Host.Outcome State Fault Refusal := .next (pageTableWalk s x va)

end Sys2Proof.Machine
end

