-- ==== Sys2Proof/Machine/Inputs.lean ====
section
/-!
DEFINITION. What reaches the module from outside and has no row of its own in the opcode table (log 73): soft errors (R29, R139, R299,
R432), reads by the host (R451), a debugger's writes (R443), and what firmware sets up for a job (R66, R69, R437).
-/
namespace Sys2Proof.Machine

/-! ## Soft errors (R29, R139, R299, R432) -/

/-- An error appears in a unit of memory: in one bit, or in two; a second one in one unit cannot be corrected. -/
def memError (s : State) (cell : Nat) (double : Bool) : State :=
  let b := eccBase cell
  if 2 ^ 40 ≤ cell ∨ s.poison.contains b = true then s
  else if double || s.soft.contains b then { s with poison := b :: s.poison, soft := s.soft.filter (fun x => x != b) }
  else { s with soft := b :: s.soft }

/-- An error appears in a pair of accumulator elements (R299). -/
def accError (s : State) (o bank pair : Nat) (double : Bool) : State :=
  let x := getOct s o
  let b := x.banks.toList.getD bank {}
  let again := b.errs.any (fun e => e.1 == pair)
  setOct s o { x with banks := x.banks.setIfInBounds bank { b with errs := (pair, double || again) :: b.errs.filter (fun e => e.1 != pair) } }

/-- An error found in the state of a context or an engine of a core (R432): one bit is corrected and counted with the cluster's soft errors;
two are counted, and raise the fault for the context `x`, whose state it is or whose command it is. DESIGN CHOICE (log 21). -/
def foundError (s : State) (x sub : Nat) (double : Bool) : State :=
  let s1 := countUp s (0x040000 + 16 * clusOf (coreOf x) + (if double then 8 else 0)) 1
  if double then raiseFault s1 x (faultEcc sub) 0 else s1

/-- The context whose ENQ issued the first command of an engine's queue (R428); the control context of its core where it has none. -/
def engineCtx (s : State) (k : Nat) (e : Engine) : Nat :=
  match (getQ s k e).cmds with
  | m :: _ => m.ctx
  | [] => ctxNo k 0

/-- An error in the event heap of a crossing engine (R432), in the launch that has bound its model. -/
def heapError (s : State) (c : Nat) (double : Bool) : State :=
  let x := getCre s c
  let k := if x.owner.isSome then x.core else 48 * c
  foundError s (engineCtx s k .cre) 4 double

/-- A soft error at its place. -/
def softErrorAt (s : State) (site : EccSite) (double : Bool) : State :=
  match site with
  | .mem cell => memError s cell double
  | .acc o bank pair => accError s o bank pair double
  | .ctx x => foundError s x 3 double
  | .engine k e => foundError s (engineCtx s k e) 4 double
  | .heap c => heapError s c double

/-! ## The host and the debugger (R443, R451) -/

/-- A read of BAR0 by the host (R451): one that is not naturally aligned, of 4 or 8 bytes, is an Unsupported Request and is counted; another
changes nothing. -/
def hostReadAt (s : State) (off len : Nat) : State :=
  if (len ≠ 4 ∧ len ≠ 8) ∨ off % len ≠ 0 then countUp s 0x042048 1 else s

/-- A register of a context written by name. -/
def writeReg (c : Ctx) (r : RegName) (w : Vec) : Ctx :=
  match r with
  | .s r => swrite c r (w.setWidth 64)
  | .v r => vput c r w
  | .p r => pwrite c r (w.setWidth 16)
  | .k r => kwrite c r (w.setWidth 32)
  | .pc => { c with pc := w.setWidth 64 }

/-- A debugger writes a register of a context of a halted core (R443). -/
def debugWrite (s : State) (x : Nat) (r : RegName) (w : Vec) : State :=
  if (getCore s (coreOf x)).halted && decide ((getCtx s x).st = .halted) then setCtx s x (writeReg (getCtx s x) r w) else s

/-- A debugger writes a byte of the slice of a halted core (R443). -/
def debugPoke (s : State) (k off : Nat) (b : Byte) : State :=
  if (getCore s k).halted && decide (off < 2 ^ 18) then putCells s [(sliceKey k off, b)] else s

/-! ## What firmware sets up (R66, R69, R437) -/

/-- A region of tracked memory is declared (R66, R69): aligned, and over no other. -/
def declareRegion (s : State) (base home back homeBack : Nat) : State :=
  if base % 2 ^ 21 ≠ 0 ∨ s.regions.any (fun r => r.base == base) = true then s
  else { s with regions := s.regions ++ [newRegion (myNode s) base home back homeBack] }

/-- The local DRAM that save images go to (R437): while no image lies in what was kept before. -/
def reserveSave (s : State) (base size : Nat) : State :=
  if 2 ^ 39 < base + size ∨ s.launches.any (fun l => l.2.images.any (fun i => i.len != 0)) = true then s else { s with saveArea := (base, size) }

/-- An input (log 73). -/
def takeInput (e : Input) (s : State) : State :=
  match e with
  | .softError site double => softErrorAt s site double
  | .hostRead off len => hostReadAt s off len
  | .debugReg x r w => debugWrite s x r w
  | .debugByte k off b => debugPoke s k off b
  | .declare base home back homeBack => declareRegion s base home back homeBack
  | .reserve base size => reserveSave s base size

end Sys2Proof.Machine
end

