-- ==== Sys2Proof/Machine/Dispatch.lean ====
section
/-!
DEFINITION. The dispatcher: one arm per constructor of Instr, each one call of that instruction's meaning.
-/
namespace Sys2Proof.Machine

def exec (i : Instr) (s : State) : Host.Outcome State Fault Refusal :=
  match i with
  | .nop => Sys2Proof.Machine.execNop s
  | .brk c => Sys2Proof.Machine.execBrk c s
  | .sys c => Sys2Proof.Machine.execSys c s
  | .rett => Sys2Proof.Machine.execRett s
  | .fence o s_ => Sys2Proof.Machine.execFence o s_ s
  | .csrr d n => Sys2Proof.Machine.execCsrr d n s
  | .csrw d a n => Sys2Proof.Machine.execCsrw d a n s
  | .csrs d a n => Sys2Proof.Machine.execCsrs d a n s
  | .csrc d a n => Sys2Proof.Machine.execCsrc d a n s
  | .sleepu d a => Sys2Proof.Machine.execSleepu d a s
  | .prio d n => Sys2Proof.Machine.execPrio d n s
  | .lexit l => Sys2Proof.Machine.execLexit l s
  | .yield => Sys2Proof.Machine.execYield s
  | .add d a b w => Sys2Proof.Machine.execAdd d a b w s
  | .sub d a b w => Sys2Proof.Machine.execSub d a b w s
  | .mul d a b w => Sys2Proof.Machine.execMul d a b w s
  | .mulh d a b w => Sys2Proof.Machine.execMulh d a b w s
  | .mulhu d a b w => Sys2Proof.Machine.execMulhu d a b w s
  | .div d a b w => Sys2Proof.Machine.execDiv d a b w s
  | .divu d a b w => Sys2Proof.Machine.execDivu d a b w s
  | .rem d a b w => Sys2Proof.Machine.execRem d a b w s
  | .remu d a b w => Sys2Proof.Machine.execRemu d a b w s
  | .and d a b w => Sys2Proof.Machine.execAnd d a b w s
  | .or d a b w => Sys2Proof.Machine.execOr d a b w s
  | .xor d a b w => Sys2Proof.Machine.execXor d a b w s
  | .andn d a b w => Sys2Proof.Machine.execAndn d a b w s
  | .shl d a b w => Sys2Proof.Machine.execShl d a b w s
  | .shr d a b w => Sys2Proof.Machine.execShr d a b w s
  | .sra d a b w => Sys2Proof.Machine.execSra d a b w s
  | .rotr d a b w => Sys2Proof.Machine.execRotr d a b w s
  | .min d a b w => Sys2Proof.Machine.execMin d a b w s
  | .max d a b w => Sys2Proof.Machine.execMax d a b w s
  | .minu d a b w => Sys2Proof.Machine.execMinu d a b w s
  | .maxu d a b w => Sys2Proof.Machine.execMaxu d a b w s
  | .slt d a b w => Sys2Proof.Machine.execSlt d a b w s
  | .sltu d a b w => Sys2Proof.Machine.execSltu d a b w s
  | .seq d a b w => Sys2Proof.Machine.execSeq d a b w s
  | .clz d a w => Sys2Proof.Machine.execClz d a w s
  | .ctz d a w => Sys2Proof.Machine.execCtz d a w s
  | .popc d a w => Sys2Proof.Machine.execPopc d a w s
  | .brev d a w => Sys2Proof.Machine.execBrev d a w s
  | .bswap d a w => Sys2Proof.Machine.execBswap d a w s
  | .ext d a b x l => Sys2Proof.Machine.execExt d a b x l s
  | .sel d a b i_ p => Sys2Proof.Machine.execSel d a b i_ p s
  | .movpToScalar d p => Sys2Proof.Machine.execMovpToScalar d p s
  | .movpToPredicate p a => Sys2Proof.Machine.execMovpToPredicate p a s
  | .fadd d a b r f => Sys2Proof.Machine.execFadd d a b r f s
  | .fsub d a b r f => Sys2Proof.Machine.execFsub d a b r f s
  | .fmul d a b r f => Sys2Proof.Machine.execFmul d a b r f s
  | .ffma d a b r f => Sys2Proof.Machine.execFfma d a b r f s
  | .fdiv d a b r f => Sys2Proof.Machine.execFdiv d a b r f s
  | .fsqrt d a r f => Sys2Proof.Machine.execFsqrt d a r f s
  | .fmin d a b f => Sys2Proof.Machine.execFmin d a b f s
  | .fmax d a b f => Sys2Proof.Machine.execFmax d a b f s
  | .feq d a b f => Sys2Proof.Machine.execFeq d a b f s
  | .flt d a b f => Sys2Proof.Machine.execFlt d a b f s
  | .fle d a b f => Sys2Proof.Machine.execFle d a b f s
  | .fcvtfi d a t r f => Sys2Proof.Machine.execFcvtfi d a t r f s
  | .fcvtif d a t r f => Sys2Proof.Machine.execFcvtif d a t r f s
  | .fcvtff d a src r f => Sys2Proof.Machine.execFcvtff d a src r f s
  | .fclass d a f => Sys2Proof.Machine.execFclass d a f s
  | .addi d a i_ => Sys2Proof.Machine.execAddi d a i_ s
  | .andi d a i_ => Sys2Proof.Machine.execAndi d a i_ s
  | .ori d a i_ => Sys2Proof.Machine.execOri d a i_ s
  | .xori d a i_ => Sys2Proof.Machine.execXori d a i_ s
  | .shli d a n => Sys2Proof.Machine.execShli d a n s
  | .shri d a n => Sys2Proof.Machine.execShri d a n s
  | .srai d a n => Sys2Proof.Machine.execSrai d a n s
  | .slti d a i_ => Sys2Proof.Machine.execSlti d a i_ s
  | .sltui d a i_ => Sys2Proof.Machine.execSltui d a i_ s
  | .lui d v => Sys2Proof.Machine.execLui d v s
  | .liw d w => Sys2Proof.Machine.execLiw d w s
  | .lid d lo hi => Sys2Proof.Machine.execLid d lo hi s
  | .addiw d a i_ => Sys2Proof.Machine.execAddiw d a i_ s
  | .beq a b o => Sys2Proof.Machine.execBeq a b o s
  | .bne a b o => Sys2Proof.Machine.execBne a b o s
  | .blt a b o => Sys2Proof.Machine.execBlt a b o s
  | .bge a b o => Sys2Proof.Machine.execBge a b o s
  | .bltu a b o => Sys2Proof.Machine.execBltu a b o s
  | .bgeu a b o => Sys2Proof.Machine.execBgeu a b o s
  | .bbs a b o => Sys2Proof.Machine.execBbs a b o s
  | .bbc a b o => Sys2Proof.Machine.execBbc a b o s
  | .bp a b o => Sys2Proof.Machine.execBp a b o s
  | .bnp a b o => Sys2Proof.Machine.execBnp a b o s
  | .jal d o => Sys2Proof.Machine.execJal d o s
  | .jalr d a i_ => Sys2Proof.Machine.execJalr d a i_ s
  | .loop a e => Sys2Proof.Machine.execLoop a e s
  | .loopi c e => Sys2Proof.Machine.execLoopi c e s
  | .ldb d a i_ => Sys2Proof.Machine.execLdb d a i_ s
  | .ldbu d a i_ => Sys2Proof.Machine.execLdbu d a i_ s
  | .ldh d a i_ => Sys2Proof.Machine.execLdh d a i_ s
  | .ldhu d a i_ => Sys2Proof.Machine.execLdhu d a i_ s
  | .ldw d a i_ => Sys2Proof.Machine.execLdw d a i_ s
  | .ldwu d a i_ => Sys2Proof.Machine.execLdwu d a i_ s
  | .ldd d a i_ => Sys2Proof.Machine.execLdd d a i_ s
  | .stb d a i_ => Sys2Proof.Machine.execStb d a i_ s
  | .sth d a i_ => Sys2Proof.Machine.execSth d a i_ s
  | .stw d a i_ => Sys2Proof.Machine.execStw d a i_ s
  | .std d a i_ => Sys2Proof.Machine.execStd d a i_ s
  | .ldaq d a s_ z => Sys2Proof.Machine.execLdaq d a s_ z s
  | .strl d a s_ z => Sys2Proof.Machine.execStrl d a s_ z s
  | .amo d a v o z s_ => Sys2Proof.Machine.execAmo d a v o z s_ s
  | .cas d a n z s_ => Sys2Proof.Machine.execCas d a n z s_ s
  | .vadd d a b p x => Sys2Proof.Machine.execVadd d a b p x s
  | .vsub d a b p x => Sys2Proof.Machine.execVsub d a b p x s
  | .vmul d a b p x => Sys2Proof.Machine.execVmul d a b p x s
  | .vfma d a b p x => Sys2Proof.Machine.execVfma d a b p x s
  | .vfms d a b p x => Sys2Proof.Machine.execVfms d a b p x s
  | .vfnma d a b p x => Sys2Proof.Machine.execVfnma d a b p x s
  | .vmin d a b p => Sys2Proof.Machine.execVmin d a b p s
  | .vmax d a b p => Sys2Proof.Machine.execVmax d a b p s
  | .vabs d a p => Sys2Proof.Machine.execVabs d a p s
  | .vneg d a p => Sys2Proof.Machine.execVneg d a p s
  | .vmulh d a b p => Sys2Proof.Machine.execVmulh d a b p s
  | .vand d a b p => Sys2Proof.Machine.execVand d a b p s
  | .vor d a b p => Sys2Proof.Machine.execVor d a b p s
  | .vxor d a b p => Sys2Proof.Machine.execVxor d a b p s
  | .vshl d a b p => Sys2Proof.Machine.execVshl d a b p s
  | .vshr d a b p => Sys2Proof.Machine.execVshr d a b p s
  | .vsra d a b p => Sys2Proof.Machine.execVsra d a b p s
  | .vcmpeq d a b p => Sys2Proof.Machine.execVcmpeq d a b p s
  | .vcmplt d a b p => Sys2Proof.Machine.execVcmplt d a b p s
  | .vcmple d a b p => Sys2Proof.Machine.execVcmple d a b p s
  | .vsel d a b p => Sys2Proof.Machine.execVsel d a b p s
  | .vcvt d a sc t n p x => Sys2Proof.Machine.execVcvt d a sc t n p x s
  | .vrsum d a p x => Sys2Proof.Machine.execVrsum d a p x s
  | .vrmax d a p => Sys2Proof.Machine.execVrmax d a p s
  | .vrmin d a p => Sys2Proof.Machine.execVrmin d a p s
  | .vperm d a b p => Sys2Proof.Machine.execVperm d a b p s
  | .vbcast d a b p => Sys2Proof.Machine.execVbcast d a b p s
  | .vslide d a b p => Sys2Proof.Machine.execVslide d a b p s
  | .vcmprs d a p => Sys2Proof.Machine.execVcmprs d a p s
  | .vexpnd d a p => Sys2Proof.Machine.execVexpnd d a p s
  | .vnz d a p => Sys2Proof.Machine.execVnz d a p s
  | .vpopc d a p => Sys2Proof.Machine.execVpopc d a p s
  | .vxchg d a => Sys2Proof.Machine.execVxchg d a s
  | .vdot4 d a b p x => Sys2Proof.Machine.execVdot4 d a b p x s
  | .vmovsIns d a b => Sys2Proof.Machine.execVmovsIns d a b s
  | .vmovsExt d a b => Sys2Proof.Machine.execVmovsExt d a b s
  | .vrcp d a p x => Sys2Proof.Machine.execVrcp d a p x s
  | .vrsq d a p x => Sys2Proof.Machine.execVrsq d a p x s
  | .vexp2 d a p x => Sys2Proof.Machine.execVexp2 d a p x s
  | .vlog2 d a p x => Sys2Proof.Machine.execVlog2 d a p x s
  | .vsin d a p x => Sys2Proof.Machine.execVsin d a p x s
  | .vcos d a p x => Sys2Proof.Machine.execVcos d a p x s
  | .vtanh d a p x => Sys2Proof.Machine.execVtanh d a p x s
  | .vsqrt d a p x => Sys2Proof.Machine.execVsqrt d a p x s
  | .vdiv d a b p x => Sys2Proof.Machine.execVdiv d a b p x s
  | .vclass d a p => Sys2Proof.Machine.execVclass d a p s
  | .vvsel d a b p => Sys2Proof.Machine.execVvsel d a b p s
  | .vvcmp d a b p => Sys2Proof.Machine.execVvcmp d a b p s
  | .pand d a b => Sys2Proof.Machine.execPand d a b s
  | .por d a b => Sys2Proof.Machine.execPor d a b s
  | .pxor d a b => Sys2Proof.Machine.execPxor d a b s
  | .pnot d a => Sys2Proof.Machine.execPnot d a s
  | .psetn d a => Sys2Proof.Machine.execPsetn d a s
  | .vfaddi d i_ => Sys2Proof.Machine.execVfaddi d i_ s
  | .vfmuli d i_ => Sys2Proof.Machine.execVfmuli d i_ s
  | .vfmini d i_ => Sys2Proof.Machine.execVfmini d i_ s
  | .vfmaxi d i_ => Sys2Proof.Machine.execVfmaxi d i_ s
  | .vmovi d i_ => Sys2Proof.Machine.execVmovi d i_ s
  | .vfrsubi d i_ => Sys2Proof.Machine.execVfrsubi d i_ s
  | .vld d a b p => Sys2Proof.Machine.execVld d a b p s
  | .vst d a b p => Sys2Proof.Machine.execVst d a b p s
  | .vlds d a b p => Sys2Proof.Machine.execVlds d a b p s
  | .vsts d a b p => Sys2Proof.Machine.execVsts d a b p s
  | .vgath d a b p => Sys2Proof.Machine.execVgath d a b p s
  | .vscat d a b p => Sys2Proof.Machine.execVscat d a b p s
  | .vldbc d a b p => Sys2Proof.Machine.execVldbc d a b p s
  | .strm d a b wr g => Sys2Proof.Machine.execStrm d a b wr g s
  | .unbnd d => Sys2Proof.Machine.execUnbnd d s
  | .qbind d e => Sys2Proof.Machine.execQbind d e s
  | .qmark d a => Sys2Proof.Machine.execQmark d a s
  | .qstat d => Sys2Proof.Machine.execQstat d s
  | .vldk d a n => Sys2Proof.Machine.execVldk d a n s
  | .send d a b r nb c => Sys2Proof.Machine.execSend d a b r nb c s
  | .sendk d a b r nb c => Sys2Proof.Machine.execSendk d a b r nb c s
  | .start d a b nb => Sys2Proof.Machine.execStart d a b nb s
  | .retire => Sys2Proof.Machine.execRetire s
  | .bar d a b s_ => Sys2Proof.Machine.execBar d a b s_ s
  | .barw d a b s_ => Sys2Proof.Machine.execBarw d a b s_ s
  | .waitx d a b prom => Sys2Proof.Machine.execWaitx d a b prom s
  | .inbox d nb => Sys2Proof.Machine.execInbox d nb s
  | .lzdef d a b p => Sys2Proof.Machine.execLzdef d a b p s
  | .lzres d a b nb => Sys2Proof.Machine.execLzres d a b nb s
  | .lzwait d a b nb p => Sys2Proof.Machine.execLzwait d a b nb p s
  | .lzrelRearm d p => Sys2Proof.Machine.execLzrelRearm d p s
  | .lzrelUndef d p => Sys2Proof.Machine.execLzrelUndef d p s
  | .lzrelBk d a => Sys2Proof.Machine.execLzrelBk d a s
  | .tkacq d a nb => Sys2Proof.Machine.execTkacq d a nb s
  | .tkdup d a nb => Sys2Proof.Machine.execTkdup d a nb s
  | .tkrel d a nb => Sys2Proof.Machine.execTkrel d a nb s
  | .tksplit d a nb => Sys2Proof.Machine.execTksplit d a nb s
  | .tkmerge d a nb => Sys2Proof.Machine.execTkmerge d a nb s
  | .tkqry d a => Sys2Proof.Machine.execTkqry d a s
  | .leaveGet d a => Sys2Proof.Machine.execLeaveGet d a s
  | .leavePut d => Sys2Proof.Machine.execLeavePut d s
  | .enq d a e => Sys2Proof.Machine.execEnq d a e s
  | .epoll d a e => Sys2Proof.Machine.execEpoll d a e s
  | .ecancel d a e => Sys2Proof.Machine.execEcancel d a e s
  | .srel d a b => Sys2Proof.Machine.execSrel d a b s
  | .swait d a b => Sys2Proof.Machine.execSwait d a b s
  | .qslope d a b => Sys2Proof.Machine.execQslope d a b s
  | .depdecDec d a b => Sys2Proof.Machine.execDepdecDec d a b s
  | .depdecArm d a b => Sys2Proof.Machine.execDepdecArm d a b s
  | .illegalWord w sub => Sys2Proof.Machine.execIllegalWord w sub s
  | .deferredTrapEntry x => Sys2Proof.Machine.execDeferredTrapEntry x s
  | .missedPromise x => Sys2Proof.Machine.execMissedPromise x s
  | .sleepuWake x => Sys2Proof.Machine.execSleepuWake x s
  | .streamReadahead x g => Sys2Proof.Machine.execStreamReadahead x g s
  | .queueEntryLand core high => Sys2Proof.Machine.execQueueEntryLand core high s
  | .sfuServiceStart oct => Sys2Proof.Machine.execSfuServiceStart oct s
  | .sfuResult oct => Sys2Proof.Machine.execSfuResult oct s
  | .vxchgComplete oct => Sys2Proof.Machine.execVxchgComplete oct s
  | .activeMessageArrival n => Sys2Proof.Machine.execActiveMessageArrival n s
  | .pageTableWalk x va => Sys2Proof.Machine.execPageTableWalk x va s
  | .patrolScrub core granule found => Sys2Proof.Machine.execPatrolScrub core granule found s
  | .flitReceive port flit => Sys2Proof.Machine.execFlitReceive port flit s
  | .replayLimit port => Sys2Proof.Machine.execReplayLimit port s
  | .fecLockLossTimeout port => Sys2Proof.Machine.execFecLockLossTimeout port s
  | .ackCreditTimeout port => Sys2Proof.Machine.execAckCreditTimeout port s
  | .portRetrain port => Sys2Proof.Machine.execPortRetrain port s
  | .packetArrival pkt => Sys2Proof.Machine.execPacketArrival pkt s
  | .resendTimeout n => Sys2Proof.Machine.execResendTimeout n s
  | .deliveryTimeout n => Sys2Proof.Machine.execDeliveryTimeout n s
  | .linkDownNotice n => Sys2Proof.Machine.execLinkDownNotice n s
  | .mc1LossTimeout n => Sys2Proof.Machine.execMc1LossTimeout n s
  | .arrivalNotice n => Sys2Proof.Machine.execArrivalNotice n s
  | .completionNotice n => Sys2Proof.Machine.execCompletionNotice n s
  | .peerRequest n => Sys2Proof.Machine.execPeerRequest n s
  | .peerAnswer n => Sys2Proof.Machine.execPeerAnswer n s
  | .peerStoreAck n => Sys2Proof.Machine.execPeerStoreAck n s
  | .tokenRequest n => Sys2Proof.Machine.execTokenRequest n s
  | .tokenRevoke n => Sys2Proof.Machine.execTokenRevoke n s
  | .tokenRevokeAck n => Sys2Proof.Machine.execTokenRevokeAck n s
  | .tokenGrant n => Sys2Proof.Machine.execTokenGrant n s
  | .tokenAnswer n => Sys2Proof.Machine.execTokenAnswer n s
  | .noneStateAccess n => Sys2Proof.Machine.execNoneStateAccess n s
  | .commandDecode core e => Sys2Proof.Machine.execCommandDecode core e s
  | .commandCompletion core e => Sys2Proof.Machine.execCommandCompletion core e s
  | .heldMessageDeposit core => Sys2Proof.Machine.execHeldMessageDeposit core s
  | .xsend core => Sys2Proof.Machine.execXsend core s
  | .xloop core => Sys2Proof.Machine.execXloop core s
  | .xloopChunkStart core => Sys2Proof.Machine.execXloopChunkStart core s
  | .xfill core => Sys2Proof.Machine.execXfill core s
  | .gath core => Sys2Proof.Machine.execGath core s
  | .grem core => Sys2Proof.Machine.execGrem core s
  | .gremRemoteGather n => Sys2Proof.Machine.execGremRemoteGather n s
  | .gpage core => Sys2Proof.Machine.execGpage core s
  | .scat core => Sys2Proof.Machine.execScat core s
  | .bookingRequest n => Sys2Proof.Machine.execBookingRequest n s
  | .bookingAnswer n => Sys2Proof.Machine.execBookingAnswer n s
  | .pegArrival n => Sys2Proof.Machine.execPegArrival n s
  | .bookingLost core p serial => Sys2Proof.Machine.execBookingLost core p serial s
  | .pitchSaveTimeout core p => Sys2Proof.Machine.execPitchSaveTimeout core p s
  | .leaveGrant clus => Sys2Proof.Machine.execLeaveGrant clus s
  | .mma core => Sys2Proof.Machine.execMma core s
  | .mmaq core => Sys2Proof.Machine.execMmaq core s
  | .mdist core => Sys2Proof.Machine.execMdist core s
  | .mtopk core => Sys2Proof.Machine.execMtopk core s
  | .mverd core => Sys2Proof.Machine.execMverd core s
  | .mzero core => Sys2Proof.Machine.execMzero core s
  | .mldacc core => Sys2Proof.Machine.execMldacc core s
  | .mstacc core => Sys2Proof.Machine.execMstacc core s
  | .mxuTile oct => Sys2Proof.Machine.execMxuTile oct s
  | .gangStart clus => Sys2Proof.Machine.execGangStart clus s
  | .qgraph core => Sys2Proof.Machine.execQgraph core s
  | .qvar core => Sys2Proof.Machine.execQvar core s
  | .qrun core => Sys2Proof.Machine.execQrun core s
  | .qstop core => Sys2Proof.Machine.execQstop core s
  | .qsample core => Sys2Proof.Machine.execQsample core s
  | .qstorm core => Sys2Proof.Machine.execQstorm core s
  | .spktab core => Sys2Proof.Machine.execSpktab core s
  | .spkstep core => Sys2Proof.Machine.execSpkstep core s
  | .phaseAChoose clus => Sys2Proof.Machine.execPhaseAChoose clus s
  | .rootBroadcast clus => Sys2Proof.Machine.execRootBroadcast clus s
  | .phaseBFire clus => Sys2Proof.Machine.execPhaseBFire clus s
  | .eventDelivery n => Sys2Proof.Machine.execEventDelivery n s
  | .phaseCRespond clus => Sys2Proof.Machine.execPhaseCRespond clus s
  | .slopeReport n => Sys2Proof.Machine.execSlopeReport n s
  | .sampleTake clus => Sys2Proof.Machine.execSampleTake clus s
  | .spikeRoute n => Sys2Proof.Machine.execSpikeRoute n s
  | .stepBarrierComplete n => Sys2Proof.Machine.execStepBarrierComplete n s
  | .launchRecordArrival die => Sys2Proof.Machine.execLaunchRecordArrival die s
  | .launchAdmit die => Sys2Proof.Machine.execLaunchAdmit die s
  | .dependenceDecrement n => Sys2Proof.Machine.execDependenceDecrement n s
  | .corePartEnd core => Sys2Proof.Machine.execCorePartEnd core s
  | .launchCompletion launch => Sys2Proof.Machine.execLaunchCompletion launch s
  | .preemptionStop launch => Sys2Proof.Machine.execPreemptionStop launch s
  | .preemptionDrain launch => Sys2Proof.Machine.execPreemptionDrain launch s
  | .preemptionWrite launch => Sys2Proof.Machine.execPreemptionWrite launch s
  | .preemptionRelease launch => Sys2Proof.Machine.execPreemptionRelease launch s
  | .restore launch => Sys2Proof.Machine.execRestore launch s
  | .launchFault launch => Sys2Proof.Machine.execLaunchFault launch s
  | .faultNotice n => Sys2Proof.Machine.execFaultNotice n s
  | .launchWatchdog launch => Sys2Proof.Machine.execLaunchWatchdog launch s
  | .progressWatchdog x => Sys2Proof.Machine.execProgressWatchdog x s
  | .jobWatchdog slot => Sys2Proof.Machine.execJobWatchdog slot s
  | .debugHalt core => Sys2Proof.Machine.execDebugHalt core s
  | .debugResume core => Sys2Proof.Machine.execDebugResume core s
  | .debugHoldNotice n => Sys2Proof.Machine.execDebugHoldNotice n s
  | .hostRegisterWrite off bytes host v => Sys2Proof.Machine.execHostRegisterWrite off bytes host v s
  | .counterClear off => Sys2Proof.Machine.execCounterClear off s
  | .hqenWrite v => Sys2Proof.Machine.execHqenWrite v s
  | .hqsizeWrite v => Sys2Proof.Machine.execHqsizeWrite v s
  | .hqtailWrite v => Sys2Proof.Machine.execHqtailWrite v s
  | .hostQueueEntry => Sys2Proof.Machine.execHostQueueEntry s
  | .msixUnmask vec => Sys2Proof.Machine.execMsixUnmask vec s
  | .spkownWrite v => Sys2Proof.Machine.execSpkownWrite v s
  | .pcapWrite v => Sys2Proof.Machine.execPcapWrite v s
  | .lbudgetWrite clus v => Sys2Proof.Machine.execLbudgetWrite clus v s
  | .jobWatchdogRefresh slot => Sys2Proof.Machine.execJobWatchdogRefresh slot s
  | .attestationRequest => Sys2Proof.Machine.execAttestationRequest s
  | .attestationReport => Sys2Proof.Machine.execAttestationReport s
  | .recoveryGo => Sys2Proof.Machine.execRecoveryGo s
  | .recoveryVerifyDone => Sys2Proof.Machine.execRecoveryVerifyDone s
  | .boot => Sys2Proof.Machine.execBoot s
  | .thermalSample t => Sys2Proof.Machine.execThermalSample t s
  | .deviceReset => Sys2Proof.Machine.execDeviceReset s
  | .fecBlockLockLoss port => Sys2Proof.Machine.execFecBlockLockLoss port s
  | .fecBlockLockRegain port => Sys2Proof.Machine.execFecBlockLockRegain port s
  | .qslopeAnswer n => Sys2Proof.Machine.execQslopeAnswer n s
  | .dependenceTableAnswer n => Sys2Proof.Machine.execDependenceTableAnswer n s
  | .debugStep core ctx => Sys2Proof.Machine.execDebugStep core ctx s

end Sys2Proof.Machine
end

