-- ==== Sys2Proof/Machine/Sched.lean ====
section
/-!
DEFINITION. What the machine does next when its agenda is empty (R396, R397, log 4): the contexts that are able to issue and the choice
among them, the events that may be due, and how an issue is noted.
-/
namespace Sys2Proof.Machine

/-! ## Who is able to issue (R141, R396) -/

/-- What a BLOCKED context waits for has come (R92): its instruction is executed again. The other waits end by an event.
DEDUCED (log 69). -/
def waitMet (s : State) (x : Nat) (w : Wait) : Bool :=
  let c := getCtx s x
  let k := coreOf x
  match w with
  | .acks => c.acks.isEmpty
  | .stream g => (match c.gens[g.toNat]? with
    | some (some y) => !y.ahead.isEmpty
    | _ => true)
  | .qEmpty high => (match queueOf s (k, high) with
    | e :: _ => e.landed
    | [] => false)
  | .qFull core high => decide ((queueOf s (core, high)).length < 8)
  | .markerT => !c.t
  | .qbind e => !endTaken { s with turn := x } e
  | .start => (freeHelper s k).isSome && c.acks.isEmpty
  | .send target cls => !backPressed s (target / 2 ^ 16) (target % 2 ^ 16) cls
  | .barw sc id target => (match launchOf s k with
    | some l => genReached (getBarrier s l sc (unitOf k sc) id).gen target
    | none => true)
  | .waitx id => decide (id.toNat ≤ (getCore s k).xwm)
  | .prom id _ _ => decide (id.toNat ≤ (getCore s k).xwm)
  | .inbox => (getCore s k).spill.any (fun e => e.compl)
  | .lzwait p gen => decide (gen.toNat < (getPitch s k p.toNat).gen.toNat)
  | .swait id chunk => (swaitDone s k id chunk).isSome
  | .enq e => !queueFull s k e
  | .lzresBusy => (getCore s k).lzres.isNone
  | .sfuFull => decide ((getOct s (octOf k)).sfuq.length < 16)
  | .vxBusy => !(getOct s (octOf k)).vx.any (fun r => coreOf r.ctx == k)
  | _ => false

/-- The context is READY, or what it waits for has come, and it has the leave it asked for again (R396, R401). -/
def ready (s : State) (x : Nat) : Bool :=
  let c := getCtx s x
  decide (c.reask = 0) && (decide (c.st = .ready) || (decide (c.st = .blocked) && (c.wait.map (waitMet s x)).getD false))

/-- A context executes on a core whose launch runs and that is not halted, in a module that is READY. -/
def mayRun (s : State) (x : Nat) : Bool :=
  ready s x && launchRuns s (coreOf x) && !(getCore s (coreOf x)).halted && decide (bootState s = 4)

/-- The issue of a context: it executes next (R397). -/
def issueOf (s : State) (x : Nat) : State :=
  setCtx { s with turn := x } x { getCtx s x with st := .ready, age := 0 }

/-- The debugger steps the context (R443). -/
def stepped (s : State) (x : Nat) : Bool :=
  (getCore s (coreOf x)).stepOf == some (idxOf x) && decide ((getCtx s x).st = .ready)

/-- The context may be executed: it runs, or the debugger steps it. -/
def mayIssue (s : State) (x : Nat) : Bool := mayRun s x || stepped s x

/-- The deferred trap that is taken in place of the next issue (R172, R426). -/
def dueTrap (s : State) (x : Nat) : Option Instr :=
  if (getCtx s x).held.isEmpty || (getCtx s x).t then none else some (.deferredTrapEntry x)

/-- A wait of an instruction that has not issued (R150, R151, R284): an operand or a place for its result is not there. -/
def stallWait : Wait → Bool
  | .stream _ => true | .qEmpty _ => true | .qFull _ _ => true | .markerT => true | .sfuFull => true | .vxBusy => true | _ => false

/-- What a context waits for after an outcome, if it is blocked. -/
def waitAfter (o : Host.Outcome State Fault Refusal) (x : Nat) : Option Wait :=
  match o with
  | .next t => if (getCtx t x).st = .blocked then (getCtx t x).wait else none
  | _ => none

/-- The next instruction of a context stalls before it issues (R150, R396): its operands, or its words, are not there. Executing it only
blocks the context. -/
def stalled (s : State) (x : Nat) : Bool :=
  (dueTrap s x).isNone &&
    (match fetch (issueOf s x) with
     | .words w l1 l2 s1 => ((waitAfter (exec (instrOf w l1 l2) s1) x).map stallWait).getD false
     | .ends (.wait _ _) => true
     | .ends _ => false)

/-- A context is able to issue in its slot (R396). -/
def able (s : State) (x : Nat) : Bool := mayRun s x && !stalled s x

/-- After a stepped instruction the context halts again (R443). -/
def afterIssue (x : Nat) (s : State) : State :=
  if (getCore s (coreOf x)).stepOf == some (idxOf x) then
    let s1 := setCore s (coreOf x) { getCore s (coreOf x) with stepOf := none }
    if (getCtx s1 x).st = .free then s1 else setCtx s1 x { getCtx s1 x with st := .halted }
  else s

/-! ## The issue rule (R229, R396, R397) -/

/-- The slot of a context's next instruction (R396): 0 the scalar slot, 1 the vector-and-engine slot. -/
def slotOf (s : State) (x : Nat) : Nat :=
  match fetch (issueOf s x) with
  | .words w _ _ _ => if 8 ≤ w.toNat / 2 ^ 28 then 1 else 0
  | .ends _ => 0

/-- The place of a slot and a priority among the last issuers of a core. -/
def lastIx (slot : Nat) (prio : BitVec 2) : Nat := 4 * slot + prio.toNat

/-- A context is ahead of another in a slot of its core (R396, R397): by an age of 64 or more, the oldest first; by priority; in
ascending index after the last issuer at that priority. DEDUCED (log 67). -/
def ahead (s : State) (slot x y : Nat) : Bool :=
  let a := getCtx s x
  let b := getCtx s y
  let last := (getCore s (coreOf x)).lastIss.toList.getD (lastIx slot a.prio) 10
  let turnOf := fun (z : Nat) => (idxOf z + 11 - (last + 1) % 11) % 11
  if 64 ≤ a.age ∨ 64 ≤ b.age then decide (b.age < a.age ∨ (a.age = b.age ∧ x < y))
  else if a.prio ≠ b.prio then decide (b.prio.toNat < a.prio.toNat)
  else decide (turnOf x < turnOf y)

/-- The first of some contexts of a core for a slot. -/
def winner (s : State) (slot : Nat) (l : List Nat) : Option Nat :=
  l.foldl (fun acc x => match acc with | none => some x | some y => if ahead s slot x y then some x else some y) none

/-- The context that a slot of a core takes (R396): one that has yielded only when no other is able (R229). DEDUCED (log 63).
DEDUCED (log 67). -/
def slotPick (s : State) (slot : Nat) (l : List Nat) : Option Nat :=
  match winner s slot (l.filter (fun x => decide ((getCtx s x).yieldTo ≤ s.cycle))) with
  | some x => some x
  | none => winner s slot l

/-- The end of a core's cycle, where the next issue is in a slot already used (R397): the age of a context that was able and did not issue
grows by one, that of another is zero. DEDUCED (log 67). -/
def closeCycle (s : State) (k slot : Nat) : State :=
  let c := getCore s k
  if c.slots.contains slot then
    let age := fun (p : Nat × Ctx) =>
      if coreOf p.1 = k then (p.1, { p.2 with age := if able s p.1 && !c.issued.contains p.1 then p.2.age + 1 else 0 }) else p
    setCore { s with ctxs := s.ctxs.map age } k { c with slots := [], issued := [] }
  else s

/-- The contexts of a core that are able in a slot. -/
def ableIn (s : State) (k slot : Nat) : List Nat :=
  ((s.ctxs.map (fun p => p.1)).filter (fun x => coreOf x == k && able s x)).filter (fun x => slotOf s x == slot)

/-- The contexts that the slots of a core take (R396): in the cycle that runs, a slot and a context not yet used in it; else in the next.
DEDUCED (log 67). -/
def corePicks (s : State) (k : Nat) : List Nat :=
  let c := getCore s k
  let now := ([0, 1].filter (fun sl => !c.slots.contains sl)).filterMap (fun sl =>
    slotPick s sl ((ableIn s k sl).filter (fun x => !c.issued.contains x)))
  if now.isEmpty then
    [0, 1].filterMap (fun sl => slotPick (closeCycle s k (c.slots.headD sl)) sl (ableIn s k sl))
  else now

/-- The contexts that the slots of the cores take. -/
def picks (s : State) : List Nat :=
  (((s.ctxs.map (fun p => p.1)).filter (mayRun s)).map coreOf).eraseDups.flatMap (corePicks s)

/-- The READY contexts whose next instruction stalls: each becomes BLOCKED at it (R141, R150). -/
def stalls (s : State) : List Nat :=
  (s.ctxs.map (fun p => p.1)).filter (fun x => mayRun s x && decide ((getCtx s x).st = .ready) && stalled s x)

/-- The least of some numbers. -/
def least (l : List Nat) : Option Nat := l.foldl (fun acc x => match acc with | none => some x | some y => some (min x y)) none

/-- The context that executes next: one that stalls, else an issue, in which the cores and their slots take turns. DESIGN CHOICE (log 4).
DEDUCED (log 67). -/
def nextIssue (s : State) : Option Nat :=
  let l := picks s
  match stalls s with
  | x :: _ => some x
  | [] =>
    match least (l.filter (fun x => decide (s.turn < x))) with
    | some x => some x
    | none => least l

/-- An issue noted (R396, R397): the cycle it falls in, the last issuer of its slot and priority, the first instruction of its launch
(R394, R440). A stall is no issue. DEDUCED (log 67). -/
def noteIssue (s : State) (x : Nat) : State :=
  if stalled s x then s
  else
    let k := coreOf x
    let sl := slotOf s x
    let c0 := getCore s k
    let s0 := closeCycle s k (if c0.issued.contains x then c0.slots.headD sl else sl)
    let c := getCore s0 k
    let s1 := setCore s0 k { c with
      lastIss := c.lastIss.setIfInBounds (lastIx sl (getCtx s x).prio) (idxOf x), slots := sl :: c.slots, issued := x :: c.issued }
    match c.launch with
    | some l =>
      let y := getLaunch s1 l
      if y.began then s1 else setLaunch s1 l { y with began := true, tstart := nowNs s, mark := nowNs s }
    | none => s1

/-! ## Events that may be due (log 4) -/

/-- An event: the meaning of one of the event rows with its operands. -/
abbrev Event : Type := State → Host.Outcome State Fault Refusal

/-- The events of a context that the machine itself makes. -/
def ctxEvents (x : Nat) : List Event :=
  [execDeferredTrapEntry x, execMissedPromise x, execSleepuWake x, execStreamReadahead x 0, execStreamReadahead x 1, execStreamReadahead x 2,
   execStreamReadahead x 3, execProgressWatchdog x]

/-- Those of a core. -/
def coreEvents (s : State) (k : Nat) : List Event :=
  [execQueueEntryLand k false, execQueueEntryLand k true, execHeldMessageDeposit k,
   execCommandCompletion k .mxu, execCommandCompletion k .cpe, execCommandCompletion k .gte, execCommandCompletion k .cre,
   execCommandDecode k .mxu, execCommandDecode k .cpe, execCommandDecode k .gte, execCommandDecode k .cre,
   execXsend k, execXfill k, execXloop k, execXloopChunkStart k, execGath k, execScat k, execGpage k, execGrem k, execMmaq k,
   execQgraph k, execQvar k, execQrun k, execQstop k, execQsample k, execQstorm k, execSpktab k, execSpkstep k, execCorePartEnd k,
   execPitchSaveTimeout k 0, execPitchSaveTimeout k 1, execPitchSaveTimeout k 2, execPitchSaveTimeout k 3]
  ++ (List.range 4).flatMap (fun p => (getPitch s k p).books.map (fun b => execBookingLost k (BitVec.ofNat 2 p) b.serial))

/-- Those of an octet and of a cluster. -/
def octEvents (o : Nat) : List Event := [execSfuServiceStart o, execSfuResult o, execVxchgComplete o, execMxuTile o]
def clusEvents (c : Nat) : List Event :=
  [execLeaveGrant c, execGangStart c, execPhaseAChoose c, execRootBroadcast c, execPhaseBFire c, execPhaseCRespond c, execSampleTake c]

/-- Those of packets and of what has been sent: the first of each kind. -/
def packetEvents : List Event :=
  [execActiveMessageArrival 0, execPeerRequest 0, execPeerAnswer 0, execPeerStoreAck 0, execTokenRequest 0, execTokenRevoke 0, execTokenRevokeAck 0,
   execTokenGrant 0, execTokenAnswer 0, execNoneStateAccess 0, execBookingRequest 0, execBookingAnswer 0, execPegArrival 0, execGremRemoteGather 0,
   execArrivalNotice 0, execCompletionNotice 0, execEventDelivery 0, execSlopeReport 0, execQslopeAnswer 0, execSpikeRoute 0, execStepBarrierComplete 0,
   execDependenceDecrement 0, execDependenceTableAnswer 0, execFaultNotice 0, execDebugHoldNotice 0, execLinkDownNotice 0, execMc1LossTimeout 0,
   execResendTimeout 0, execDeliveryTimeout 0]

/-- Those of a launch and of a die. -/
def launchEvents (l : Nat) : List Event :=
  [execLaunchFault l, execLaunchWatchdog l, execLaunchCompletion l, execPreemptionDrain l, execPreemptionWrite l, execPreemptionRelease l,
   execPreemptionStop l, execRestore l]
def dieEvents (d : Nat) : List Event := [execLaunchRecordArrival d, execLaunchAdmit d]

/-- Those of the module as a whole. -/
def moduleEvents : List Event :=
  (List.range 8).flatMap (fun i => [execReplayLimit i, execFecLockLossTimeout i, execAckCreditTimeout i])
    ++ (List.range 16).map (fun j => execJobWatchdog (BitVec.ofNat 4 j)) ++ [execHostQueueEntry, execAttestationReport, execRecoveryVerifyDone]

/-- Every event that the machine itself may make now. DESIGN CHOICE (log 4). -/
def candidates (s : State) : List Event :=
  packetEvents ++ (s.ctxs.filter (fun p => decide (p.2.st ≠ .free))).flatMap (fun p => ctxEvents p.1)
    ++ s.cores.flatMap (fun p => coreEvents s p.1) ++ (s.cores.map (fun p => octOf p.1)).eraseDups.flatMap octEvents
    ++ (s.cores.map (fun p => clusOf p.1)).eraseDups.flatMap clusEvents
    ++ s.launches.flatMap (fun p => launchEvents p.1) ++ (List.range 4).flatMap dieEvents ++ moduleEvents

/-- The outcome of an event goes on and differs from the state it came from. -/
def changes (e : Event) (s : State) : Bool :=
  match e s with
  | .next t => decide (t ≠ s)
  | _ => false

/-- What the machine does of its own accord: an event that is due, or the issue of a context. -/
inductive Choice where
  | event (e : Event)
  | issue (x : Nat)

/-- What comes next when the agenda is empty: events and issues alternate while there are both. DESIGN CHOICE (log 4). -/
def choose (s : State) : Option Choice :=
  match (if bootState s = 6 then none else (candidates s).find? (fun e => changes e s)), nextIssue s with
  | some e, some x => if s.flip then some (.event e) else some (.issue x)
  | some e, none => some (.event e)
  | none, some x => some (.issue x)
  | none, none => none

/-! ## Placing one instruction (log 10) -/

/-- A launch record of one core: one level of domain core (R380). DESIGN CHOICE (log 10). -/
def oneCoreRec : List Word := (List.range 32).map (fun i => if i = 0 then 0x00031001 else if i = 8 then 0x0000001100000001 else 0)

/-- The state with a launch of one core on core 0 whose context 0 is READY with the given bytes at its program counter.
DESIGN CHOICE (log 10). -/
def placeInstr (s : State) (bs : List Byte) : State :=
  let pc := (getCtx s 0).pc.toNat % 2 ^ 18
  let s1 := setBootState { s with turn := 0, agenda := [.issue 0] } 4
  let s2 := setLaunch s1 0 { words := oneCoreRec, cores := [0], began := true, nodes := [myNode s1], root := myNode s1 }
  let s3 := setCore s2 0 { getCore s2 0 with launch := some 0, halted := false }
  let s4 := setCtx s3 0 { getCtx s3 0 with st := .ready, pc := BitVec.ofNat 64 pc }
  { s4 with mem := msetAll s4.mem ((List.range bs.length).zip bs |>.map (fun p => (sliceKey 0 (pc + p.1), p.2))) }

end Sys2Proof.Machine
end

