-- ==== Sys2Proof/Machine/Step.lean ====
section
/-!
DEFINITION. One step of the machine: the next act of the agenda, or the machine's own choice (log 4), executed, and device
time moved on (log 5); and the state whose next step runs a given instruction.
-/
namespace Sys2Proof.Machine

/-- The outcome with a function applied to its next state. -/
def onNext (f : State → State) (o : Host.Outcome State Fault Refusal) : Host.Outcome State Fault Refusal :=
  match o with
  | .next s => .next (f s)
  | .fault r => .fault r
  | .refused r => .refused r

/-- The issue of a context's next instruction: it is fetched, decoded and executed (R197, R396). -/
def runCtx (s : State) (x : Nat) : Host.Outcome State Fault Refusal :=
  if mayIssue s x then
    match dueTrap s x with
    | some i => onNext (afterIssue x) (exec i (issueOf s x))
    | none =>
      match fetch (issueOf (noteIssue s x) x) with
      | .words w l1 l2 s1 => onNext (afterIssue x) (exec (instrOf w l1 l2) s1)
      | .ends e => .next (afterIssue x (endState .nop e))
  else .next s

/-- An act executed. -/
def runAct (s : State) (a : Act) : Host.Outcome State Fault Refusal :=
  match a with
  | .event i => exec i s
  | .issue x => runCtx s x
  | .input e => .next (takeInput e s)

/-- One step: the agenda's next act, or the machine's own choice, or nothing but the passing of time. -/
def step (s : State) : Host.Outcome State Fault Refusal :=
  match s.agenda with
  | a :: rest => onNext tick (runAct { s with agenda := rest } a)
  | [] =>
    match choose s with
    | some (.event e) => onNext tick (e { s with flip := !s.flip })
    | some (.issue x) => onNext tick (runCtx { s with flip := !s.flip } x)
    | none => .next (tick { s with flip := !s.flip })

/-- The state in which the very next step runs the instruction whose bits are `w` (its bits above `nbits` zero): a module in
READY, a launch of one core on core 0, context 0 of it READY, the bytes at its program counter in its slice (log 10). -/
def State.withFetchWord (s : State) (nbits w : Nat) : State :=
  placeInstr s (bytesOfNat 12 (w % 2 ^ nbits))

end Sys2Proof.Machine
end

