-- ==== Sys2Proof/Safety.lean ====
section
/-!
DEFINITION. What counts as a safe run, and the terms in which the statements speak of a step: what an instruction leaves
unchanged, how it ends, and the invariants that every step keeps.
-/
namespace Sys2Proof.Machine

/-- A step that goes on. -/
def goesOn (s : State) : Prop := ∃ t, step s = .next t

/-- The memory keeps its canonical form. -/
def memInv (s : State) : Prop := memoryWf s.mem = true

/-! ## Frames -/

/-- Every byte of memory reads as before. -/
def sameBytes (s t : State) : Prop := ∀ a, mget t.mem a = mget s.mem a

/-- Nothing but the executing context differs: every other context, every unit and every byte of memory is as before. -/
def onlyTurn (s t : State) : Prop :=
  { t with ctxs := s.ctxs } = s ∧ (∀ x, x ≠ s.turn → getCtx t x = getCtx s x) ∧ sameBytes s t

/-- A context `d` is `c` but for the program counter and the loop registers, the dirty bits of registers (R437), and the model's record of
remote answers and of what it waited for: every register, flag and control register is the same. -/
def sameRegs (c d : Ctx) : Prop :=
  { d with pc := c.pc, lc := c.lc, ls := c.ls, le := c.le, ldepth := c.ldepth, sd := c.sd, vd := c.vd, pd := c.pd, kd := c.kd,
           answers := c.answers, farTag := c.farTag, wait := c.wait } = c

/-- Control goes on in sequence after an instruction of `len` bytes, by the loop-end test (R198, R222). -/
def inSequence (c d : Ctx) (len : Nat) : Prop :=
  d.pc = (nextPc c len).pc ∧ d.lc = (nextPc c len).lc ∧ d.ls = (nextPc c len).ls ∧ d.le = (nextPc c len).le
    ∧ d.ldepth = (nextPc c len).ldepth

/-- Control goes to `t`, with no loop-end test (R198): the loop registers stay. -/
def jumped (c d : Ctx) (t : Word) : Prop :=
  d.pc = t ∧ d.lc = c.lc ∧ d.ls = c.ls ∧ d.le = c.le ∧ d.ldepth = c.ldepth

/-! ## How an instruction ends -/

/-- The instruction completes in sequence, nothing but its context changes, and that has become `c` but for the program
counter and the loop registers. -/
def leaves (i : Instr) (s : State) (len : Nat) (c : Ctx) : Prop :=
  ∃ t, exec i s = .next t ∧ onlyTurn s t ∧ sameRegs c (getCtx t s.turn) ∧ inSequence (cur s) (getCtx t s.turn) len

/-- The instruction completes in sequence and writes `v` to s[d]; a write to s0 is discarded (R144). Everything else, every
flag, control register and byte of memory among it, is as before. -/
def writesS (i : Instr) (s : State) (len : Nat) (d : Reg) (v : Word) : Prop :=
  ∃ t, exec i s = .next t ∧ onlyTurn s t ∧ inSequence (cur s) (getCtx t s.turn) len
    ∧ (∀ r, sread (getCtx t s.turn) r = if r = d ∧ r ≠ 0 then v else sread (cur s) r)
    ∧ sameRegs (cur s) { getCtx t s.turn with s := (cur s).s }

/-- The instruction completes in sequence, writes `v` to s[d] and sets the flags `f` of ctl.fcsr, which are sticky (R154). -/
def writesF (i : Instr) (s : State) (len : Nat) (d : Reg) (v : Word) (f : Nat) : Prop :=
  ∃ t, exec i s = .next t ∧ onlyTurn s t ∧ inSequence (cur s) (getCtx t s.turn) len
    ∧ (∀ r, sread (getCtx t s.turn) r = if r = d ∧ r ≠ 0 then v else sread (cur s) r)
    ∧ (getCtx t s.turn).fcsr = (cur s).fcsr ||| BitVec.ofNat 64 (f % 128)
    ∧ sameRegs (cur s) { getCtx t s.turn with s := (cur s).s, fcsr := (cur s).fcsr }

/-- The instruction completes in sequence and writes `v` to p[d]; a write to p0 is discarded (R145). -/
def writesP (i : Instr) (s : State) (len : Nat) (d : PReg) (v : BitVec 16) : Prop :=
  ∃ t, exec i s = .next t ∧ onlyTurn s t ∧ inSequence (cur s) (getCtx t s.turn) len
    ∧ (∀ r, pread (getCtx t s.turn) r = if r = d ∧ r ≠ 0 then v else pread (cur s) r)
    ∧ sameRegs (cur s) { getCtx t s.turn with p := (cur s).p }

/-- The instruction completes in sequence and writes `v` to v[d]. -/
def writesV (i : Instr) (s : State) (len : Nat) (d : Reg) (v : Vec) : Prop :=
  ∃ t, exec i s = .next t ∧ onlyTurn s t ∧ inSequence (cur s) (getCtx t s.turn) len
    ∧ (∀ r, vfile (getCtx t s.turn) r = if r = d then v else vfile (cur s) r)
    ∧ sameRegs (cur s) { getCtx t s.turn with v := (cur s).v }

/-- The instruction transfers control to `t`, and writes `v` to s[d]. -/
def jumpsTo (i : Instr) (s : State) (d : Reg) (v t : Word) : Prop :=
  ∃ u, exec i s = .next u ∧ onlyTurn s u ∧ jumped (cur s) (getCtx u s.turn) t
    ∧ (∀ r, sread (getCtx u s.turn) r = if r = d ∧ r ≠ 0 then v else sread (cur s) r)
    ∧ sameRegs (cur s) { getCtx u s.turn with s := (cur s).s }

/-- The instruction takes the trap with this cause and value in its own context, in place of its effects (R230). -/
def traps (i : Instr) (s : State) (cause : Nat) (val : Word) : Prop :=
  exec i s = .next (takeTrap s s.turn (cur s).pc cause val)

/-- The instruction raises the fault with this cause and address (R428). -/
def faults (i : Instr) (s : State) (cause : Nat) (fva : Word) : Prop := exec i s = .next (raiseFault s s.turn cause fva)

/-- The instruction blocks its context, which executes it again when the wait ends (R141). -/
def blocks (i : Instr) (s : State) (w : Wait) : Prop := exec i s = .next (blockCtx s s.turn w)

/-! ## Results -/

/-- The 64-bit result, or with W = 1 the 32-bit result sign-extended (R211). -/
def byWidth (w : Bool) (r : Word) (q : Word32) : Word := if w then q.signExtend 64 else r

/-- The instruction writes s[d] with a value of which `P` holds on the operands' width: 64 bits, or with W = 1 a value of 32 bits
that is written sign-extended (R211). -/
def writesSuch (i : Instr) (s : State) (w : Bool) (d : Reg) (P : Word → Prop) (Q : Word32 → Prop) : Prop :=
  ∃ v, writesS i s 4 d v ∧ if w then ∃ q : Word32, Q q ∧ v = q.signExtend 64 else P v

/-- `r` is the number of leading zero bits of `x`. -/
def countsLeading {n : Nat} (x r : BitVec n) : Prop :=
  r.toNat ≤ n ∧ (∀ j < r.toNat, x.getMsbD j = false) ∧ (r.toNat < n → x.getMsbD r.toNat = true)
/-- `r` is the number of trailing zero bits of `x`. -/
def countsTrailing {n : Nat} (x r : BitVec n) : Prop :=
  r.toNat ≤ n ∧ (∀ j < r.toNat, x.getLsbD j = false) ∧ (r.toNat < n → x.getLsbD r.toNat = true)
/-- `r` is the number of one bits of `x`. -/
def countsOnes {n : Nat} (x r : BitVec n) : Prop := r.toNat = ((List.range n).filter (fun j => x.getLsbD j)).length
/-- `r` is `x` with bit j moved to bit n-1-j. -/
def reversesBits {n : Nat} (x r : BitVec n) : Prop := ∀ j < n, r.getLsbD j = x.getLsbD (n - 1 - j)
/-- `r` is `x` with byte j moved to byte n/8-1-j. -/
def reversesBytes {n : Nat} (x r : BitVec n) : Prop :=
  ∀ j < n / 8, ∀ k < 8, r.getLsbD (8 * j + k) = x.getLsbD (8 * (n / 8 - 1 - j) + k)

/-! ## Running the next instruction -/

/-- The next step issues context `x`, from the state `s0` that the agenda or the machine's choice leaves. -/
def issues (s s0 : State) (x : Nat) : Prop :=
  (∃ rest, s.agenda = .issue x :: rest ∧ s0 = { s with agenda := rest })
    ∨ (s.agenda = [] ∧ choose s = some (.issue x) ∧ s0 = { s with flip := !s.flip })

/-- The bytes `bs` stand at `a` in the own slice of the core of context `x`, and can be fetched: no error is recorded for them. -/
def codeAt (s : State) (x : Nat) (a : Word) (bs : List Byte) : Prop :=
  a.toNat + bs.length ≤ 2 ^ 18 ∧ (getCtx s x).answers = []
    ∧ ∀ j < bs.length, mget s.mem (sliceKey (coreOf x) (a.toNat + j)) = bs.getD j 0
        ∧ poisoned s (sliceKey (coreOf x) (a.toNat + j)) = false ∧ eccBase (sliceKey (coreOf x) (a.toNat + j)) ∉ s.soft

/-! ## Traps -/

/-- Context `x` has entered a trap (R230): the return address, cause, value and old mode are saved, T is set, control is at `target`
in mode `sm`; every other register, the loop stack, the bindings, the flags, every other context and unit and every byte of memory
are as before. -/
def entersTrap (s t : State) (x : Nat) (ret : Word) (cause : Nat) (val : Word) (sm : Bool) (target : Word) : Prop :=
  { t with ctxs := s.ctxs } = s ∧ (∀ y, y ≠ x → getCtx t y = getCtx s y) ∧ sameBytes s t
    ∧ (getCtx t x).tpc = ret ∧ (getCtx t x).tcause = BitVec.ofNat 64 cause ∧ (getCtx t x).tval = val
    ∧ (getCtx t x).pm = (getCtx s x).sm ∧ (getCtx t x).t = true ∧ (getCtx t x).sm = sm ∧ (getCtx t x).pc = target
    ∧ (getCtx t x).st = .ready
    ∧ { getCtx t x with
        tpc := (getCtx s x).tpc, tcause := (getCtx s x).tcause, tval := (getCtx s x).tval, pm := (getCtx s x).pm,
        t := (getCtx s x).t, sm := (getCtx s x).sm, pc := (getCtx s x).pc, st := (getCtx s x).st, wait := (getCtx s x).wait,
        answers := (getCtx s x).answers, farTag := (getCtx s x).farTag } = getCtx s x

/-- A handler is installed for a trap of context `x` that is neither SYS nor taken in S mode: T is clear and ctl.tvec is not zero
(R230); it is at `target`. -/
def handlerAt (s : State) (x : Nat) (target : Word) : Prop :=
  (getCtx s x).t = false ∧ (getCtx s x).sm = false ∧ (getCtx s x).tvec = target ∧ target ≠ 0

/-! ## Control registers -/

/-- The control registers that software may write whole, with the mask of the bits that are RW (R152-R155). -/
def rwRegisters : List (BitVec 12 × Word) :=
  [(1, 0xFFFFFFFFFFFFFFFC), (2, 0xFFFFFFFFFFFFFFFF), (3, 0xFFFF), (4, 0xFFFFFFFFFFFFFFFF), (5, 0xFFFFFFFFFFFFFFFC),
   (0x10, 0xF), (0x11, 0x77F), (0x12, 1), (0x13, 0xFFFFFFFFFFFFFFFF), (0x40, 0x1FFF), (0x41, 0xFFFFFFFFFFFC), (0x42, 0xFFFFFFFFFFFC)]

/-- A CSR instruction writes `w` to control register `n` and the old value to s[d]; every other control register but those of the
loop stack, and every scalar register but s[d], reads as before. -/
def csrWrites (i : Instr) (s : State) (d : Reg) (n : BitVec 12) (w : Word) : Prop :=
  ∃ t, exec i s = .next t ∧ onlyTurn s t ∧ inSequence (cur s) (getCtx t s.turn) 4 ∧ csrVal t n.toNat = w
    ∧ (∀ m, m ≠ n.toNat → (m < 0x50 ∨ 0x5C < m) → csrVal t m = csrVal s m)
    ∧ (∀ r, sread (getCtx t s.turn) r = if r = d ∧ r ≠ 0 then csrVal s n.toNat else sread (cur s) r)

/-! ## Memory -/

/-- The `n` bytes from `ea` on lead to local cells, `key j` the cell of byte `j`, that can be accessed: no error is recorded for
them, and no answer of a remote access is held. -/
def located (s : State) (kind : AccKind) (ea : Word) (n : Nat) (key : Nat → Nat) : Prop :=
  (cur s).answers = [] ∧ ∀ j < n, resolve s (accOf s kind) (ea + BitVec.ofNat 64 j) = .cell (key j) ∧ poisoned s (key j) = false

/-- The bytes read at the cells, as one number, the first byte the least significant (R4). -/
def cellsNat (s : State) (key : Nat → Nat) (n : Nat) : Nat :=
  match n with
  | 0 => 0
  | n + 1 => cellsNat s key n + (mget s.mem (key n)).toNat * 2 ^ (8 * n)

/-- Only counters of soft errors differ among the registers, those of errors that were recorded; with none recorded, nothing does (R29, R139,
R458). -/
def onlyCorrected (s t : State) : Prop :=
  (∀ b ∈ t.soft, b ∈ s.soft) ∧ (s.soft = [] → t.soft = s.soft ∧ t.regs = s.regs)
    ∧ ∀ o, bar t o ≠ bar s o → ∃ b ∈ s.soft, o = eccCounter b false

/-- What an access leaves unchanged beside memory and the executing context: every other context and every unit; of a launch only the
mark that it has used the module window may change (R438), of a region only its lists of lines written (R73), of the registers only the
counters of soft errors that it corrected. -/
def onlyMemory (s t : State) : Prop :=
  { t with ctxs := s.ctxs, mem := s.mem, poison := s.poison, clean := s.clean, launches := s.launches, regions := s.regions, soft := s.soft,
           regs := s.regs } = s
    ∧ onlyCorrected s t ∧ (∀ x, x ≠ s.turn → getCtx t x = getCtx s x)
    ∧ (∀ l, { getLaunch t l with modWin := (getLaunch s l).modWin } = getLaunch s l)
    ∧ t.regions.map (fun r => { r with lines := [] }) = s.regions.map (fun r => { r with lines := [] })

/-- The instruction completes in sequence and s[d] receives `v`; no byte of memory, no flag and no other register changes. -/
def loads (i : Instr) (s : State) (d : Reg) (v : Word) : Prop :=
  ∃ t, exec i s = .next t ∧ onlyMemory s t ∧ sameBytes s t ∧ inSequence (cur s) (getCtx t s.turn) 4
    ∧ (∀ r, sread (getCtx t s.turn) r = if r = d ∧ r ≠ 0 then v else sread (cur s) r)
    ∧ sameRegs (cur s) { getCtx t s.turn with s := (cur s).s }

/-- Memory after a store of the low `n` bytes of `w` to the cells: each cell holds its byte, where two bytes lead to one cell the
last, and every byte elsewhere reads as before. -/
def storedAt (s t : State) (key : Nat → Nat) (n : Nat) (w : Word) : Prop :=
  (∀ j < n, (∀ i, j < i → i < n → key i ≠ key j) → mget t.mem (key j) = (w >>> (8 * j)).setWidth 8)
    ∧ ∀ a, (∀ j < n, key j ≠ a) → mget t.mem a = mget s.mem a

/-- The instruction completes in sequence, the low `n` bytes of `w` are stored at the cells, s[d] receives `v`, and nothing else
changes: no flag, no other register, no other byte. -/
def storesAnd (i : Instr) (s : State) (key : Nat → Nat) (n : Nat) (w : Word) (d : Reg) (v : Word) : Prop :=
  ∃ t, exec i s = .next t ∧ onlyMemory s t ∧ storedAt s t key n w ∧ inSequence (cur s) (getCtx t s.turn) 4
    ∧ (∀ r, sread (getCtx t s.turn) r = if r = d ∧ r ≠ 0 then v else sread (cur s) r)
    ∧ sameRegs (cur s) { getCtx t s.turn with s := (cur s).s }

/-- The instruction completes in sequence and stores the low `n` bytes of `w` at the cells; no register changes. -/
def stores (i : Instr) (s : State) (key : Nat → Nat) (n : Nat) (w : Word) : Prop := storesAnd i s key n w 0 0

/-! ## Vector instructions -/

/-- The registers are bound to no stream and no queue, and the upper bank is ON or none of them is in it (R147, R150, R151). -/
def plainRegs (s : State) (l : List Reg) : Prop :=
  (∀ r ∈ l, (∀ g : Fin 4, ∀ x, (cur s).gens[g] = some x → x.reg ≠ r) ∧ ∀ q ∈ (cur s).qb, q.1 ≠ r)
    ∧ ((cur s).ub = 0 ∨ ∀ r ∈ l, r.toNat < 16)

/-- No active binary32 element of the operand registers, and no broadcast of a float instruction, holds the abandoned encoding (R182,
R266). -/
def noAband (s : State) (t : ETy) (ops : List Reg) (b : Option BSrc) (p : PReg) : Prop :=
  (t = .fp32 → ∀ r ∈ ops, ∀ j < 16, pbit (preg s p) j = true → isAband (elem (vfile (cur s) r) 32 j) = false)
    ∧ (isFloat t = true → ∀ w, b.bind (bWord s) = some w → isAband w = false)

/-- The rounding of a vector instruction of type `t` is by mode `m`, and not stochastic (R164, R265); integers do not round. -/
def rounds (s : State) (t : ETy) (x : XMode) (m : RMode) : Prop :=
  m ≠ .sr ∧ if isFloat t = true then xMode (cur s) x = some m else x = .dyn

/-- The bytes of an instruction with this b operand (R198). -/
def bLen : BSrc → Nat
  | .lit _ => 8 | _ => 4

/-- The flags of the active elements together. -/
def orFlags (n : Nat) (act : Nat → Bool) (q : Nat → FRes) : Nat :=
  (List.range n).foldl (fun f j => if act j then f ||| (q j).flags else f) 0

/-- The context with v[d] written and flags set. -/
def withV (c : Ctx) (d : Reg) (v : Vec) (f : Nat) : Ctx := { vput c d v with fcsr := c.fcsr ||| BitVec.ofNat 64 (f % 128) }

/-- The instruction completes in sequence: each active element of v[d] is the result `q`, the others stay (R263), the flags of the
active elements and `f` are set, and nothing else changes. -/
def elementwise (i : Instr) (s : State) (len : Nat) (t : ETy) (d : Reg) (p : PReg) (f : Nat) (q : Nat → FRes) : Prop :=
  ∃ v : Vec, (∀ j < 512 / tyWidth t, elem v (tyWidth t) j
      = if active (preg s p) (tyWidth t) j then (q j).w % 2 ^ tyWidth t else elem (vfile (cur s) d) (tyWidth t) j)
    ∧ leaves i s len (withV (cur s) d v (orFlags (512 / tyWidth t) (active (preg s p) (tyWidth t)) q ||| f))

/-- The instruction completes in sequence: every element of width `w` of v[d] is `q`, and nothing else changes. -/
def fillsV (i : Instr) (s : State) (len w : Nat) (d : Reg) (q : Nat → Nat) : Prop :=
  ∃ v : Vec, (∀ j < 512 / w, elem v w j = q j) ∧ leaves i s len (vput (cur s) d v)

/-- The instruction completes in sequence: bit g of p[d] is `q g` (a write to p0 is discarded), the flags `f` are set, and nothing else
changes. -/
def fillsP (i : Instr) (s : State) (len : Nat) (d : PReg) (f : Nat) (q : Nat → Bool) : Prop :=
  ∃ v : BitVec 16, (∀ g < 16, v.getLsbD g = q g)
    ∧ leaves i s len { pwrite (cur s) d v with fcsr := (cur s).fcsr ||| BitVec.ofNat 64 (f % 128) }

/-- A vector access of elements of `n` bytes: the active elements have aligned addresses, and their bytes lead to local cells, `key j k`
the cell of byte `k` of element `j`, that can be accessed. -/
def locatedElems (s : State) (kind : AccKind) (n : Nat) (act : Nat → Bool) (addr : Nat → Word) (key : Nat → Nat → Nat) : Prop :=
  (cur s).answers = [] ∧ ∀ j < 64, act j = true → (addr j).toNat % n = 0
    ∧ ∀ k < n, resolve s (accOf s kind) (addr j + BitVec.ofNat 64 k) = .cell (key j k) ∧ poisoned s (key j k) = false

/-- The instruction completes in sequence: the elements of width `w` of v[d] are `q`; no byte of memory, no flag and no other
register changes. -/
def loadsV (i : Instr) (s : State) (w : Nat) (d : Reg) (q : Nat → Nat) : Prop :=
  ∃ t, exec i s = .next t ∧ onlyMemory s t ∧ sameBytes s t ∧ inSequence (cur s) (getCtx t s.turn) 4
    ∧ (∀ j < 512 / w, elem (vfile (getCtx t s.turn) d) w j = q j) ∧ (∀ r, r ≠ d → vfile (getCtx t s.turn) r = vfile (cur s) r)
    ∧ sameRegs (cur s) { getCtx t s.turn with v := (cur s).v }

/-- The instruction completes in sequence and stores the active elements of `n` bytes of v[d]: each cell holds the byte of the highest
element that leads to it, and every byte elsewhere, every register and every flag is as before. -/
def storesV (i : Instr) (s : State) (n : Nat) (d : Reg) (act : Nat → Bool) (key : Nat → Nat → Nat) : Prop :=
  ∃ t, exec i s = .next t ∧ onlyMemory s t ∧ inSequence (cur s) (getCtx t s.turn) 4 ∧ sameRegs (cur s) (getCtx t s.turn)
    ∧ (∀ j < 64 / n, act j = true → ∀ k < n,
        (∀ j' < 64 / n, act j' = true → ∀ k' < n, (j < j' ∨ (j = j' ∧ k < k')) → key j' k' ≠ key j k) →
        mget t.mem (key j k) = BitVec.ofNat 8 (elem (vfile (cur s) d) 8 (j * n + k)))
    ∧ ∀ a, (∀ j < 64 / n, act j = true → ∀ k < n, key j k ≠ a) → mget t.mem a = mget s.mem a

/-- Nothing but the executing context and core `k`, or its queues, differs; memory is as before. -/
def onlyTurnAndCore (s t : State) (k : Nat) : Prop :=
  { t with ctxs := s.ctxs, cores := s.cores } = s ∧ (∀ x, x ≠ s.turn → getCtx t x = getCtx s x)
    ∧ (∀ j, j ≠ k → getCore t j = getCore s j) ∧ sameBytes s t

/-- The instruction completes in sequence and s[d] receives `v`; of the rest of its context nothing changes. What happens outside
the context is said by `P`. -/
def writesSAnd (i : Instr) (s : State) (d : Reg) (v : Word) (P : State → Prop) : Prop :=
  ∃ t, exec i s = .next t ∧ P t ∧ sameBytes s t ∧ (∀ x, x ≠ s.turn → getCtx t x = getCtx s x)
    ∧ inSequence (cur s) (getCtx t s.turn) 4
    ∧ (∀ r, sread (getCtx t s.turn) r = if r = d ∧ r ≠ 0 then v else sread (cur s) r)
    ∧ sameRegs (cur s) { getCtx t s.turn with s := (cur s).s }

/-! ## Units and events -/

/-- The wait of context `x` ends with its instruction complete: s[d] receives `w`, control goes on in sequence, the context is READY,
or HALTED as before; its other registers and every other context are as before. -/
def answered (s t : State) (x : Nat) (d : Reg) (w : Word) : Prop :=
  (getCtx t x).st = (if (getCtx s x).st = .halted then .halted else .ready) ∧ (getCtx t x).wait = none
    ∧ inSequence (getCtx s x) (getCtx t x) 4
    ∧ (∀ r, sread (getCtx t x) r = if r = d ∧ r ≠ 0 then w else sread (getCtx s x) r)
    ∧ sameRegs { getCtx s x with st := (getCtx t x).st } { getCtx t x with s := (getCtx s x).s }
    ∧ ∀ y, y ≠ x → getCtx t y = getCtx s y

/-- The instruction sends a request and its context waits for the answer: every register is as before, and so is every other context. -/
def asks (i : Instr) (s t : State) (w : Wait) : Prop :=
  exec i s = .next t ∧ (getCtx t s.turn).st = .blocked ∧ (getCtx t s.turn).wait = some w ∧ sameBytes s t
    ∧ { getCtx t s.turn with st := (cur s).st, wait := (cur s).wait, blockedAt := (cur s).blockedAt, waitSeq := (cur s).waitSeq } = cur s
    ∧ ∀ x, x ≠ s.turn → getCtx t x = getCtx s x

/-- Nothing but core `k` differs. -/
def onlyCore (s t : State) (k : Nat) : Prop := { t with cores := s.cores } = s ∧ ∀ j, j ≠ k → getCore t j = getCore s j

/-- Of core `k`, only pitch `p` differs; no other core and no unit does. -/
def onlyPitch (s t : State) (k p : Nat) : Prop :=
  { t with ctxs := s.ctxs, cores := s.cores } = s ∧ (∀ j, j ≠ k → getCore t j = getCore s j)
    ∧ { getCore t k with pitch := (getCore s k).pitch } = getCore s k ∧ ∀ j, j ≠ p → getPitch t k j = getPitch s k j

/-- The bytes of cells as they read after the writes of a list, in order. -/
def written (s : State) (l : List (Nat × Byte)) (a : Nat) : Byte := ((l.reverse.find? (fun c => c.1 == a)).map (·.2)).getD (mget s.mem a)

/-- Byte `i` of a move of `n` bytes lies in the unit of 256 bytes that command `m` moves next (R85). -/
def inUnit (m : EngCmd) (n i : Nat) : Prop := 256 * m.pos ≤ i ∧ i < n ∧ i < 256 * m.pos + 256

/-- The bytes of the unit can be read by access `a`: byte i at the accessible local cell `ks i`. -/
def unitReads (s : State) (a : Acc) (m : EngCmd) (n : Nat) (src : Nat → Word) (ks : Nat → Nat) : Prop :=
  m.answers = [] ∧ ∀ i, inUnit m n i → resolve s a (src i) = .cell (ks i) ∧ poisoned s (ks i) = false

/-- The bytes of the unit can be written by command `m` of queue `e`: byte i at the accessible local cell `kd i`, the cells apart. -/
def unitWrites (s : State) (k : Nat) (e : Engine) (m : EngCmd) (n : Nat) (dst : Nat → Word) (kd : Nat → Nat) : Prop :=
  256 * m.pos < n ∧ (∀ i, inUnit m n i → resolve s { engWrite k m with eng := some e } (dst i) = .cell (kd i) ∧ poisoned s (kd i) = false)
    ∧ ∀ i j, inUnit m n i → inUnit m n j → kd i = kd j → i = j

/-- The bytes of the unit have been written: byte i is `b i`; every byte elsewhere reads as before. -/
def filled (s t : State) (m : EngCmd) (n : Nat) (kd : Nat → Nat) (b : Nat → Byte) : Prop :=
  (∀ i, inUnit m n i → mget t.mem (kd i) = b i) ∧ ∀ a, (∀ i, inUnit m n i → kd i ≠ a) → mget t.mem a = mget s.mem a

/-- The command `m` of a queue has moved `c` bytes more: it runs on with its next unit, or, with none left of `n` bytes, it is outstanding and
holds no leave (R86, R123). -/
def unitDone (t : State) (k : Nat) (e : Engine) (m : EngCmd) (n c : Nat) : Prop :=
  ∃ x ∈ (getQ t k e).cmds, x.uid = m.uid ∧ x.word = m.word ∧ x.status = m.status ∧ x.moved = m.moved + c
    ∧ if n ≤ 256 * m.pos + 256 then x.phase = 3 ∧ x.grant = 0 else x.phase = 2 ∧ x.grant = m.grant ∧ x.pos = m.pos + 1

/-- The offset and byte of a pushed peg is in a packet that waits here, in order where the command has ORD (R54, R114). -/
def pushed (t : State) (core tag : Nat) (la : Option Nat) (id : BookId) (ord : Bool) (c : Nat × Byte) : Prop :=
  ∃ q ∈ t.arrived, ∃ part total cells, q.cls = 1 ∧ q.ord = ord ∧ c ∈ cells
    ∧ q.body = .pushPeg core tag la id (c.1 / 2 ^ (bookSize id + 6)) part total true false cells

/-- The command `m` of core `k`, whose operation is `cop`, stands at its first tile, the only one of its octet that is ready; the unit is not
stopped for a gang, its round names cores of the octet, and the command's bank holds no soft error (R299). -/
def soleTile (s : State) (k cop : Nat) (m : EngCmd) : Prop :=
  soleReady s k cop = some m ∧ (getOct s (octOf k)).stopped = false ∧ (getOct s (octOf k)).order.length ≤ 8
    ∧ (∀ i ∈ (getOct s (octOf k)).order, i < 8) ∧ m.pos = 0 ∧ m.answers = [] ∧ (mxBank s (octOf k) (mxAcc m.word)).errs = []

/-- The one tile of the command runs, by the command's own event or by its unit's: the command is outstanding, its bank is its launch's, the other
banks of the octet are as before, and `P` holds. -/
def tileRuns (i : Instr) (s : State) (k : Nat) (m : EngCmd) (P : State → Prop) : Prop :=
  ∀ e ∈ [i, .mxuTile (octOf k)], ∃ t, exec e s = .next t ∧ P t ∧ (∃ x ∈ (getQ t k .mxu).cmds, x.uid = m.uid ∧ x.phase = 3)
    ∧ (mxBank t (octOf k) (mxAcc m.word)).owner = launchOf s k
    ∧ ∀ b, b ≠ mxAcc m.word → mxBank t (octOf k) b = mxBank s (octOf k) b

/-- A row operand of `rows` rows of `n` bytes in block 0 of a scratchpad descriptor `d`, without VG and SKZ: byte j of row i at the accessible local
cell `ka i j`. -/
def operandAt (s : State) (k : Nat) (m : EngCmd) (d rows n : Nat) (ka : Nat → Nat → Nat) : Prop :=
  descVG d = false ∧ descSKZ d = false
    ∧ ∀ i < rows, ∀ j < n, resolve s (mxRead k m) (rowAddr d 0 i j) = .cell (ka i j) ∧ poisoned s (ka i j) = false

/-- Elements (i, j) of a bank of an octet hold `f i j` within rows 0 to M-1, columns 0 to N-1, and are as before elsewhere. -/
def pieceHolds (s t : State) (o : Nat) (b : Fin 4) (M N : Nat) (f : Nat → Nat → Nat) : Prop :=
  ∀ i j, j < 128 → accGet (mxBank t o b) i j = if i < M ∧ j < N then f i j else accGet (mxBank s o b) i j

/-- The `n` bytes from offset `off` of the cluster window on, as the crossing engine `x` accesses them, lead to local cells, `ky j` the cell of byte j,
that can be read and written. -/
def creAt (s : State) (x : Cre) (off n : Nat) (ky : Nat → Nat) : Prop :=
  ∀ j < n, (∀ kind ∈ [AccKind.engRead, AccKind.engWrite],
      resolve s { core := x.core, priv := x.priv, kind := kind } (BitVec.ofNat 64 (0x1000000 + off + j)) = .cell (ky j))
    ∧ poisoned s (ky j) = false

/-- The crossing command `m` has ended, with a status and word 2. -/
def ended (t : State) (k : Nat) (m : EngCmd) (status w2 : Nat) : Prop :=
  ∃ y ∈ (getQ t k .cre).cmds, y.uid = m.uid ∧ y.word = m.word ∧ y.phase = 3 ∧ y.out = 0 ∧ y.status = status ∧ y.word2 = w2

/-- The number of 64 bytes of bead `i`, at the cells `kb` of a bead table. -/
def beadIn (s : State) (kb : Nat → Nat) (i : Nat) : Nat := cellsNat s (fun y => kb (64 * i + y)) 64

/-- Byte `x` of a number. -/
def byteOf (b x : Nat) : Byte := BitVec.ofNat 8 (b / 2 ^ (8 * x))

/-- The engine of a participant word is one of this module and of the job. -/
def engHere (s : State) (e : Nat) : Prop := e % 32 < 24 ∧ e / 128 = myNode s ∧ jobNode s (e / 128) = true

/-- One message more waits here, for the engine of a participant word. -/
def toldTo (s t : State) (e : Nat) (body : Body) : Prop :=
  ∃ pk, t.arrived = s.arrived ++ [pk] ∧ pk.body = body ∧ pk.cls = 5 ∧ pk.die = e / 32 % 4 ∧ pk.clus = e % 32

/-- A port holds nothing back, and has credits for `n` flits of a class (R53). -/
def clearPort (s : State) (i cls n : Nat) : Prop := (getPort s i).queue = [] ∧ n ≤ (getPort s i).credit.getD cls 0

/-- What packets carry a fault notice, an answer of a dependence table. -/
def isFaultNote (p : Packet) : Bool := match p.body with | .faultNotice _ _ => true | _ => false
def isDepAns (p : Packet) : Bool := match p.body with | .depAns _ _ _ => true | _ => false
/-- A packet that forwards a part of a launch. -/
def isPart (p : Packet) : Bool := match p.body with | .launchPart _ _ _ _ _ _ => true | _ => false

/-- A BAR0 counter is raised by one, saturating (R458); every other register of the BAR reads as before. -/
def countsOne (s t : State) (off : Nat) : Prop :=
  bar t off = BitVec.ofNat 64 (min ((bar s off).toNat + 1) (2 ^ 64 - 1)) ∧ ∀ o, o ≠ off → bar t o = bar s o

/-- One register of the BAR, at `off`, holds `w`; nothing else differs. -/
def setsReg (s t : State) (off : Nat) (w : Word) : Prop :=
  { t with regs := s.regs } = s ∧ bar t off = w ∧ ∀ o, o ≠ off → bar t o = bar s o
/-- The register at `off` with the bits of a mask taken from `v`. -/
def masked (s : State) (off mask : Nat) (v : Word) : Word := (bar s off &&& ~~~(BitVec.ofNat 64 mask)) ||| (v &&& BitVec.ofNat 64 mask)

/-- One message more waits here, of a class and with a body. -/
def queued (s t : State) (cls : Nat) (body : Body) : Prop := ∃ pk, t.arrived = s.arrived ++ [pk] ∧ pk.body = body ∧ pk.cls = cls ∧ pk.src = myNode s

end Sys2Proof.Machine
end

