-- ==== Sys2Proof/Certificates/Slice0/Obligations.lean ====
section
/-!
DEFINITION. The statements for the provers, from the numbered rules of the spec.
-/
open Sys2Proof Sys2Proof.Machine

/-! ## Encoding and the step -/

/-- The words the spec writes out decode to the instructions it says they are: R239, R241, R235, R243, R246, R249, R254, R256,
R281, the class hole of R199. A sanity statement.

R197: a word whose class is a hole is an illegal instruction of the class-hole sub-cause, and a word of all zeros of the
zero-word sub-cause, whatever stands after it. -/
def Obligations.SpecWordsDecode : Prop :=
  (decode 0x7D088755 0 0 = .ok (.amo 1 2 3 .fmax .b4 .mod) ∧ decode 0x7E08861D 0 0 = .ok (.cas 1 2 3 .b8 .mod)
  ∧ decode 0x7420C040 0 0 = .ok (.ldw 4 3 0x40) ∧ decode 0x79288040 0 0 = .ok (.stw 5 2 0x40)
  ∧ decode 0xA0022003 0 0 = .ok (.vld 1 2 0 3) ∧ decode 0xA1082280 0 0 = .ok (.vgath 4 2 5 0)
  ∧ decode 0xA1D02181 0 0 = .ok (.strm 8 2 3 false 1) ∧ decode 0xA2520001 0 0 = .ok (.qbind 9 .dh)
  ∧ decode 0xD00221C5 0 0 = .ok (.send 1 2 3 true false 5) ∧ decode 0xD0822180 0 0 = .ok (.start 1 2 3 false)
  ∧ decode 0xD6022180 0 0 = .ok (.qslope 1 2 3) ∧ decode 0x3EAAAAAB 0 0 = .error .hole)
  ∧ (∀ w l1 l2 : Word32, (w = 0 → decode w l1 l2 = .error .zeroWord)
    ∧ (fld w 28 4 ∈ [3#4, 4#4, 0xB#4, 0xC#4, 0xE#4, 0xF#4] → decode w l1 l2 = .error .hole))

/-- The formats of R189: for one instruction of each format, the word put together field by field from the table, for every value
of every field, decodes to that instruction with those operands (R190-R196, R198). -/
def Obligations.FormatsPlaceTheFields : Prop :=
  ∀ (d a b : Reg) (w : Bool) (i : BitVec 14) (o : BitVec 21) (j : BitVec 16) (e c : BitVec 12) (p : PReg) (f : BitVec 20)
    (l1 l2 : Word32),
  decode (0x1#4 ++ 0x01#6 ++ d ++ a ++ b ++ 0#6 ++ BitVec.ofBool w) l1 l2 = .ok (.sub d a b w)
  ∧ decode (0x2#4 ++ 0x0#4 ++ d ++ a ++ i) l1 l2 = .ok (.addi d a i)
  ∧ decode (0x2#4 ++ 0xA#4 ++ d ++ 0#19) l1 l2 = .ok (.liw d l1)
  ∧ decode (0x2#4 ++ 0xB#4 ++ d ++ 0#19) l1 l2 = .ok (.lid d l1 l2)
  ∧ decode (0x0#4 ++ 0x07#6 ++ d ++ a ++ c) l1 l2 = .ok (.csrw d a c)
  ∧ decode (0x5#4 ++ 0x2#4 ++ a ++ b ++ i) l1 l2 = .ok (.blt a b i)
  ∧ decode (0x6#4 ++ 0#2 ++ d ++ o) l1 l2 = .ok (.jal d o)
  ∧ decode (0x6#4 ++ 1#2 ++ d ++ a ++ j) l1 l2 = .ok (.jalr d a j)
  ∧ (e ≠ 0 → decode (0x6#4 ++ 2#2 ++ a ++ e ++ 0#9) l1 l2 = .ok (.loop a e)
      ∧ decode (0x6#4 ++ 3#2 ++ c ++ e ++ 0#2) l1 l2 = .ok (.loopi c e))
  ∧ decode (0x7#4 ++ 0x9#4 ++ d ++ a ++ i) l1 l2 = .ok (.stw d a i)
  ∧ decode (0x8#4 ++ 0x00#6 ++ d ++ a ++ b ++ 0#2 ++ p ++ 1#2) l1 l2 = .ok (.vadd d a (.vreg b) p .rne)
  ∧ decode (0x8#4 ++ 0x00#6 ++ d ++ a ++ b ++ 1#2 ++ p ++ 2#2) l1 l2 = .ok (.vadd d a (.bank b) p .rtz)
  ∧ decode (0x8#4 ++ 0x00#6 ++ d ++ a ++ 0#5 ++ 2#2 ++ p ++ 3#2) l1 l2 = .ok (.vadd d a (.lit l1) p .sr)
  ∧ decode (0x8#4 ++ 0x00#6 ++ d ++ a ++ b ++ 3#2 ++ p ++ 0#2) l1 l2 = .ok (.vadd d a (.scal b) p .dyn)
  ∧ decode (0x9#4 ++ 4#3 ++ d ++ f) l1 l2 = .ok (.vmovi d f)
  ∧ decode (0xD#4 ++ 0x13#6 ++ d ++ a ++ 0#5 ++ 0#5 ++ 1#2) l1 l2 = .ok (.enq d a .cpe)

/-- Decode and encode agree: the bytes of every well-formed instruction that can be fetched, whatever follows them, decode to
that instruction with every operand, and to the bytes that follow. -/
def Obligations.DecodeInvertsEncode : Prop :=
  ∀ (i : Instr) (rest : List Byte), encode i ≠ [] → wellFormed i = true →
    decodeBytes ((encode i).flatMap bytesOfWord ++ rest) = (.ok i, rest)

/-- The other direction: what decodes is well formed, and its encoding is the word and the literals it was read from, so that
no two words of an instruction differ in a bit that decoding ignores. -/
def Obligations.EncodeInvertsDecode : Prop :=
  ∀ (w l1 l2 : Word32) (i : Instr), decode w l1 l2 = .ok i →
    wellFormed i = true ∧ encode i = [w, l1, l2].take (wordsOf w)

/-- A step runs the decoded instruction: when the next act is the issue of a context that may issue and has no deferred trap due,
and the bytes at its program counter decode to `i`, the step is exec of `i` at the state with the issue noted, after which a stepped
context halts and device time moves on. A word that does not decode runs the illegal-word event with its sub-cause (R197). -/
def Obligations.StepRunsTheDecodedInstruction : Prop :=
  ∀ (s s0 : State) (x : Nat) (bs : List Byte), issues s s0 x → mayIssue s0 x = true → dueTrap s0 x = none →
    codeAt (noteIssue s0 x) x (getCtx s0 x).pc bs → bs.length = 12 →
    step s = onNext tick (onNext (afterIssue x) (exec
      (match (decodeBytes bs).1 with
       | .ok i => i
       | .error sub => .illegalWord (headWord bs) sub) (issueOf (noteIssue s0 x) x)))

/-- Every step keeps the canonical form of the memory: addresses strictly rising, and no entry equal to what an unlisted
address reads as. -/
def Obligations.StepKeepsMemoryCanonical : Prop :=
  ∀ s t : State, memInv s → step s = .next t → memInv t

/-- The memory after reset is in canonical form, and every byte of it reads as zero (R473; of host memory this is the model's
choice, log 2). -/
def Obligations.ResetMemoryIsEmptyAndCanonical : Prop :=
  memInv State.reset ∧ ∀ a, mget State.reset.mem a = 0

/-! ## Scalar instructions -/

/-- R211, R212: sums, differences and products, of 64 bits or with W = 1 of 32 bits, sign-extended; MULH and MULHU give the high
half of the product of double width. Nothing but s[d] and the flow of control changes.

R213: division truncates toward zero and never traps; a zero divisor gives the quotient of all ones and the remainder x, and the
least number divided by -1 gives itself and remainder 0. -/
def Obligations.ScalarArithmetic : Prop :=
  (∀ (s : State) (d a b : Reg) (w : Bool),
    let x := sreg s a; let y := sreg s b; let u := x.setWidth 32; let v := y.setWidth 32
    writesS (.add d a b w) s 4 d (byWidth w (x + y) (u + v))
    ∧ writesS (.sub d a b w) s 4 d (byWidth w (x - y) (u - v))
    ∧ writesS (.mul d a b w) s 4 d (byWidth w (x * y) (u * v))
    ∧ writesS (.mulh d a b w) s 4 d (byWidth w (((x.signExtend 128 * y.signExtend 128) >>> 64).setWidth 64)
        (((u.signExtend 64 * v.signExtend 64) >>> 32).setWidth 32))
    ∧ writesS (.mulhu d a b w) s 4 d (byWidth w (((x.setWidth 128 * y.setWidth 128) >>> 64).setWidth 64)
        (((u.setWidth 64 * v.setWidth 64) >>> 32).setWidth 32)))
  ∧ (∀ (s : State) (d a b : Reg) (w : Bool),
    let x := sreg s a; let y := sreg s b; let u := x.setWidth 32; let v := y.setWidth 32
    let q := fun (n : Nat) (x y : BitVec n) => if y = 0 then BitVec.allOnes n else if x = BitVec.intMin n ∧ y = -1 then x else x.sdiv y
    let r := fun (n : Nat) (x y : BitVec n) => if y = 0 then x else if x = BitVec.intMin n ∧ y = -1 then 0 else x - x.sdiv y * y
    let qu := fun (n : Nat) (x y : BitVec n) => if y = 0 then BitVec.allOnes n else BitVec.ofNat n (x.toNat / y.toNat)
    let ru := fun (n : Nat) (x y : BitVec n) => if y = 0 then x else x - BitVec.ofNat n (x.toNat / y.toNat) * y
    writesS (.div d a b w) s 4 d (byWidth w (q 64 x y) (q 32 u v))
    ∧ writesS (.rem d a b w) s 4 d (byWidth w (r 64 x y) (r 32 u v))
    ∧ writesS (.divu d a b w) s 4 d (byWidth w (qu 64 x y) (qu 32 u v))
    ∧ writesS (.remu d a b w) s 4 d (byWidth w (ru 64 x y) (ru 32 u v)))

/-- R211, R212: the bitwise operations, and shifts and rotations by the amount modulo the width.

R212: minima, maxima and comparisons, signed and unsigned, at both widths.

R212: the counts of leading, trailing and one bits, and the reversals of bits and of bytes, of the operand's width. -/
def Obligations.ScalarLogicOrderAndCounts : Prop :=
  (∀ (s : State) (d a b : Reg) (w : Bool),
    let x := sreg s a; let y := sreg s b; let u := x.setWidth 32; let v := y.setWidth 32
    let m := y.toNat % 64; let n := y.toNat % 32
    writesS (.and d a b w) s 4 d (byWidth w (x &&& y) (u &&& v))
    ∧ writesS (.or d a b w) s 4 d (byWidth w (x ||| y) (u ||| v))
    ∧ writesS (.xor d a b w) s 4 d (byWidth w (x ^^^ y) (u ^^^ v))
    ∧ writesS (.andn d a b w) s 4 d (byWidth w (x &&& ~~~y) (u &&& ~~~v))
    ∧ writesS (.shl d a b w) s 4 d (byWidth w (x <<< m) (u <<< n))
    ∧ writesS (.shr d a b w) s 4 d (byWidth w (x >>> m) (u >>> n))
    ∧ writesS (.sra d a b w) s 4 d (byWidth w (x.sshiftRight m) (u.sshiftRight n))
    ∧ writesS (.rotr d a b w) s 4 d (byWidth w (x >>> m ||| x <<< (64 - m)) (u >>> n ||| u <<< (32 - n))))
  ∧ (∀ (s : State) (d a b : Reg) (w : Bool),
    let x := sreg s a; let y := sreg s b; let u := x.setWidth 32; let v := y.setWidth 32
    writesS (.min d a b w) s 4 d (byWidth w (if x.toInt ≤ y.toInt then x else y) (if u.toInt ≤ v.toInt then u else v))
    ∧ writesS (.max d a b w) s 4 d (byWidth w (if x.toInt ≤ y.toInt then y else x) (if u.toInt ≤ v.toInt then v else u))
    ∧ writesS (.minu d a b w) s 4 d (byWidth w (if x ≤ y then x else y) (if u ≤ v then u else v))
    ∧ writesS (.maxu d a b w) s 4 d (byWidth w (if x ≤ y then y else x) (if u ≤ v then v else u))
    ∧ writesS (.slt d a b w) s 4 d (if w then (if u.toInt < v.toInt then 1 else 0) else (if x.toInt < y.toInt then 1 else 0))
    ∧ writesS (.sltu d a b w) s 4 d (if w then (if u < v then 1 else 0) else (if x < y then 1 else 0))
    ∧ writesS (.seq d a b w) s 4 d (if w then (if u = v then 1 else 0) else (if x = y then 1 else 0)))
  ∧ (∀ (s : State) (d a : Reg) (w : Bool),
    let x := sreg s a; let u := x.setWidth 32
    writesSuch (.clz d a w) s w d (countsLeading x) (countsLeading u)
    ∧ writesSuch (.ctz d a w) s w d (countsTrailing x) (countsTrailing u)
    ∧ writesSuch (.popc d a w) s w d (countsOnes x) (countsOnes u)
    ∧ writesSuch (.brev d a w) s w d (reversesBits x) (reversesBits u)
    ∧ writesSuch (.bswap d a w) s w d (reversesBytes x) (reversesBytes u))

/-- R214: the bit field of EXT, the choice of SEL, and MOVP in both directions; a write to p0 is discarded (R145).

R217: the immediates and the literal loads, of 4, 8 and 12 bytes (R198). -/
def Obligations.FieldsImmediatesAndLiterals : Prop :=
  (∀ (s : State) (d a b : Reg) (x : Bool) (l : BitVec 6) (i : BitVec 4) (p : PReg),
    let f := (sreg s a >>> ((sreg s b).toNat % 64)).setWidth (l.toNat + 1)
    writesS (.ext d a b x l) s 4 d (if x then f.signExtend 64 else f.setWidth 64)
    ∧ writesS (.sel d a b i p) s 4 d (if (preg s p).getLsbD i.toNat then sreg s a else sreg s b)
    ∧ writesS (.movpToScalar d p) s 4 d ((preg s p).setWidth 64)
    ∧ writesP (.movpToPredicate p a) s 4 p ((sreg s a).setWidth 16))
  ∧ (∀ (s : State) (d a : Reg) (i : BitVec 14) (n : BitVec 6) (v : BitVec 19) (l1 l2 : Word32),
    let x := sreg s a; let m := i.signExtend 64
    writesS (.addi d a i) s 4 d (x + m)
    ∧ writesS (.andi d a i) s 4 d (x &&& m)
    ∧ writesS (.ori d a i) s 4 d (x ||| m)
    ∧ writesS (.xori d a i) s 4 d (x ^^^ m)
    ∧ writesS (.slti d a i) s 4 d (if x.toInt < m.toInt then 1 else 0)
    ∧ writesS (.sltui d a i) s 4 d (if x < m then 1 else 0)
    ∧ writesS (.addiw d a i) s 4 d (((x + m).setWidth 32).signExtend 64)
    ∧ writesS (.shli d a n) s 4 d (x <<< n.toNat)
    ∧ writesS (.shri d a n) s 4 d (x >>> n.toNat)
    ∧ writesS (.srai d a n) s 4 d (x.sshiftRight n.toNat)
    ∧ writesS (.lui d v) s 4 d (v.signExtend 64 <<< 13)
    ∧ writesS (.liw d l1) s 8 d (l1.signExtend 64)
    ∧ writesS (.lid d l1 l2) s 12 d (l2 ++ l1))

/-! ## Control -/

/-- R218: a branch whose condition holds goes to pc + 4 times its offset, and one whose condition does not hold goes on in
sequence; no register changes.

R219: JAL and JALR write the link and go to their target, which JALR reads before the link is written; a JALR target that is not a
multiple of 4 is the misalignment trap with the target as its value, and the link is not written. -/
def Obligations.BranchesAndJumps : Prop :=
  (∀ (s : State) (a b : Reg) (p q : PReg) (o : BitVec 14),
    let x := sreg s a; let y := sreg s b; let dest := (cur s).pc + 4 * o.signExtend 64
    let rule := fun (i : Instr) (c : Prop) => (c → jumpsTo i s 0 0 dest) ∧ (¬ c → leaves i s 4 (cur s))
    rule (.beq a b o) (x = y) ∧ rule (.bne a b o) (x ≠ y)
    ∧ rule (.blt a b o) (x.toInt < y.toInt) ∧ rule (.bge a b o) (x.toInt ≥ y.toInt)
    ∧ rule (.bltu a b o) (x < y) ∧ rule (.bgeu a b o) (y ≤ x)
    ∧ rule (.bbs a b o) (x.getLsbD (y.toNat % 64) = true) ∧ rule (.bbc a b o) (x.getLsbD (y.toNat % 64) = false)
    ∧ rule (.bp p q o) (preg s p &&& preg s q ≠ 0) ∧ rule (.bnp p q o) (preg s p &&& preg s q = 0))
  ∧ (∀ (s : State) (d a : Reg) (o : BitVec 21) (m : BitVec 16),
    jumpsTo (.jal d o) s d ((cur s).pc + 4) ((cur s).pc + 4 * o.signExtend 64)
    ∧ let dest := sreg s a + m.signExtend 64
      (dest.toNat % 4 = 0 → jumpsTo (.jalr d a m) s d ((cur s).pc + 4) dest) ∧ (dest.toNat % 4 ≠ 0 → traps (.jalr d a m) s 0x03 dest))

/-- R220: LOOP and LOOPI push the count, the start pc + 4 and the last-body address and go to pc + 4; a fifth loop is the
loop-overflow trap; a count of 0 pushes nothing, at any depth, and goes to the address after the last body instruction, whose length
its own word gives (here a word of the core's own slice).

R221: LEXIT leaves the innermost L loops, empties their entries and goes to the exit of the outermost of them; with fewer live
loops than L it is the loop-overflow trap of the empty-stack sub-cause.

R222: the loop-end test after an instruction at `c.pc` that completes without a control transfer. With no live loop, or where the
innermost does not end here, control goes on after the instruction; where it ends here and iterations are left, one is counted
and control goes to its start; on the last iteration its entry is emptied and the next outer loop is tested. -/
def Obligations.Loops : Prop :=
  (∀ (s : State) (a : Reg) (n e : BitVec 12) (bs : List Byte),
    let c := cur s; let last := c.pc + 4 * e.setWidth 64
    let rule := fun (i : Instr) (count : Word) =>
      (count ≠ 0 → ∀ h : c.ldepth < 4, ∃ t, exec i s = .next t ∧ onlyTurn s t ∧
        sameRegs c (getCtx t s.turn) ∧ (getCtx t s.turn).pc = c.pc + 4 ∧ (getCtx t s.turn).ldepth = c.ldepth + 1
        ∧ (getCtx t s.turn).lc = c.lc.set c.ldepth count ∧ (getCtx t s.turn).ls = c.ls.set c.ldepth (c.pc + 4)
        ∧ (getCtx t s.turn).le = c.le.set c.ldepth last)
      ∧ (count ≠ 0 → 4 ≤ c.ldepth → traps i s 0x04 (((encode i).headD 0).setWidth 64))
      ∧ (count = 0 → codeAt s s.turn last bs → bs.length = 4 →
          jumpsTo i s 0 0 (last + BitVec.ofNat 64 (4 * wordsOf (headWord bs))))
    rule (.loop a e) (sreg s a) ∧ rule (.loopi n e) (n.setWidth 64))
  ∧ (∀ (s : State) (l : BitVec 2) (bs : List Byte), let c := cur s; let n := l.toNat + 1
    (c.ldepth < n → traps (.lexit l) s 0x104 (((encode (.lexit l)).headD 0).setWidth 64))
    ∧ ∀ (_ : n ≤ c.ldepth) (_ : c.ldepth ≤ 4), codeAt s s.turn (c.le[c.ldepth - n]) bs → bs.length = 4 →
        ∃ t, exec (.lexit l) s = .next t ∧ onlyTurn s t ∧ sameRegs c (getCtx t s.turn)
          ∧ (getCtx t s.turn).pc = c.le[c.ldepth - n] + BitVec.ofNat 64 (4 * wordsOf (headWord bs))
          ∧ (getCtx t s.turn).ldepth = c.ldepth - n
          ∧ ∀ (j : Nat) (_ : j < 4), j < c.ldepth →
              (getCtx t s.turn).lc[j] = (if j < c.ldepth - n then c.lc[j] else 0)
              ∧ (getCtx t s.turn).ls[j] = (if j < c.ldepth - n then c.ls[j] else 0)
              ∧ (getCtx t s.turn).le[j] = (if j < c.ldepth - n then c.le[j] else 0))
  ∧ (∀ (c : Ctx) (len : Nat),
    let stays := (nextPc c len).pc = c.pc + BitVec.ofNat 64 len ∧ (nextPc c len).lc = c.lc ∧ (nextPc c len).ls = c.ls
      ∧ (nextPc c len).le = c.le ∧ (nextPc c len).ldepth = c.ldepth
    (c.ldepth = 0 → stays)
    ∧ ∀ (n : Nat) (_ : n < 4), c.ldepth = n + 1 →
        (c.le[n] ≠ c.pc → stays)
        ∧ (c.le[n] = c.pc → 1 < c.lc[n].toNat →
            (nextPc c len).pc = c.ls[n] ∧ (nextPc c len).lc = c.lc.set n (c.lc[n] - 1) ∧ (nextPc c len).ls = c.ls
            ∧ (nextPc c len).le = c.le ∧ (nextPc c len).ldepth = c.ldepth)
        ∧ (c.le[n] = c.pc → c.lc[n].toNat ≤ 1 →
            nextPc c len = nextPc { c with lc := c.lc.set n 0, ls := c.ls.set n 0, le := c.le.set n 0, ldepth := n } len))

/-- R224, R157: CSRR, and the three writing forms on the registers that software may write: the new value by R9, the old value in
s[d], every other register as before.

R157: an unassigned control-register number is the illegal-instruction trap of the reserved-field sub-cause; in U mode a register
of S access alone, and a write of a read-only register, is the privilege trap with the number as its value. -/
def Obligations.ControlRegisters : Prop :=
  (∀ (s : State) (d a : Reg) (n : BitVec 12), let x := sreg s a; let old := csrVal s n.toNat
    ((csrAcc n.toNat).isSome → (csrAcc n.toNat ≠ some .sOnly ∨ (cur s).sm = true) → writesS (.csrr d n) s 4 d old)
    ∧ ∀ m, (n, m) ∈ rwRegisters →
        csrWrites (.csrw d a n) s d n ((old &&& ~~~m) ||| (x &&& m))
        ∧ csrWrites (.csrs d a n) s d n (old ||| (x &&& m))
        ∧ csrWrites (.csrc d a n) s d n (old &&& ~~~(x &&& m)))
  ∧ (∀ (s : State) (d a : Reg) (n : BitVec 12) (i : Instr), i ∈ [.csrw d a n, .csrs d a n, .csrc d a n] →
    (csrAcc n.toNat = none → traps i s 0x301 (wordVal i) ∧ traps (.csrr d n) s 0x301 (wordVal (.csrr d n)))
    ∧ ((cur s).sm = false → csrAcc n.toNat = some .sOnly →
        traps i s 0x02 (n.setWidth 64) ∧ traps (.csrr d n) s 0x02 (n.setWidth 64))
    ∧ ((cur s).sm = false → csrAcc n.toNat = some .r → traps i s 0x02 (n.setWidth 64)))

/-- R226-R229: NOP has no effect; FENCE, whose accesses are in program order already, waits only for peer stores not yet acknowledged
(log 6); SLEEPU whose time has come writes it, else blocks, and SLEEPU_WAKE completes it when it comes; PRIO bounds the priority by MAX
and returns the old one; YIELD gives way for 4 cycles.

R228, R229, R396: a context that has yielded is not the one a slot takes while another able context in that slot has not. -/
def Obligations.Scheduling : Prop :=
  (∀ (s : State) (d a : Reg) (n : BitVec 2) (o : BitVec 4) (sc : Scope) (x t : Nat), let c := cur s
    leaves .nop s 4 c
    ∧ ((c.acks = [] ∨ sc = .ctx ∨ o.toNat < 4) → leaves (.fence o sc) s 4 c)
    ∧ (c.acks ≠ [] → sc ≠ .ctx → 4 ≤ o.toNat → blocks (.fence o sc) s .acks)
    ∧ ((sreg s a).toNat ≤ nowNs s → writesS (.sleepu d a) s 4 d (BitVec.ofNat 64 (nowNs s)))
    ∧ (nowNs s < (sreg s a).toNat → blocks (.sleepu d a) s (.sleep (sreg s a).toNat d))
    ∧ leaves (.prio d n) s 4 (swrite { c with prio := if n ≤ c.prioMax then n else c.prioMax } d (c.prio.setWidth 64))
    ∧ leaves .yield s 4 { c with yieldTo := s.cycle + 5, age := 0 }
    ∧ ((getCtx s x).st = .blocked → (getCtx s x).wait = some (.sleep t d) → t ≤ nowNs s →
        ∃ u, exec (.sleepuWake x) s = .next u ∧ { u with ctxs := s.ctxs } = s ∧ (∀ y, y ≠ x → getCtx u y = getCtx s y)
          ∧ (getCtx u x).st = .ready ∧ inSequence (getCtx s x) (getCtx u x) 4
          ∧ (∀ r, sread (getCtx u x) r = if r = d ∧ r ≠ 0 then BitVec.ofNat 64 (nowNs s) else sread (getCtx s x) r)
          ∧ sameRegs (getCtx s x) { getCtx u x with s := (getCtx s x).s, st := (getCtx s x).st }))
  ∧ (∀ (s : State) (slot x y : Nat) (l : List Nat), y ∈ l → (getCtx s y).yieldTo ≤ s.cycle → s.cycle < (getCtx s x).yieldTo →
    slotPick s slot l ≠ some x)

/-- R230, R427: taking a trap. While T is set, or when the target is zero, it is the double-trap fault; otherwise the context
enters its handler: at ctl.svec in S mode for SYS and for a trap taken in S mode, else at ctl.tvec in the mode it had.

R231, R197: BRK, SYS and a word that fails to decode take their trap: BRK at ctl.tvec in U mode, SYS at ctl.svec in S mode,
from either mode; the value is the code, or the word; ctl.tpc is the address of the instruction itself.

R265: a word of class 8 that only its rounding selection spoils, of an operation that never rounds: where ctl.vfmt holds an illegal code,
or one that the operation forbids, the sub-cause is illegal type, for the selection is not examined; else it is reserved field.

R232, R233: RETT returns from a trap first, restoring the mode, and then from the marker handler; with neither active it is the
illegal-instruction trap of the reserved-field sub-cause. A misaligned return address completes the return and then traps there.

R172, R98: the oldest held deferred trap of a context that is READY with T clear is taken at its pc and leaves the list; a WAITX
with a promise whose time has come with its transfer not complete takes the missed-promise trap. -/
def Obligations.Traps : Prop :=
  (∀ (s : State) (x : Nat) (ret : Word) (cause : Nat) (val : Word),
    let c := getCtx s x; let toS := cause % 256 = 0x0E ∨ c.sm = true
    let target := if toS then (getCore s (coreOf x)).svec else c.tvec
    ((c.t = true ∨ target = 0) → takeTrap s x ret cause val = raiseFault s x (cause % 256 * 256 + 0x25) ret)
    ∧ (c.t = false → target ≠ 0 → entersTrap s (takeTrap s x ret cause val) x ret cause val (decide toS) target))
  ∧ (∀ (s : State) (c : BitVec 12) (w : Word32) (sub : IllSub) (target : Word),
    traps (.brk c) s 0x0D (c.setWidth 64) ∧ traps (.sys c) s 0x0E (c.setWidth 64)
    ∧ (handlerAt s s.turn target → ∃ t, exec (.brk c) s = .next t
        ∧ entersTrap s t s.turn (cur s).pc 0x0D (c.setWidth 64) false target)
    ∧ (handlerAt s s.turn target → (sub ≠ .reserved ∨ fld w 28 4 ≠ 8) → ∃ t, exec (.illegalWord w sub) s = .next t
        ∧ entersTrap s t s.turn (cur s).pc (illSubCode sub * 256 + 1) (w.setWidth 64) false target)
    ∧ (∀ (i : Instr) (ok : ETy → Bool), handlerAt s s.turn target → neverRounds i = some ok → decode (w &&& ~~~3#32) 0 0 = .ok i →
        w &&& 3#32 ≠ 0 → ∃ t, exec (.illegalWord w .reserved) s = .next t
        ∧ entersTrap s t s.turn (cur s).pc (if ((etyOf (cur s).vfmt).map ok).getD false then 0x301 else 0x401) (w.setWidth 64) false target)
    ∧ ((cur s).t = false → (getCore s (curCore s)).svec = target → target ≠ 0 → ∃ t, exec (.sys c) s = .next t
        ∧ entersTrap s t s.turn (cur s).pc 0x0E (c.setWidth 64) true target))
  ∧ (∀ s : State, let c := cur s
    let back := fun (d : Ctx) => ∃ t, exec .rett s = .next t ∧ onlyTurn s t ∧ sameRegs d (getCtx t s.turn)
      ∧ jumped c (getCtx t s.turn) d.pc
    let backTraps := fun (d : Ctx) => ∃ u, exec .rett s = .next (takeTrap u s.turn d.pc 0x03 d.pc)
      ∧ onlyTurn s u ∧ sameRegs d (getCtx u s.turn) ∧ jumped c (getCtx u s.turn) d.pc
    let fromTrap := { c with pc := c.tpc, sm := c.pm, t := false }
    let fromMarker := { c with pc := c.mpc, mkr := false }
    (c.t = true → if c.tpc.toNat % 4 = 0 then back fromTrap else backTraps fromTrap)
    ∧ (c.t = false → c.mkr = true → if c.mpc.toNat % 4 = 0 then back fromMarker else backTraps fromMarker)
    ∧ (c.t = false → c.mkr = false → traps .rett s 0x301 (((encode .rett).headD 0).setWidth 64)))
  ∧ (∀ (s : State) (x : Nat) (h : Deferred) (rest : List Deferred) (target id p : Word) (d : Reg), handlerAt s x target →
    ((getCtx s x).st = .ready → (getCtx s x).held = h :: rest → h.cause % 256 ≠ 0x0E → ∃ t, exec (.deferredTrapEntry x) s = .next t
        ∧ (getCtx t x).held = rest ∧ (getCtx t x).pc = target ∧ (getCtx t x).tpc = (getCtx s x).pc
        ∧ (getCtx t x).tcause = BitVec.ofNat 64 h.cause ∧ (getCtx t x).tval = h.tval ∧ (getCtx t x).t = true
        ∧ (getCtx t x).s = (getCtx s x).s ∧ (getCtx t x).v = (getCtx s x).v ∧ (getCtx t x).fcsr = (getCtx s x).fcsr
        ∧ (∀ y, y ≠ x → getCtx t y = getCtx s y) ∧ sameBytes s t)
    ∧ ((getCtx s x).st = .blocked → (getCtx s x).wait = some (.prom id p d) → p.toNat ≤ nowNs s →
        (getCore s (coreOf x)).xwm < id.toNat → ∃ t, exec (.missedPromise x) s = .next t
        ∧ entersTrap s t x (getCtx s x).pc 0x07 id false target))

/-! ## Scalar floating point -/

/-- R215: the arithmetic of binary32 and binary64. With the rounding mode of the field or of ctl.fcsr, and no binary32 operand that
holds the abandoned encoding, s[d] receives the once-rounded result (binary32 in bits [31:0], the rest zero) and its flags are
set in ctl.fcsr; FFMA adds s[d] with one rounding.

R215: FCVTFF with equal formats returns its operand unchanged and sets no flag, in every mode, but for NaN, which becomes the
canonical NaN: so the one rounding of the model keeps every number that the format holds. -/
def Obligations.FloatArithmeticRounds : Prop :=
  (∀ (s : State) (d a b : Reg) (r : RSel) (f : FFmt) (m : RMode), rselMode (cur s) r = some m →
    let enc := fun (g : Reg) => if f = .f32 then (sreg s g).toNat % 2 ^ 32 else (sreg s g).toNat
    let x := fval (ffmt f) (enc a); let y := fval (ffmt f) (enc b); let z := fval (ffmt f) (enc d)
    let clean := fun (g : Reg) => f = .f32 → isAband (enc g) = false
    let gives := fun (i : Instr) (q : FRes) => writesF i s 4 d (BitVec.ofNat 64 q.w) q.flags
    (clean a → gives (.fsqrt d a r f) (sqrtV (ffmt f) m 0 x))
    ∧ (clean a → clean b → gives (.fadd d a b r f) (addV (ffmt f) m 0 x y) ∧ gives (.fsub d a b r f) (addV (ffmt f) m 0 x (fneg y))
        ∧ gives (.fmul d a b r f) (mulV (ffmt f) m 0 x y) ∧ gives (.fdiv d a b r f) (divV (ffmt f) m 0 x y))
    ∧ (clean a → clean b → clean d → gives (.ffma d a b r f) (fmaV (ffmt f) m 0 x y z)))
  ∧ (∀ (f : FFmt) (m : RMode) (w : Nat), m ≠ .sr → w < 2 ^ fmtBits (ffmt f) →
    cvtFF (ffmt f) (ffmt f) m 0 w
      = if fval (ffmt f) w = .nan true then { w := canonNan (ffmt f), flags := 16 }
        else if fval (ffmt f) w = .nan false then { w := canonNan (ffmt f), flags := 0 }
        else { w := w, flags := 0 })

/-- R215-R216, R167: comparisons write 1 or 0, with NV for a signalling NaN, and for any NaN but in FEQ; FMIN and FMAX; FCLASS writes
exactly one class bit and sets no flag.

R173-R175, R215: conversions to and from integers and between the float formats: FCVTFI writes an i32 sign-extended and an n32
zero-extended, FCVTIF reads its low 32 bits for the 32-bit types.

R164, R182: a rounding field of `.dyn` with a reserved ctl.fcsr.RM is the illegal-instruction trap of the reserved-field sub-cause,
and then a binary32 operand that holds the abandoned encoding is the abandoned-operand trap, with LANE 0xFF and the encoding. -/
def Obligations.FloatComparisonsAndConversions : Prop :=
  (∀ (s : State) (d a b : Reg) (f : FFmt),
    let enc := fun (g : Reg) => if f = .f32 then (sreg s g).toNat % 2 ^ 32 else (sreg s g).toNat
    let x := fval (ffmt f) (enc a); let y := fval (ffmt f) (enc b)
    let clean := fun (g : Reg) => f = .f32 → isAband (enc g) = false
    let nan := anyNan [x, y]; let sig := anySig [x, y]
    (clean a → clean b →
      writesF (.feq d a b f) s 4 d (if nan = false ∧ eqV x y = true then 1 else 0) (if sig = true then 16 else 0)
      ∧ writesF (.flt d a b f) s 4 d (if nan = false ∧ ltV x y = true then 1 else 0) (if nan = true then 16 else 0)
      ∧ writesF (.fle d a b f) s 4 d (if nan = false ∧ ltV y x = false then 1 else 0) (if nan = true then 16 else 0)
      ∧ writesF (.fmin d a b f) s 4 d (BitVec.ofNat 64 (minMax (ffmt f) false (enc a) (enc b)).w)
          (minMax (ffmt f) false (enc a) (enc b)).flags
      ∧ writesF (.fmax d a b f) s 4 d (BitVec.ofNat 64 (minMax (ffmt f) true (enc a) (enc b)).w)
          (minMax (ffmt f) true (enc a) (enc b)).flags)
    ∧ (clean a → ∃ j < 10, writesF (.fclass d a f) s 4 d (BitVec.ofNat 64 (2 ^ j)) 0
        ∧ (j = 8 ↔ x = .nan true) ∧ (j = 9 ↔ x = .nan false) ∧ (j = 0 ↔ x = .inf true) ∧ (j = 7 ↔ x = .inf false)
        ∧ (j = 3 ∨ j = 4 ↔ isZero x = true)))
  ∧ (∀ (s : State) (d a : Reg) (t : IntTy) (r : RSel) (f g : FFmt) (m : RMode), rselMode (cur s) r = some m →
    let enc := fun (f : FFmt) => if f = .f32 then (sreg s a).toNat % 2 ^ 32 else (sreg s a).toNat
    let clean := fun (f : FFmt) => f = .f32 → isAband (enc f) = false
    let n : Int := match t with
      | .i32 => ((sreg s a).setWidth 32).toInt | .i64 => (sreg s a).toInt
      | .n32 => (((sreg s a).setWidth 32).toNat : Int) | .n64 => ((sreg s a).toNat : Int)
    (clean f → let q := cvtVI (decide (t = .i32 ∨ t = .i64)) (if t = .i32 ∨ t = .n32 then 32 else 64) m 0 (fval (ffmt f) (enc f))
      writesF (.fcvtfi d a t r f) s 4 d
        (if t = .i32 then (BitVec.ofNat 32 q.w).signExtend 64 else if t = .n32 then (BitVec.ofNat 32 q.w).setWidth 64
         else BitVec.ofNat 64 q.w) q.flags)
    ∧ writesF (.fcvtif d a t r f) s 4 d (BitVec.ofNat 64 (cvtIF (ffmt f) m 0 n).w) (cvtIF (ffmt f) m 0 n).flags
    ∧ (clean g → let q := cvtFF (ffmt g) (ffmt f) m 0 (enc g)
        writesF (.fcvtff d a g r f) s 4 d (BitVec.ofNat 64 q.w) q.flags))
  ∧ (∀ (s : State) (d a b : Reg) (r : RSel) (f : FFmt),
    (r = .dyn → 5 ≤ bits (cur s).fcsr 8 3 → ∀ i ∈ [Instr.fadd d a b r f, .fsub d a b r f, .fmul d a b r f, .ffma d a b r f,
        .fdiv d a b r f, .fsqrt d a r f], traps i s 0x301 (wordVal i))
    ∧ ((rselMode (cur s) r).isSome → isAband ((sreg s a).toNat % 2 ^ 32) = true →
        ∀ i ∈ [Instr.fadd d a b r .f32, .fsub d a b r .f32, .fmul d a b r .f32, .ffma d a b r .f32, .fdiv d a b r .f32,
          .fsqrt d a r .f32, .fmin d a b .f32, .fmax d a b .f32, .feq d a b .f32, .flt d a b .f32, .fle d a b .f32, .fclass d a .f32],
        traps i s 0x05 (0xFF#32 ++ (sreg s a).setWidth 32)))

/-! ## Memory -/

/-- R32, R33, R131: where a virtual address leads. The local window is the core's own slice, the cluster window the slices of its
cluster's cores and the module window those of the module, both checked against the launch unless the slice is the issuer's own; a unit
that does not exist is out of range, and everything outside the ranges is a translation fault.

R33, R132, R425, R139: a byte that is out of range loads as zero and records itself once in ctl.oor, and a store to it is dropped;
an unmapped byte is the translation fault, a forbidden one the protection-violation fault, and one with an uncorrectable error
the ECC fault, at its address and with no effect but, of DRAM, the count of its stack; so is one whose table entry has such an error
(R29, R47).

R37, R43, R71, R242: an access through a page is checked against its leaf, and leads to DRAM of this module, to host memory from the host
window base on, or to a peer of the job; through a tracked page, by the state that this module has of the token. -/
def Obligations.AddressesAreMapped : Prop :=
  (∀ (s : State) (a : Acc) (va : Word), let v := va.toNat; a.own = false →
    let slice := fun (k o : Nat) => if k = a.core ∨ (launchOf s k = launchOf s a.core ∧ (launchOf s k).isSome) then
      Loc.cell (sliceKey k o) else .prot
    (v < 0x40000 → resolve s a va = .cell (sliceKey a.core v))
    ∧ (0x1000000 ≤ v → v < 0x1C00000 → resolve s a va = slice (48 * (a.core / 48) + (v - 0x1000000) / 0x40000) (v % 0x40000))
    ∧ (0x100000000 ≤ v → v < 0x180000000 → ∀ die clus core : Nat, die = v / 2 ^ 29 % 4 → clus = v / 2 ^ 24 % 32 → core = v / 2 ^ 18 % 64 →
        resolve s a va = if clus < 24 ∧ core < 48 then slice (1152 * die + 48 * clus + core) (v % 0x40000) else .oor)
    ∧ ((0x40000 ≤ v ∧ v < 0x1000000) ∨ (0x1C00000 ≤ v ∧ v < 0x100000000) ∨ (0x180000000 ≤ v ∧ v < 2 ^ 40) ∨ 2 ^ 47 ≤ v →
        resolve s a va = .xlate))
  ∧ (∀ (s : State) (d a : Reg) (i : BitVec 14), (cur s).answers = [] → let ea := sreg s a + i.signExtend 64
    let oor := fun (kind : Nat) => if bits (cur s).oor 63 1 = 1 then (cur s).oor
      else BitVec.ofNat 64 (2 ^ 63 + kind * 2 ^ 61 + ea.toNat % 2 ^ 48)
    (cur s).holds = [] →
    (resolve s (accOf s .load) ea = .oor → ∃ t, exec (.ldbu d a i) s = .next t ∧ sameBytes s t
        ∧ (getCtx t s.turn).oor = oor 0
        ∧ (∀ r, sread (getCtx t s.turn) r = if r = d ∧ r ≠ 0 then 0 else sread (cur s) r))
    ∧ (resolve s (accOf s .store) ea = .oor → ∃ t, exec (.stb d a i) s = .next t ∧ sameBytes s t
        ∧ (getCtx t s.turn).oor = oor 1 ∧ (∀ r, sread (getCtx t s.turn) r = sread (cur s) r))
    ∧ (resolve s (accOf s .load) ea = .xlate → faults (.ldbu d a i) s 0x20 ea)
    ∧ (resolve s (accOf s .store) ea = .xlate → faults (.stb d a i) s 0x20 ea)
    ∧ (resolve s (accOf s .load) ea = .prot → faults (.ldbu d a i) s 0x21 ea)
    ∧ (resolve s (accOf s .store) ea = .prot → faults (.stb d a i) s 0x21 ea)
    ∧ (resolve s (accOf s .store) ea = .token → traps (.stb d a i) s 0x08 ea)
    ∧ (∀ k, resolve s (accOf s .load) ea = .cell k → poisoned s k = true →
        ((sliceOfKey k).isSome → faults (.ldbu d a i) s 0x22 ea)
        ∧ (sliceOfKey k = none → exec (.ldbu d a i) s = .next (raiseFault (countUp s (0x041008 + 16 * dramStack k) 1) s.turn 0x122 ea)))
    ∧ (∀ k, resolve s (accOf s .load) ea = .bad k → sliceOfKey k = none →
        exec (.ldbu d a i) s = .next (raiseFault (countUp s (0x041008 + 16 * dramStack k) 1) s.turn 0x122 ea)))
  ∧ (∀ (s : State) (a : Acc) (va : Word) (p : Page) (r : Region), let v := va.toNat; 2 ^ 40 ≤ v → v < 2 ^ 47 → a.slice = false →
    translate s a (launchRec s a.core).ptroot v = .page p →
    let bit := fun (n : Nat) => p.ent.toNat / 2 ^ n % 2 = 1; let pa := p.pa + v % p.size; let type := pa / 2 ^ 52; let node := pa / 2 ^ 40 % 2 ^ 12
    let off := pa % 2 ^ 39; let reads := a.kind = .load ∨ a.kind = .engRead ∨ a.kind = .amo; let writes := a.kind = .store ∨ a.kind = .engWrite ∨ a.kind = .amo
    let barred := (a.priv = false ∧ ¬bit 5) ∨ (reads ∧ ¬bit 2) ∨ (writes ∧ ¬bit 3) ∨ (a.kind = .fetch ∧ ¬bit 4)
    let here := type = 0 ∨ (type = 2 ∧ node = myNode s); let far := type = 2 ∧ node ≠ myNode s; let leads := fun (l : Loc) => resolve s a va = l
    (barred → leads .prot)
    ∧ (¬barred → here → ¬bit 6 → leads (.cell (dramKey off)))
    ∧ (¬barred → here → bit 6 → regionOf s v = some r → let state := r.own[tokenIx r v]
        (state = .excl → leads (.cell (dramKey off)))
        ∧ (state = .dup → leads (if a.kind = .engWrite then .prot else if writes then .token else .cell (dramKey off)))
        ∧ (state = .none → leads (.home r.home (decide (bit 7)))))
    ∧ (¬barred → type = 1 → ¬bit 6 → s.hwOld = none →
        leads (if a.kind = .engRead ∨ a.kind = .amo then .prot else .cell (hostKey (((bar s 0x010000).toNat + off) % 2 ^ 64))))
    ∧ (¬barred → far → jobNode s node = false → leads .prot)
    ∧ (¬barred → far → jobNode s node = true → ¬bit 6 → leads (if a.kind = .engRead then .prot else .peer node off (decide (bit 7)))))

/-- R235, R236: the loads, at any alignment: s[d] receives the bytes at the address, zero- or sign-extended, the first byte the least
significant; a load into s0 completes and writes nothing.

R235, R236: the stores, at any alignment: the low bytes of s[d] are stored from the address on, and every byte outside them, every
register and every flag is as before.

R237: LDAQ and STRL access s[a]; an address that is not a multiple of the size is the misalignment trap with the address as its
value; a release whose peer stores are not acknowledged waits for them (R238, R65). -/
def Obligations.LoadsAndStores : Prop :=
  (∀ (s : State) (d a : Reg) (i : BitVec 14) (key : Nat → Nat), let at_ := located s .load (sreg s a + i.signExtend 64)
    let b := fun (n : Nat) => BitVec.ofNat (8 * n) (cellsNat s key n)
    (at_ 1 key → loads (.ldb d a i) s d ((b 1).signExtend 64) ∧ loads (.ldbu d a i) s d ((b 1).setWidth 64))
    ∧ (at_ 2 key → loads (.ldh d a i) s d ((b 2).signExtend 64) ∧ loads (.ldhu d a i) s d ((b 2).setWidth 64))
    ∧ (at_ 4 key → loads (.ldw d a i) s d ((b 4).signExtend 64) ∧ loads (.ldwu d a i) s d ((b 4).setWidth 64))
    ∧ (at_ 8 key → loads (.ldd d a i) s d (b 8)))
  ∧ (∀ (s : State) (d a : Reg) (i : BitVec 14) (key : Nat → Nat), let at_ := located s .store (sreg s a + i.signExtend 64)
    (at_ 1 key → stores (.stb d a i) s key 1 (sreg s d)) ∧ (at_ 2 key → stores (.sth d a i) s key 2 (sreg s d))
    ∧ (at_ 4 key → stores (.stw d a i) s key 4 (sreg s d)) ∧ (at_ 8 key → stores (.std d a i) s key 8 (sreg s d)))
  ∧ (∀ (s : State) (d a : Reg) (sc : Scope) (z : Size) (key : Nat → Nat), let n := sizeBytes z; let ea := sreg s a
    (ea.toNat % n ≠ 0 → traps (.ldaq d a sc z) s 0x03 ea ∧ traps (.strl d a sc z) s 0x03 ea)
    ∧ (ea.toNat % n = 0 → located s .load ea n key → loads (.ldaq d a sc z) s d (BitVec.ofNat 64 (cellsNat s key n)))
    ∧ (ea.toNat % n = 0 → ((cur s).acks = [] ∨ sc = .ctx) → located s .store ea n key → stores (.strl d a sc z) s key n (sreg s d))
    ∧ (ea.toNat % n = 0 → (cur s).acks ≠ [] → sc ≠ .ctx → blocks (.strl d a sc z) s .acks))

/-- R239, R240: AMO reads the old value into s[d], zero-extended, and writes the new one in one step; FMAX writes only a number above
the old one under its order, in which the abandoned encoding is least and -0 lies below +0, and never a NaN.

R241: CAS compares the bytes with s[d] and writes s[n] where they are equal; in every case s[d] receives the old value. -/
def Obligations.Atomics : Prop :=
  (∀ (s : State) (d a v : Reg) (o : AmoOp) (z : Size) (sc : Scope) (key : Nat → Nat), let n := sizeBytes z; let ea := sreg s a
    let x := (sreg s v).toNat % 2 ^ (8 * n); let old := cellsNat s key n
    let sgn := fun (y : Nat) => (BitVec.ofNat (8 * n) y).toInt
    let put := fun (w : Nat) => storesAnd (.amo d a v o z sc) s key n (BitVec.ofNat 64 w) d (BitVec.ofNat 64 old)
    let keep := loads (.amo d a v o z sc) s d (BitVec.ofNat 64 old)
    (ea.toNat % n ≠ 0 → traps (.amo d a v o z sc) s 0x03 ea)
    ∧ (ea.toNat % n = 0 → located s .amo ea n key → ((cur s).acks = [] ∨ sc = .ctx) →
        match o with
        | .add => put (old + x)
        | .and => put (old &&& x)
        | .or => put (old ||| x)
        | .xor => put (old ^^^ x)
        | .min => put (if sgn x < sgn old then x else old)
        | .max => put (if sgn x < sgn old then old else x)
        | .minu => put (min x old)
        | .maxu => put (max x old)
        | .swap => put x
        | .fadd => 4 ≤ n → (n = 4 → isAband x = false ∧ isAband old = false) →
            put (addV (if n = 4 then fmt32 else fmt64) .rne 0 (fval (if n = 4 then fmt32 else fmt64) old)
              (fval (if n = 4 then fmt32 else fmt64) x)).w
        | .fmax => 4 ≤ n → if aboveT (if n = 4 then .f32 else .f64) x old = true then put x else keep)
    ∧ (ea.toNat % n = 0 → located s .amo ea n key → ((cur s).acks = [] ∨ sc = .ctx) → o = .fadd → n = 4 →
        (isAband x = true → traps (.amo d a v o z sc) s 0x05 (BitVec.ofNat 64 (0xFF * 2 ^ 32 + x)))
        ∧ (isAband x = false → isAband old = true → traps (.amo d a v o z sc) s 0x05 (BitVec.ofNat 64 (0xFF * 2 ^ 32 + old)))))
  ∧ (∀ (s : State) (d a m : Reg) (z : Size) (sc : Scope) (key : Nat → Nat), let n := sizeBytes z; let ea := sreg s a
    let old := cellsNat s key n
    (ea.toNat % n ≠ 0 → traps (.cas d a m z sc) s 0x03 ea)
    ∧ (ea.toNat % n = 0 → located s .amo ea n key → ((cur s).acks = [] ∨ sc = .ctx) →
        (old = (sreg s d).toNat % 2 ^ (8 * n) → storesAnd (.cas d a m z sc) s key n (sreg s m) d (BitVec.ofNat 64 old))
        ∧ (old ≠ (sreg s d).toNat % 2 ^ (8 * n) → loads (.cas d a m z sc) s d (BitVec.ofNat 64 old))))

/-! ## Vectors -/

/-- R263-R265, R268, R269: VADD, VSUB, VMUL and the fused forms on every element type: an active element receives the sum, difference
or product, for floats rounded once, for integers modulo 2^w; inactive elements keep their value and set no flag.

R268, R270: minima and maxima, signed under i types, of floats by R167; the absolute value and the negative, exact for floats but
for NaN, which becomes the canonical NaN; and, for integer types, the high half of the product and the shifts by y mod w.

R280: VDOT4 adds to each active 32-bit group the products of its elements: integers wrap modulo 2^32, floats are summed exactly with
the binary32 accumulator and rounded once. -/
def Obligations.VectorArithmeticAndOrder : Prop :=
  (∀ (s : State) (d a : Reg) (b : BSrc) (p : PReg) (x : XMode) (t : ETy) (m : RMode), vtype (cur s) = some t → rounds s t x m →
    plainRegs s (d :: a :: bRegs b) →
    let f := fmtOf t; let u := elem (vfile (cur s) a) (tyWidth t); let v := bElem s t b; let z := elem (vfile (cur s) d) (tyWidth t)
    let val := fun (n : Nat) => fval f n
    let rule := fun (i : Instr) (fl : Nat → FRes) (int : Nat → Int) =>
      elementwise i s (bLen b) t d p (bFlags s t b (preg s p)) (fun j => if isFloat t then fl j else { w := (int j % 2 ^ 32).toNat, flags := 0 })
    (noAband s t (a :: bRegs b) (some b) p →
      rule (.vadd d a b p x) (fun j => addV f m 0 (val (u j)) (val (v j))) (fun j => u j + v j)
      ∧ rule (.vsub d a b p x) (fun j => addV f m 0 (val (u j)) (fneg (val (v j)))) (fun j => u j - v j)
      ∧ rule (.vmul d a b p x) (fun j => mulV f m 0 (val (u j)) (val (v j))) (fun j => u j * v j))
    ∧ (noAband s t (d :: a :: bRegs b) (some b) p →
      rule (.vfma d a b p x) (fun j => fmaV f m 0 (val (u j)) (val (v j)) (val (z j))) (fun j => u j * v j + z j)
      ∧ rule (.vfms d a b p x) (fun j => fmaV f m 0 (val (u j)) (val (v j)) (fneg (val (z j)))) (fun j => u j * v j - z j)
      ∧ rule (.vfnma d a b p x) (fun j => fmaV f m 0 (fneg (val (u j))) (val (v j)) (val (z j))) (fun j => z j - u j * v j)))
  ∧ (∀ (s : State) (d a : Reg) (b : BSrc) (p : PReg) (t : ETy), vtype (cur s) = some t → plainRegs s (d :: a :: bRegs b) →
    let f := fmtOf t; let w := tyWidth t; let u := elem (vfile (cur s) a) w; let v := bElem s t b
    let sg := fun (n : Nat) => decI (isSigned t) w n
    let int := fun (n : Int) => ({ w := (n % 2 ^ 32).toNat, flags := 0 } : FRes)
    let rule := fun (i : Instr) (q : Nat → FRes) => elementwise i s (bLen b) t d p (bFlags s t b (preg s p)) q
    (noAband s t (a :: bRegs b) (some b) p →
      rule (.vmin d a b p) (fun j => if isFloat t then minMax f false (u j) (v j) else int (min (sg (u j)) (sg (v j))))
      ∧ rule (.vmax d a b p) (fun j => if isFloat t then minMax f true (u j) (v j) else int (max (sg (u j)) (sg (v j)))))
    ∧ (noAband s t [a] none p →
      elementwise (.vabs d a p) s 4 t d p 0 (fun j => if isFloat t then
          (match fval f (u j) with
           | .nan g => { w := canonNan f, flags := if g then 16 else 0 }
           | _ => { w := u j % 2 ^ (f.eb + f.fb), flags := 0 })
        else int (sg (u j)).natAbs)
      ∧ elementwise (.vneg d a p) s 4 t d p 0 (fun j => if isFloat t then
          (match fval f (u j) with
           | .nan g => { w := canonNan f, flags := if g then 16 else 0 }
           | _ => { w := u j ^^^ 2 ^ (f.eb + f.fb), flags := 0 })
        else int (-(u j : Int))))
    ∧ (isFloat t = false →
      rule (.vmulh d a b p) (fun j => int (sg (u j) * sg (v j) / 2 ^ w))
      ∧ rule (.vshl d a b p) (fun j => int (u j * 2 ^ (v j % w)))
      ∧ rule (.vshr d a b p) (fun j => int (u j / 2 ^ (v j % w)))
      ∧ rule (.vsra d a b p) (fun j => int (decI true w (u j) / 2 ^ (v j % w)))))
  ∧ (∀ (s : State) (d a : Reg) (b : BSrc) (p : PReg) (x : XMode) (t : ETy) (m : RMode), vtype (cur s) = some t →
    t ≠ .i32 → t ≠ .n32 → t ≠ .fp32 → rounds s t x m → plainRegs s (d :: a :: bRegs b) →
    (isFloat t = true → ∀ g < 16, pbit (preg s p) g = true → isAband (elem (vfile (cur s) d) 32 g) = false) →
    let w := tyWidth t; let k := 32 / w; let z := elem (vfile (cur s) d) 32
    let pairs := fun (g : Nat) => (List.range k).map (fun j => (elem (vfile (cur s) a) w (g * k + j), elem (bVec s b) w (g * k + j)))
    let q := fun (g : Nat) =>
      if isFloat t then dotFloat m 0 (fval fmt32 (z g)) ((pairs g).map (fun (e : Nat × Nat) => (fval (fmtOf t) e.1, fval (fmtOf t) e.2)))
      else { w := ((((pairs g).map (fun (e : Nat × Nat) => decI (isSigned t) w e.1 * decI (isSigned t) w e.2)).sum + z g) % 2 ^ 32).toNat, flags := 0 }
    ∃ v : Vec, (∀ g < 16, elem v 32 g = if pbit (preg s p) g then (q g).w % 2 ^ 32 else z g)
      ∧ leaves (.vdot4 d a b p x) s (bLen b) (withV (cur s) d v (orFlags 16 (pbit (preg s p)) q)))

/-- R271, R286: a comparison writes, for each active group, whether it holds for every element of the group; other bits keep their
value. VVCMP compares binary32, an abandoned element counting as an infinity of its sign.

R272, R286: VAND, VOR and VXOR act on the active 32-bit groups whatever the type; VSEL takes each group from v[a] or from b by its
bit; VVSEL replaces the abandoned elements of active groups by b.

R288, R168, R287: the float immediates act on every element with the immediate as the high bits of a binary32, converted to the
type, by ctl.fcsr.RM; the predicate operations and PSETN. -/
def Obligations.VectorComparisonsLogicAndPredicates : Prop :=
  (∀ (s : State) (d : PReg) (a : Reg) (b : BSrc) (p : PReg) (t : ETy), vtype (cur s) = some t → plainRegs s (a :: bRegs b) →
    let w := tyWidth t; let u := elem (vfile (cur s) a) w; let v := bElem s t b
    let holds := fun (c : FCmp) (j : Nat) => cmpElem c t (u j) (v j)
    let rule := fun (i : Instr) (c : FCmp) => fillsP i s (bLen b) d
      (orFlags (512 / w) (active (preg s p) w) (holds c) ||| bFlags s t b (preg s p))
      (fun g => if pbit (preg s p) g then (List.range (32 / w)).all (fun k => (holds c (g * (32 / w) + k)).w == 1) else pbit (preg s d) g)
    (noAband s t (a :: bRegs b) (some b) p →
      rule (.vcmpeq d a b p) .eq ∧ rule (.vcmplt d a b p) .lt ∧ rule (.vcmple d a b p) .le)
    ∧ (t = .fp32 → let q := fun (g : Nat) => geAband (u g) (elem (bVec s b) 32 g)
        fillsP (.vvcmp d a b p) s (bLen b) d (orFlags 16 (pbit (preg s p)) q)
          (fun g => if pbit (preg s p) g then (q g).w == 1 else pbit (preg s d) g)))
  ∧ (∀ (s : State) (d a : Reg) (b : BSrc) (p : PReg), plainRegs s (d :: a :: bRegs b) →
    let u := elem (vfile (cur s) a) 32; let v := elem (bVec s b) 32; let z := elem (vfile (cur s) d) 32; let on := pbit (preg s p)
    fillsV (.vand d a b p) s (bLen b) 32 d (fun g => if on g then u g &&& v g else z g)
    ∧ fillsV (.vor d a b p) s (bLen b) 32 d (fun g => if on g then u g ||| v g else z g)
    ∧ fillsV (.vxor d a b p) s (bLen b) 32 d (fun g => if on g then u g ^^^ v g else z g)
    ∧ fillsV (.vsel d a b p) s (bLen b) 32 d (fun g => if on g then u g else v g)
    ∧ (vtype (cur s) = some .fp32 →
        fillsV (.vvsel d a b p) s (bLen b) 32 d (fun g => if on g then (if isAband (u g) then v g else u g) else z g)))
  ∧ (∀ (s : State) (d : Reg) (i : BitVec 20) (t : ETy) (m : RMode) (e a b : PReg) (g : Reg),
    (vtype (cur s) = some t → isFloat t = true → plainRegs s [d] → isAband (i.toNat * 2 ^ 12) = false →
      let f := fmtOf t; let u := elem (vfile (cur s) d) (tyWidth t); let k := bcast t (i.toNat * 2 ^ 12)
      let all := fun (j : Instr) (q : Nat → FRes) => ∃ v : Vec,
        (∀ n < 512 / tyWidth t, elem v (tyWidth t) n = (q n).w % 2 ^ tyWidth t)
          ∧ leaves j s 4 (withV (cur s) d v (orFlags (512 / tyWidth t) (fun _ => true) q ||| k.flags))
      all (.vmovi d i) (fun _ => { w := k.w, flags := 0 })
      ∧ ((t = .fp32 → ∀ n < 16, isAband (u n) = false) →
          all (.vfmini d i) (fun n => minMax f false (u n) k.w) ∧ all (.vfmaxi d i) (fun n => minMax f true (u n) k.w)
          ∧ (dynMode (cur s) = some m →
              all (.vfaddi d i) (fun n => addV f m 0 (fval f (u n)) (fval f k.w))
              ∧ all (.vfmuli d i) (fun n => mulV f m 0 (fval f (u n)) (fval f k.w))
              ∧ all (.vfrsubi d i) (fun n => addV f m 0 (fval f k.w) (fneg (fval f (u n)))))))
    ∧ writesP (.pand e a b) s 4 e (preg s a &&& preg s b) ∧ writesP (.por e a b) s 4 e (preg s a ||| preg s b)
    ∧ writesP (.pxor e a b) s 4 e (preg s a ^^^ preg s b) ∧ writesP (.pnot e a) s 4 e (~~~preg s a)
    ∧ ∃ v, writesP (.psetn e g) s 4 e v ∧ ∀ j < 16, v.getLsbD j = decide (j < (sreg s g).toNat))

/-- R273, R274: VCVT converts between the type of ctl.vfmt and its own: destination element j comes from source element j - PART·ns or
j + PART·nd, where there is one and its group is active; with SC the exact product with the scale is converted, with one rounding. A
PART beyond the limit, and SC between integer types, are reserved.

R187, R275: the reductions combine neighbours in a tree of ascending order over all the elements of v[a], an inactive one standing
as the identity, and write the result to element 0 of v[d] and zero to every other bit.

R276-R278: the moves of elements and of groups; v[a] and v[b] are read whole before any write.

R278, R279, R180: an element extracted into s[d], sign-extended under i types; the bitmap and the count of the active elements whose
bits are not all zero; the class numbers of float elements. -/
def Obligations.VectorMovesConversionsAndReductions : Prop :=
  (∀ (s : State) (d a : Reg) (sc : Bool) (t src : ETy) (n : BitVec 2) (p : PReg) (x : XMode) (m : RMode),
    vtype (cur s) = some src → m ≠ .sr → (if isFloat src || isFloat t then xMode (cur s) x = some m else x = .dyn ∧ m = .rne) →
    let ws := tyWidth src; let wd := tyWidth t; let i := Instr.vcvt d a sc t n p x
    let from_ := fun (j : Nat) => if wd ≤ ws then (j : Int) - n.toNat * (512 / ws) else (j : Int) + n.toNat * (512 / wd)
    let scale := (sreg s d).toNat % 2 ^ 32
    let q := fun (j : Nat) => cvtElem src t m (if sc then some scale else none) 0 (elem (vfile (cur s) a) ws (from_ j).toNat)
    let on := fun (j : Nat) => decide (0 ≤ from_ j) && decide (from_ j < 512 / ws) && pbit (preg s p) (j * wd / 32)
    ((if ws = wd then 1 else max ws wd / min ws wd) ≤ n.toNat ∨ (sc = true ∧ isFloat src = false ∧ isFloat t = false) →
        traps i s 0x301 (wordVal i))
    ∧ (n.toNat < (if ws = wd then 1 else max ws wd / min ws wd) → (sc = true → isFloat src = true ∨ isFloat t = true) →
        plainRegs s [d, a] → (sc = true → isAband scale = false) →
        (src = .fp32 → ∀ j < 512 / wd, on j = true → isAband (elem (vfile (cur s) a) ws (from_ j).toNat) = false) →
        ∃ v : Vec, (∀ j < 512 / wd, elem v wd j = if on j then (q j).w % 2 ^ wd else elem (vfile (cur s) d) wd j)
          ∧ leaves i s 4 (withV (cur s) d v (orFlags (512 / wd) on q))))
  ∧ (∀ (s : State) (d a : Reg) (p : PReg) (x : XMode) (t : ETy) (m : RMode), vtype (cur s) = some t → plainRegs s [d, a] →
    noAband s t [a] none p →
    let w := tyWidth t; let n := 512 / w
    let leaf := fun (rd : Red) (j : Nat) => if active (preg s p) w j then elem (vfile (cur s) a) w j else redId rd t
    let op := fun (rd : Red) (u v : Nat) => if isFloat t then (redTop rd).float (fmtOf t) m 0 u v 0
      else { w := (redTop rd).int (isSigned t) w u v 0, flags := 0 }
    let rule := fun (i : Instr) (rd : Red) => ∃ (lv : Nat → Nat → FRes),
      (∀ j < n, (lv 0 j) = { w := leaf rd j, flags := 0 })
      ∧ (∀ k < n.log2, ∀ j < n / 2 ^ (k + 1), lv (k + 1) j = op rd (lv k (2 * j)).w (lv k (2 * j + 1)).w)
      ∧ ∃ f, leaves i s 4 (withV (cur s) d (BitVec.ofNat 512 (lv n.log2 0).w) f)
          ∧ f = (List.range n.log2).foldl (fun f k => f ||| orFlags (n / 2 ^ (k + 1)) (fun _ => true) (lv (k + 1))) 0
    (rounds s t x m → rule (.vrsum d a p x) .sum) ∧ rule (.vrmax d a p) .max ∧ rule (.vrmin d a p) .min)
  ∧ (∀ (s : State) (d a b : Reg) (p : PReg), let c := cur s
    let on := pbit (preg s p); let g := elem (vfile c a) 32; let z := elem (vfile c d) 32
    let rank := fun (j : Nat) => ((List.range j).filter on).length
    (plainRegs s [d, a] →
      fillsV (.vcmprs d a p) s 4 32 d (fun j => match ((List.range 16).filter on)[j]? with | some k => g k | none => 0)
      ∧ fillsV (.vexpnd d a p) s 4 32 d (fun j => if on j then g (rank j) else z j))
    ∧ ∀ t, vtype c = some t → let w := tyWidth t; let n := 512 / w; let u := elem (vfile c a) w; let act := active (preg s p) w
      let k := fun (j : Nat) => (j : Int) + (sreg s b).toInt
      (plainRegs s [d, a, b] → fillsV (.vperm d a b p) s 4 w d (fun j =>
          if act j then u (elem (vfile c b) w j % n) else elem (vfile c d) w j))
      ∧ (plainRegs s [d, a] →
          fillsV (.vbcast d a b p) s 4 w d (fun j => if act j then u ((sreg s b).toNat % n) else elem (vfile c d) w j)
          ∧ fillsV (.vslide d a b p) s 4 w d (fun j =>
              if act j then (if 0 ≤ k j ∧ k j < n then u (k j).toNat else 0) else elem (vfile c d) w j))
      ∧ (plainRegs s [d] → fillsV (.vmovsIns d a b) s 4 w d (fun j =>
          if j = (sreg s b).toNat % n then (sreg s a).toNat % 2 ^ w else elem (vfile c d) w j)))
  ∧ (∀ (s : State) (d a b : Reg) (p : PReg) (t : ETy), vtype (cur s) = some t → plainRegs s [a] →
    let w := tyWidth t; let n := 512 / w; let u := elem (vfile (cur s) a) w
    let nz := fun (j : Nat) => active (preg s p) w j && decide (u j ≠ 0)
    writesS (.vmovsExt d a b) s 4 d (BitVec.ofInt 64 (decI (isSigned t) w (u ((sreg s b).toNat % n))))
    ∧ (∃ v, writesS (.vnz d a p) s 4 d v ∧ ∀ j < 64, v.getLsbD j = (decide (j < n) && nz j))
    ∧ writesS (.vpopc d a p) s 4 d (BitVec.ofNat 64 ((List.range n).filter nz).length)
    ∧ (isFloat t = true → plainRegs s [d, a] → noAband s t [a] none p →
        elementwise (.vclass d a p) s 4 t d p 0 (fun j => { w := classOf (fmtOf t) (u j), flags := 0 })))

/-- R147, R265, R266, R172: what stops a vector instruction before any effect, shown on VADD: an illegal type; a rounding field
that an integer type or ctl.fcsr does not allow; a register of an upper bank that is OFF, with the lowest one named as the value; an
abandoned binary32 element, with its index and encoding. -/
def Obligations.VectorChecks : Prop :=
  ∀ (s : State) (d a b : Reg) (p : PReg) (x : XMode), let i := Instr.vadd d a (.vreg b) p x
    (vtype (cur s) = none → traps i s 0x401 (wordVal i))
    ∧ (∀ t, vtype (cur s) = some t → isFloat t = false → x ≠ .dyn → traps i s 0x301 (wordVal i))
    ∧ (∀ t, vtype (cur s) = some t → isFloat t = true → x = .dyn → dynMode (cur s) = none → traps i s 0x301 (wordVal i))
    ∧ (∀ t m, vtype (cur s) = some t → rounds s t x m → (cur s).ub = 2 → 16 ≤ d.toNat → a.toNat < 16 → b.toNat < 16 →
        traps i s 0x0C (d.setWidth 64))
    ∧ (∀ m k, vtype (cur s) = some .fp32 → rounds s .fp32 x m → plainRegs s [d, a, b] → k < 16 → pbit (preg s p) k = true →
        isAband (elem (vfile (cur s) a) 32 k) = true →
        (∀ j < k, pbit (preg s p) j = true → isAband (elem (vfile (cur s) a) 32 j) = false ∧ isAband (elem (vfile (cur s) b) 32 j) = false) →
        traps i s 0x05 (BitVec.ofNat 64 (k * 2 ^ 32 + elem (vfile (cur s) a) 32 k)))

/-- R283, R284: an instruction of the special-function unit whose queue has room reads and checks its operands at issue, joins the queue
with the once-rounded result of every active element, and its context is blocked at its own address; nothing is written yet.

R283: the results of special operands, in every format but E4M3, which has no infinities, and in every rounding mode.

R284: a free unit takes the oldest request that waits; 20 cycles after its service began, the result, its flags and its stochastic
steps are committed, the request leaves the queue and its context is READY after the instruction. -/
def Obligations.SpecialFunctions : Prop :=
  (∀ (s : State) (d a : Reg) (b : BSrc) (p : PReg) (x : XMode) (t : ETy) (m : RMode), vtype (cur s) = some t → isFloat t = true →
    rounds s t x m → plainRegs s (d :: a :: bRegs b) → noAband s t [a] none p →
    let o := octOf (curCore s); let f := fmtOf t; let w := tyWidth t; let act := active (preg s p) w
    let u := fun (j : Nat) => fval f (elem (vfile (cur s) a) w j)
    (getOct s o).sfuq.length < 16 →
    let queues := fun (i : Instr) (e : Nat) (q : Nat → FRes) => ∃ u r v, exec i s = .next u
      ∧ { u with ctxs := s.ctxs, octs := s.octs, nonce := s.nonce } = s ∧ sameBytes s u ∧ (∀ x, x ≠ s.turn → getCtx u x = getCtx s x)
      ∧ (getCtx u s.turn).st = .blocked ∧ (getCtx u s.turn).wait = some .sfu
      ∧ { getCtx u s.turn with st := (cur s).st, wait := (cur s).wait, blockedAt := (cur s).blockedAt, waitSeq := (cur s).waitSeq } = cur s
      ∧ getOct u o = { getOct s o with sfuq := (getOct s o).sfuq ++ [r] }
      ∧ r.ctx = s.turn ∧ r.i = i ∧ r.begun = none ∧ r.cycles = (if w = 8 ∨ i = .vsqrt d a p x ∨ i = .vdiv d a b p x then 8 else 4)
      ∧ r.res = { v := some (d, v), flags := orFlags (512 / w) act q ||| e }
      ∧ ∀ j < 512 / w, elem v w j = if act j then (q j).w % 2 ^ w else elem (vfile (cur s) d) w j
    queues (.vrcp d a p x) 0 (fun j => rcpV f m 0 (u j)) ∧ queues (.vrsq d a p x) 0 (fun j => rsqV f m 0 (u j))
    ∧ queues (.vexp2 d a p x) 0 (fun j => exp2V f m 0 (u j)) ∧ queues (.vlog2 d a p x) 0 (fun j => log2V f m 0 (u j))
    ∧ queues (.vsin d a p x) 0 (fun j => sinV f m 0 (u j)) ∧ queues (.vcos d a p x) 0 (fun j => cosV f m 0 (u j))
    ∧ queues (.vtanh d a p x) 0 (fun j => tanhV f m 0 (u j)) ∧ queues (.vsqrt d a p x) 0 (fun j => sqrtV f m 0 (u j))
    ∧ (noAband s t (a :: bRegs b) (some b) p →
        queues (.vdiv d a b p x) (bFlags s t b (preg s p)) (fun j => divV f m 0 (u j) (fval f (bElem s t b j)))))
  ∧ (∀ (f : Fmt) (m : RMode) (n : Bool) (e : Int) (k : Nat), f.e4 = false → f ∈ [fmt32, fmtB16, fmt16, fmtE5] → 0 < k →
    let zero := FVal.fin n 0 e; let below := FVal.fin true k e; let nan : FRes := { w := canonNan f, flags := 16 }
    let one := fun (n : Bool) => signBit f n + bias f * 2 ^ f.fb
    rcpV f m 0 zero = { w := infBits f n, flags := 8 } ∧ rcpV f m 0 (.inf n) = { w := signBit f n, flags := 0 }
    ∧ rsqV f m 0 zero = { w := infBits f n, flags := 8 } ∧ rsqV f m 0 below = nan ∧ rsqV f m 0 (.inf false) = { w := 0, flags := 0 }
    ∧ exp2V f m 0 (.inf true) = { w := 0, flags := 0 } ∧ exp2V f m 0 (.inf false) = { w := infBits f false, flags := 0 }
    ∧ exp2V f m 0 zero = { w := one false, flags := 0 }
    ∧ log2V f m 0 zero = { w := infBits f true, flags := 8 } ∧ log2V f m 0 below = nan
    ∧ log2V f m 0 (.inf false) = { w := infBits f false, flags := 0 }
    ∧ sinV f m 0 zero = { w := signBit f n, flags := 0 } ∧ sinV f m 0 (.inf n) = nan
    ∧ cosV f m 0 zero = { w := one false, flags := 0 } ∧ cosV f m 0 (.inf n) = nan
    ∧ tanhV f m 0 zero = { w := signBit f n, flags := 0 } ∧ tanhV f m 0 (.inf n) = { w := one n, flags := 0 }
    ∧ sqrtV f m 0 (.fin true 0 e) = { w := signBit f true, flags := 0 } ∧ sqrtV f m 0 below = nan)
  ∧ (∀ (s : State) (o : Nat) (r : SfuReq) (d : Reg) (v : Vec) (t0 : Nat) (pre post : List SfuReq),
    ((getOct s o).sfuq = r :: post → (∀ e ∈ r :: post, e.begun = none) → ∃ t, exec (.sfuServiceStart o) s = .next t
        ∧ { t with octs := s.octs } = s ∧ (∀ j, j ≠ o → getOct t j = getOct s j)
        ∧ getOct t o = { getOct s o with sfuq := { r with begun := some s.cycle } :: post })
    ∧ ((getOct s o).sfuq = pre ++ r :: post → (∀ e ∈ pre, ∀ t1, e.begun = some t1 → s.cycle < t1 + 20) →
        r.begun = some t0 → t0 + 20 ≤ s.cycle → r.res.v = some (d, v) → r.res.p = none → r.res.s = none → r.res.rng = none →
        plainRegs { s with turn := r.ctx } (d :: r.reads) →
        ∃ t, exec (.sfuResult o) s = .next t ∧ getOct t o = { getOct s o with sfuq := pre ++ post } ∧ (getCtx t r.ctx).st = .ready
          ∧ inSequence (getCtx s r.ctx) (getCtx t r.ctx) (lenOf r.i)
          ∧ sameRegs (withV { getCtx s r.ctx with st := .ready } d v r.res.flags) (getCtx t r.ctx)
          ∧ (∀ y, y ≠ r.ctx → getCtx t y = getCtx s y) ∧ sameBytes s t))

/-- R281, R282: VXCHG reads its source and blocks; 8 cycles after the eighth arrival, all eight destinations are written in one
step, chunk j of core c's result being chunk c of core j's source, and the eight contexts are READY after their VXCHG. An octet with a core
of another launch is the protection-violation fault.

R151, R249-R251: QBIND ends every binding of its register, and binds it to a queue end that no other context of the core holds, or waits
for the end with its own bindings already ended; a write to an enqueue-bound register
appends an entry, which lands when its result is ready; a read of a dequeue-bound register takes the oldest landed entry; QMARK appends a
marker, whose dequeue enters the marker handler; QSTAT counts. -/
def Obligations.ExchangeAndNeighbourQueues : Prop :=
  (∀ (s : State) (d a : Reg) (o : Nat) (x : Nat → Nat) (dst src : Nat → Reg) (val : Nat → Vec) (tm : Nat → Nat), let k := curCore s
    (plainRegs s [d, a] → (∀ j < 8, launchOf s (octOf k * 8 + j) = launchOf s k) → (∀ r ∈ (getOct s (octOf k)).vx, coreOf r.ctx ≠ k) →
      ∃ t, exec (.vxchg d a) s = .next t ∧ (getCtx t s.turn).st = .blocked ∧ (getCtx t s.turn).wait = some .vxchg
        ∧ (getCtx t s.turn).pc = (cur s).pc ∧ (getCtx t s.turn).v = (cur s).v ∧ sameBytes s t
        ∧ getOct t (octOf k) = { getOct s (octOf k) with
            vx := (getOct s (octOf k)).vx ++ [{ ctx := s.turn, d := d, a := a, src := vfile (cur s) a, time := s.cycle }] })
    ∧ (plainRegs s [d, a] → (∃ j < 8, launchOf s (octOf k * 8 + j) ≠ launchOf s k) → faults (.vxchg d a) s 0x21 0)
    ∧ ((getOct s o).vx = (List.range 8).map (fun j => { ctx := x j, d := dst j, a := src j, src := val j, time := tm j }) →
      (∀ j < 8, coreOf (x j) = 8 * o + j ∧ tm j + 8 ≤ s.cycle
        ∧ plainRegs { s with turn := x j } [dst j, src j]) →
      ∃ t, exec (.vxchgComplete o) s = .next t ∧ (getOct t o).vx = [] ∧ sameBytes s t
        ∧ ∀ c < 8, (getCtx t (x c)).st = .ready ∧ inSequence (getCtx s (x c)) (getCtx t (x c)) 4
          ∧ (∀ r, r ≠ dst c → vfile (getCtx t (x c)) r = vfile (getCtx s (x c)) r)
          ∧ ∀ j < 8, elem (vfile (getCtx t (x c)) (dst c)) 64 j = elem (val j) 64 c))
  ∧ (∀ (s : State) (d a b : Reg) (e : QEnd) (hi : Bool) (y : QEntry) (rest : List QEntry) (k : Nat), let c := cur s
    let own := getCore s (curCore s); let at_ := queueAt (curCore s) e; let q := queueOf s at_
    let cleared := c.gens.map (fun y => match y with | some z => if z.reg = d then none else some z | none => none)
    ((c.ub = 0 ∨ d.toNat < 16) → launchOf s at_.1 = launchOf s (curCore s) →
      (∀ i < 11, 16 * curCore s + i ≠ s.turn → (∀ w ∈ (getCtx s (16 * curCore s + i)).qb, w.2 ≠ e)
        ∧ (getCtx s (16 * curCore s + i)).wait ≠ some (.qbind e)) →
      leaves (.qbind d e) s 4 { c with gens := cleared, qb := (c.qb.filter (fun w => decide (w.1 ≠ d))).filter (fun w => decide (w.2 ≠ e)) ++ [(d, e)] })
    ∧ ((c.ub = 0 ∨ d.toNat < 16) → c.qb.find? (fun w => w.1 == d) = some (d, e) → (e = .el ∨ e = .eh) → q.length < 8 →
        ∃ t, exec (.qmark d a) s = .next t ∧ onlyTurnAndCore s t at_.1 ∧ sameRegs c (getCtx t s.turn)
          ∧ inSequence c (getCtx t s.turn) 4
          ∧ queueOf t at_ = q ++ [{ data := 0, marker := some ((sreg s a).setWidth 31), landed := false, ready := s.cycle + 2 }])
    ∧ writesS (.qstat d) s 4 d (BitVec.ofNat 64 (own.ql.countP (·.landed) + 2 ^ 4 * own.qh.countP (·.landed)
        + 2 ^ 8 * (8 - (queueOf s (queueAt (curCore s) .el)).length) + 2 ^ 12 * (8 - (queueOf s (queueAt (curCore s) .eh)).length)
        + 2 ^ 16 * (if markerHead own.ql then 1 else 0) + 2 ^ 17 * (if markerHead own.qh then 1 else 0)))
    ∧ ((c.ub = 0 ∨ d.toNat < 16) → launchOf s at_.1 = launchOf s (curCore s) →
      (∃ i < 11, 16 * curCore s + i ≠ s.turn ∧ (getCtx s (16 * curCore s + i)).st ≠ .free
        ∧ ∃ w ∈ (getCtx s (16 * curCore s + i)).qb, w.2 = e) →
      ∃ t, exec (.qbind d e) s = .next t ∧ onlyTurnAndCore { s with nonce := t.nonce } t (curCore s)
        ∧ (getCtx t s.turn).st = .blocked ∧ (getCtx t s.turn).wait = some (.qbind e) ∧ (getCtx t s.turn).pc = c.pc
        ∧ (getCtx t s.turn).gens = cleared ∧ (getCtx t s.turn).qb = c.qb.filter (fun w => decide (w.1 ≠ d))
        ∧ (getCtx t s.turn).s = c.s ∧ (getCtx t s.turn).v = c.v)
    ∧ (queueOf s (k, hi) = y :: rest → y.landed = false → y.owed = none → y.ready ≤ s.cycle →
        ∃ t, exec (.queueEntryLand k hi) s = .next t ∧ queueOf t (k, hi) = { y with landed := true } :: rest
          ∧ { t with cores := s.cores } = s ∧ ∀ j, j ≠ k → getCore t j = getCore s j)
    ∧ (plainRegs s [a, b] → a ≠ d → b ≠ d → (c.ub = 0 ∨ d.toNat < 16) → (∀ g : Fin 4, ∀ z, c.gens[g] = some z → z.reg ≠ d) →
        c.qb.find? (fun w => w.1 == d) = some (d, e) →
        ((e = .el ∨ e = .eh) → q.length < 8 → ∃ t u, exec (.vand d a (.vreg b) 0) s = .next t ∧ onlyTurnAndCore s t at_.1
          ∧ (∀ j < 16, elem u 32 j = elem (vfile c a) 32 j &&& elem (vfile c b) 32 j)
          ∧ queueOf t at_ = q ++ [{ data := u, marker := none, landed := false, ready := s.cycle + 2 }])
        ∧ ((e = .dl ∨ e = .dh) → q = y :: rest → y.landed = true → y.marker = none →
          ∃ t, exec (.vand a d (.vreg b) 0) s = .next t ∧ onlyTurnAndCore s t at_.1 ∧ queueOf t at_ = rest
            ∧ vfile (getCtx t s.turn) d = y.data
            ∧ ∀ j < 16, elem (vfile (getCtx t s.turn) a) 32 j = elem y.data 32 j &&& elem (vfile c b) 32 j)
        ∧ (∀ m, (e = .dl ∨ e = .dh) → q = y :: rest → y.landed = true → y.marker = some m → c.t = false → c.mkr = false → c.mvec ≠ 0 →
          ∃ t, exec (.vand a d (.vreg b) 0) s = .next t ∧ onlyTurnAndCore s t at_.1 ∧ queueOf t at_ = rest
            ∧ (getCtx t s.turn).pc = c.mvec ∧ (getCtx t s.turn).mpc = c.pc ∧ (getCtx t s.turn).mkr = true
            ∧ (getCtx t s.turn).mrk = BitVec.ofNat 64 (2 * m.toNat + (if at_.2 then 1 else 0)) ∧ (getCtx t s.turn).v = c.v)))

/-- R243, R244: the vector loads of local memory: VLD from s[a] + s[b] on, VLDS at a stride, VGATH at lane offsets within the scratch
windows, each into its active elements; VLDBC copies one element into every active one; VLDK fills entries of the constant bank (R245).

R243, R244: the vector stores of local memory write their active elements and nothing else; where two elements of VSTS or VSCAT lead
to one place, the highest wins.

R246-R248, R150: STRM binds a register to a generator, ending every binding either had; UNBND ends a register's bindings; read-ahead
runs over the next 64 bytes, at most four groups ahead of the pops; an instruction that reads the register pops the head group, whose bytes
it reads as they then are, and the register holds them; one that writes a write-bound register stores the 64 bytes at the next address. -/
def Obligations.VectorMemoryAndStreams : Prop :=
  (∀ (s : State) (d a b : Reg) (p : PReg) (n : BitVec 5) (key : Nat → Nat → Nat), let c := cur s
    let old := fun (w j : Nat) => elem (vfile c d) w j; let on := fun (g : Nat) => decide (g < 16) && pbit (preg s p) g
    let group := fun (g : Nat) => sreg s a + sreg s b + 4 * BitVec.ofNat 64 g
    let lane := fun (g : Nat) => sreg s a + (BitVec.ofNat 32 (elem (vfile c b) 32 g)).setWidth 64
    (plainRegs s [d] → locatedElems s .load 4 on group key →
      loadsV (.vld d a b p) s 32 d (fun g => if on g then cellsNat s (key g) 4 else old 32 g))
    ∧ (plainRegs s [d, b] → locatedElems s .load 4 on lane key → (∀ g < 16, on g = true → (lane g).toNat + 4 ≤ 2 ^ 40) →
      loadsV (.vgath d a b p) s 32 d (fun g => if on g then cellsNat s (key g) 4 else old 32 g))
    ∧ (∀ t, vtype c = some t → plainRegs s [d] →
      let w := tyWidth t; let act := fun (j : Nat) => decide (j < 512 / w) && active (preg s p) w j
      (locatedElems s .load (w / 8) act (fun j => sreg s a + BitVec.ofNat 64 j * sreg s b) key →
        loadsV (.vlds d a b p) s w d (fun j => if act j then cellsNat s (key j) (w / 8) else old w j))
      ∧ (preg s p ≠ 0 → locatedElems s .load (w / 8) (fun j => decide (j = 0)) (fun _ => sreg s a + sreg s b) key →
        loadsV (.vldbc d a b p) s w d (fun j => if act j then cellsNat s (key 0) (w / 8) else old w j)))
    ∧ (d.toNat + n.toNat < 32 → (sreg s a).toNat % 4 = 0 →
        locatedElems s .load 4 (fun j => decide (j ≤ n.toNat)) (fun j => sreg s a + 4 * BitVec.ofNat 64 j) key →
        ∃ t, exec (.vldk d a n) s = .next t ∧ onlyMemory s t ∧ sameBytes s t ∧ inSequence c (getCtx t s.turn) 4
          ∧ (∀ r : Reg, kread (getCtx t s.turn) r = if d.toNat ≤ r.toNat ∧ r.toNat ≤ d.toNat + n.toNat
              then BitVec.ofNat 32 (cellsNat s (key (r.toNat - d.toNat)) 4) else kread c r)
          ∧ sameRegs c { getCtx t s.turn with k := c.k }))
  ∧ (∀ (s : State) (d a b : Reg) (p : PReg) (key : Nat → Nat → Nat), let c := cur s
    let on := fun (g : Nat) => decide (g < 16) && pbit (preg s p) g
    let group := fun (g : Nat) => sreg s a + sreg s b + 4 * BitVec.ofNat 64 g
    let lane := fun (g : Nat) => sreg s a + (BitVec.ofNat 32 (elem (vfile c b) 32 g)).setWidth 64
    (plainRegs s [d] → locatedElems s .store 4 on group key → storesV (.vst d a b p) s 4 d on key)
    ∧ (plainRegs s [d, b] → locatedElems s .store 4 on lane key → (∀ g < 16, on g = true → (lane g).toNat + 4 ≤ 2 ^ 40) →
      storesV (.vscat d a b p) s 4 d on key)
    ∧ ∀ t, vtype c = some t → plainRegs s [d] →
      let n := tyWidth t / 8; let act := fun (j : Nat) => decide (j < 64 / n) && active (preg s p) (tyWidth t) j
      locatedElems s .store n act (fun j => sreg s a + BitVec.ofNat 64 j * sreg s b) key → storesV (.vsts d a b p) s n d act key)
  ∧ (∀ (s : State) (d a b r : Reg) (wr : Bool) (g : BitVec 2) (gi : Fin 4) (x : Stream) (rest : List Ahead) (key : Nat → Nat),
    let c := cur s; gi = g.toFin → ((cur s).ub = 0 ∨ d.toNat < 16) →
    let stride := ((sreg s b).setWidth 32 : BitVec 32).signExtend 64
    let cleared := c.gens.map (fun y => match y with | some z => if z.reg = d then none else some z | none => none)
    let qs := c.qb.filter (fun q => decide (q.1 ≠ d))
    ((sreg s a).toNat % 4 = 0 → stride.toNat % 4 = 0 → (sreg s b).toNat / 2 ^ 32 ≠ 0 →
      leaves (.strm d a b wr g) s 4 { (if wr then vput c d 0 else c) with
        gens := cleared.set gi (some { reg := d, wr := wr, next := sreg s a, stride := stride, left := (sreg s b).toNat / 2 ^ 32,
                                       ahead := [] }), qb := qs })
    ∧ ((sreg s a).toNat % 4 ≠ 0 ∨ stride.toNat % 4 ≠ 0 → traps (.strm d a b wr g) s 0x03 (sreg s a))
    ∧ leaves (.unbnd d) s 4 { c with gens := cleared, qb := qs }
    ∧ (c.gens[gi] = some x → x.wr = false → x.ahead.length < 4 → x.ahead.length < x.left → c.st ≠ .free →
        (∀ j < 64, resolve s { core := curCore s, priv := c.sm, kind := .load } (x.next + BitVec.ofNat 64 j) = .cell (key j)
          ∧ poisoned s (key j) = false) →
        ∃ t, exec (.streamReadahead s.turn g) s = .next t ∧ onlyMemory s t ∧ sameBytes s t
          ∧ getCtx t s.turn = { c with gens := c.gens.set gi (some { x with
              ahead := x.ahead ++ [.came], next := x.next + x.stride }) })
    ∧ (plainRegs s [d, b] → r ≠ d → r ≠ b → (c.ub = 0 ∨ r.toNat < 16) → (∀ h, h < gi → ∀ y, c.gens[h] = some y → y.reg ≠ r) →
        c.gens[gi] = some x → x.reg = r → x.wr = false → x.ahead = .came :: rest →
        located s .load (x.next - x.stride * BitVec.ofNat 64 (rest.length + 1)) 64 key → let v := BitVec.ofNat 512 (cellsNat s key 64)
        ∃ u : Vec, (∀ j < 16, elem u 32 j = elem v 32 j &&& elem (vfile c b) 32 j)
          ∧ leaves (.vand d r (.vreg b) 0) s 4 { vput (vput c r v) d u with
              gens := c.gens.set gi (if x.left ≤ 1 then none else some { x with left := x.left - 1, ahead := rest }) })
    ∧ (plainRegs s [a, b] → (c.ub = 0 ∨ r.toNat < 16) → (∀ h, h < gi → ∀ y, c.gens[h] = some y → y.reg ≠ r) →
        (∀ w ∈ c.qb, w.1 ≠ r) → c.gens[gi] = some x → x.reg = r → x.wr = true → located s .store x.next 64 key → (∀ i j, i < 64 → j < 64 → key i = key j → i = j) →
        ∃ t u, exec (.vand r a (.vreg b) 0) s = .next t ∧ onlyMemory s t
          ∧ (∀ j < 16, elem u 32 j = elem (vfile c a) 32 j &&& elem (vfile c b) 32 j)
          ∧ (∀ j < 64, mget t.mem (key j) = BitVec.ofNat 8 (elem u 8 j)) ∧ (∀ m, (∀ j < 64, key j ≠ m) → mget t.mem m = mget s.mem m)
          ∧ (getCtx t s.turn).gens = c.gens.set gi
              (if x.left ≤ 1 then none else some { x with next := x.next + x.stride, left := x.left - 1 })))

/-! ## Messages and barriers -/

/-- R252, R253: SEND and SENDK to a core of this module put a message with the source id and its four arguments on the way and write 0;
a destination that does not exist gives 2; while messages to it are held back the `.nb` form gives 1 and the other waits.

R254, R143: a message that comes to a core of its job with a valid entry, a FREE helper and fewer live helpers of its class than
LIM, with none of its class spilled or refused, starts the lowest FREE helper: READY at ADDR with the arguments in s1-s4, the source id in
s5, its stack pointer in s30, every other register at zero, the priority the lower of PRI and CMAX.

R256: START, from the control context alone, starts the lowest FREE helper at s[a] with the arguments of v[b] and its own source id,
at the control context's priority, and writes its index (on a core that is halted, where the debugger steps the START, the helper is set up
HALTED: the model's choice, log 75); with none FREE the `.nb` form writes 0 and the other waits; a misaligned address
is the misalignment trap; in any other context it is the illegal-instruction trap of the reserved-field sub-cause. -/
def Obligations.MessagesAndHelpers : Prop :=
  (∀ (s : State) (d a b : Reg) (rel nb : Bool) (cl : BitVec 5) (k : Nat), let c := cur s; let w := sreg s a
    let node := w.toNat / 2 ^ 15 % 4096; (cl.toNat < 16 ∨ cl.toNat = 19) → plainRegs s [b] → (rel = false ∨ c.acks = []) →
    ((sendTarget cl.toNat w = none ∨ jobNode s node = false) → writesS (.send d a b rel nb cl) s 4 d 2
      ∧ (b.toNat ≤ 24 → writesS (.sendk d a b rel nb cl) s 4 d 2))
    ∧ (sendTarget cl.toNat w = some k → jobNode s node = true →
        (backPressed s node k cl.toNat = true → if nb then writesS (.send d a b rel nb cl) s 4 d 1 ∧ (b.toNat ≤ 24 → writesS (.sendk d a b rel nb cl) s 4 d 1)
          else ∃ e, blocks (.send d a b rel nb cl) s e ∧ (b.toNat ≤ 24 → blocks (.sendk d a b rel nb cl) s e))
        ∧ (backPressed s node k cl.toNat = false → node = myNode s →
          let sent := fun (arg : Nat → Word) (t : State) => { t with ctxs := s.ctxs, arrived := s.arrived } = s ∧ ∃ pk m, t.arrived = s.arrived ++ [pk]
            ∧ pk.body = .msg m ∧ pk.cls = 0 ∧ pk.die = k / 1152 ∧ pk.stage = decide (cl.toNat = 19)
            ∧ (cl.toNat ≠ 19 → pk.clus = k / 48 % 24 ∧ pk.core = k % 48)
            ∧ m.cls = cl.toNat ∧ m.rel = rel ∧ m.a0 = arg 0 ∧ m.a1 = arg 1 ∧ m.a2 = arg 2 ∧ m.a3 = arg 3
            ∧ m.src = BitVec.ofNat 64 (idxOf s.turn * 2 ^ 32 + myNode s * 2 ^ 15 + coreId (curCore s) * 4)
          writesSAnd (.send d a b rel nb cl) s d 0 (sent (fun j => BitVec.ofNat 64 (elem (vfile c b) 64 j)))
          ∧ (b.toNat ≤ 24 → writesSAnd (.sendk d a b rel nb cl) s d 0
              (sent (fun j => kread c (b + 2 * BitVec.ofNat 5 j + 1) ++ kread c (b + 2 * BitVec.ofNat 5 j)))))))
  ∧ (∀ (s s1 : State) (n k i l : Nat) (pk : Packet) (m : Msg), takeOrdered s (msgOrder s) isMsg n = some (pk, s1) → pk.body = .msg m → pk.stage = false →
    k = 1152 * pk.die + 48 * pk.clus + pk.core → launchOf s k = some l → (getLaunch s l).job = m.job → launchRuns s k = true →
    (getCore s k).halted = false → let h := handOf s k m.cls; handValid h = true → 1 ≤ i → i ≤ 10 → (getCtx s (16 * k + i)).st = .free →
    (∀ j, 1 ≤ j → j < i → (getCtx s (16 * k + j)).st ≠ .free) → liveOf s k m.cls < handLim h →
    (∀ e ∈ (getCore s k).spill, e.msg.cls ≠ m.cls) → (∀ r ∈ (getCore s k).refused, r.cls ≠ m.cls) →
    ∃ t, exec (.activeMessageArrival n) s = .next t ∧ t.arrived = s1.arrived ∧ sameBytes s t
      ∧ (∀ y, y ≠ 16 * k + i → getCtx t y = getCtx s y)
      ∧ let c := getCtx t (16 * k + i); c.st = .ready ∧ c.pc = handAddr h ∧ c.sm = false ∧ c.t = false ∧ c.ldepth = 0
        ∧ c.vfmt = 8 ∧ c.fcsr = 0 ∧ c.v = Vector.replicate 32 0 ∧ c.tvec = (getCtx s (16 * k)).tvec ∧ c.mvec = (getCtx s (16 * k)).mvec
        ∧ c.prio = (if handPri h ≤ recCmax (getLaunch s l) then handPri h else recCmax (getLaunch s l))
        ∧ c.prioMax = recCmax (getLaunch s l)
        ∧ ∀ r : Reg, sread c r = if r = 1 then m.a0 else if r = 2 then m.a1 else if r = 3 then m.a2 else if r = 4 then m.a3
            else if r = 5 then m.src else if r = 30 then stackTop s k i else 0)
  ∧ (∀ (s : State) (d a b : Reg) (nb : Bool) (i : Nat), let k := curCore s; let c := cur s
    (idxOf s.turn ≠ 0 → traps (.start d a b nb) s 0x301 (wordVal (.start d a b nb)))
    ∧ (idxOf s.turn = 0 → plainRegs s [b] →
        ((sreg s a).toNat % 4 ≠ 0 → traps (.start d a b nb) s 0x03 (sreg s a))
        ∧ ((sreg s a).toNat % 4 = 0 → (∀ j, 1 ≤ j → j ≤ 10 → (getCtx s (16 * k + j)).st ≠ .free) →
            if nb then writesS (.start d a b nb) s 4 d 0 else blocks (.start d a b nb) s .start)
        ∧ ((sreg s a).toNat % 4 = 0 → 1 ≤ i → i ≤ 10 → (getCtx s (16 * k + i)).st = .free →
            (∀ j, 1 ≤ j → j < i → (getCtx s (16 * k + j)).st ≠ .free) → c.acks = [] →
            ∃ t, exec (.start d a b nb) s = .next t ∧ ((getCore s k).refused = [] → sameBytes s t) ∧ inSequence c (getCtx t s.turn) 4
              ∧ (∀ r, sread (getCtx t s.turn) r = if r = d ∧ r ≠ 0 then BitVec.ofNat 64 i else sread c r)
              ∧ sameRegs c { getCtx t s.turn with s := c.s }
              ∧ let h := getCtx t (16 * k + i); h.st = (if (getCore s k).halted = true then .halted else .ready) ∧ h.pc = sreg s a ∧ h.prio = c.prio
                ∧ (∀ j : Reg, 1 ≤ j.toNat → j.toNat ≤ 4 → sread h j = BitVec.ofNat 64 (elem (vfile c b) 64 (j.toNat - 1)))
                ∧ sread h 5 = BitVec.ofNat 64 (myNode s * 2 ^ 15 + coreId k * 4))))

/-- R258-R260: BAR arrives at the barrier of its scope, unit and id and writes the generation that will be reached; the last of N arrivals
raises the generation, the others are counted; with N = 0 it only reads the generation. BARW goes on when its target is reached, modulo
2^32, and waits until then. An arrival at another module than the root of a job-scope barrier of several modules is sent to the root, which
counts it and answers with what BAR writes; a new generation is told to the other modules (the messages are the model's, log 31). -/
def Obligations.HardwareBarriers : Prop :=
  (∀ (s : State) (d a b : Reg) (sc : Scope) (l : Nat), let k := curCore s; launchOf s k = some l → sc ≠ .ctx → (cur s).acks = [] →
    let unit := unitOf k sc; let id := (sreg s a).toNat % 16; let n := (sreg s b).toNat % 2 ^ 16; let x := getBarrier s l sc unit id
    let many := sc = .job ∧ 1 < (getLaunch s l).nodes.length; let far := many ∧ (getLaunch s l).root ≠ myNode s
    let last := x.came + 1 = x.need.getD n
    (n = 0 → ¬far → writesS (.bar d a b sc) s 4 d (x.gen.setWidth 64))
    ∧ (far → ∃ t, asks (.bar d a b sc) s t (.gen d) ∧ { t with ctxs := s.ctxs, nonce := s.nonce }
        = sendPacket s (some l) (mkPacket s 0 (getLaunch s l).root 0 (.barArrive l id n s.turn (cur s).start)) (some s.turn))
    ∧ (n ≠ 0 → ¬far → writesSAnd (.bar d a b sc) s d ((x.gen + 1).setWidth 64) (fun t => ((¬many ∨ ¬last) → { t with ctxs := s.ctxs, bars := s.bars } = s)
        ∧ (many → last → { t with ctxs := s.ctxs } = tellGen { s with bars := t.bars } l (getBarrier t l sc unit id))
        ∧ (∀ sc' u' id', (sc', u', id') ≠ (sc, unit, id) → getBarrier t l sc' u' id' = getBarrier s l sc' u' id')
        ∧ getBarrier t l sc unit id = { x with
            gen := if last then x.gen + 1 else x.gen
            need := if last then none else some (x.need.getD n)
            came := if last then 0 else x.came + 1 }))
    ∧ ((x.gen - (sreg s b).setWidth 32).toNat < 2 ^ 31 → writesS (.barw d a b sc) s 4 d (x.gen.setWidth 64))
    ∧ (2 ^ 31 ≤ (x.gen - (sreg s b).setWidth 32).toNat → blocks (.barw d a b sc) s (.barw sc id (sreg s b))))
  ∧ (∀ (s s1 : State) (n l id c x start w g : Nat) (d : Reg) (pk : Packet), takeOrdered s (msgOrder s) isMsg n = some (pk, s1) → kmem s.launches l = true →
    let e : Instr := .activeMessageArrival n; let y := getBarrier s l .job 0 id; let last := y.came + 1 = y.need.getD c
    (pk.body = .barArrive l id c x start → c ≠ 0 → ∃ t u, exec e s = .next t
        ∧ t = sendPacket u (some l) (mkPacket u 0 pk.src 0 (.barAns l id x start (y.gen + 1).toNat (getBarrier u l .job 0 id).gen.toNat))
        ∧ getBarrier u l .job 0 id = { y with gen := if last then y.gen + 1 else y.gen, need := if last then none else some (y.need.getD c), came := if last then 0 else y.came + 1 }
        ∧ (¬last → { u with bars := s.bars } = s1))
    ∧ (pk.body = .barAns l id x start w g → ∃ t, exec e s = .next t ∧ getBarrier t l .job 0 id = { y with gen := BitVec.ofNat 32 g } ∧ sameBytes s t
        ∧ ((getCtx s x).wait = some (.gen d) → (getCtx s x).start = start → (getCtx s x).st ≠ .free → answered s t x d (BitVec.ofNat 64 w)))
    ∧ (pk.body = .barGen l id g → ∃ t, exec e s = .next t ∧ { t with bars := s.bars } = s1 ∧ getBarrier t l .job 0 id = { y with gen := BitVec.ofNat 32 g }))

/-! ## Pitches and bookings -/

/-- R111, R112, R114, R116: LZDEF defines a FREE pitch of the parameters and gives its name, or the lowest failure code; LZREL `.rearm` frees every
peg of a defined pitch and opens its barrier, completing an OPEN one as PREEMPTED first, `.undef` makes it FREE, `.bk` releases a booking at
its owner; LZWAIT writes the status word and the bitmap of ARRIVED pegs once the barrier has passed a generation, and waits until then. -/
def Obligations.PitchesAreDefinedAndReleased : Prop :=
  ∀ (s : State) (d a b : Reg) (p : BitVec 2) (nb : Bool), let k := curCore s; let q := p.toNat; let c := cur s; let old := getPitch s k q
    let base := (sreg s a).toNat; let w := (sreg s b).toNat; let id := sreg s a
    let npeg := w % 2 ^ 8; let sz := w / 2 ^ 8 % 16; let tgt := w / 2 ^ 12 % 2 ^ 8; let bind := w / 2 ^ 20 % 4; let cls := w / 2 ^ 22 % 16
    let depe := w / 2 ^ 26 % 2 ^ 10; let bytes := 2 ^ (sz + 6); let fin := base + (npeg + 1) * bytes
    let c1 := old.state ≠ 0
    let c2 := 2 ^ 36 ≤ w ∨ bind = 3 ∨ 10 < sz ∨ npeg < tgt ∨ (bind ≠ 1 ∧ cls ≠ 0) ∨ (bind ≠ 2 ∧ depe ≠ 0)
    let c3 := (base < 2 ^ 18 ∧ 2 ^ 18 - (getCore s k).sp < fin)
      ∨ ∃ j < 4, j ≠ q ∧ (getPitch s k j).state ≠ 0 ∧ base < pitchEnd (getPitch s k j) ∧ (getPitch s k j).base < fin
    let c4 := base % bytes ≠ 0 ∨ 2 ^ 18 < fin
    let fails := fun (n : Word) => writesS (.lzdef d a b p) s 4 d (2 ^ 63 + n)
    let rearmed := fun (i : Instr) (st : Nat) => ∃ t, exec i s = .next t ∧ inSequence c (getCtx t s.turn) 4
      ∧ (∀ r, sread (getCtx t s.turn) r = if r = d ∧ r ≠ 0 then 0 else sread c r) ∧ sameRegs c { getCtx t s.turn with s := c.s }
      ∧ (let x := getPitch t k q; x.state = st ∧ x.pegs = List.replicate (old.npeg + 1) .free ∧ x.books = [] ∧ x.arrived = 0
        ∧ x.base = old.base ∧ x.npeg = old.npeg ∧ x.tgt = old.tgt ∧ x.gen = (if old.state = 1 then old.gen + 1 else old.gen)
        ∧ x.last = (if old.state = 1 then 4 else old.last))
      ∧ (old.bind = 0 → old.books = [] → onlyPitch s t k q)
    (c1 → fails 1) ∧ (¬c1 → c2 → fails 2) ∧ (¬c1 → ¬c2 → c3 → fails 3) ∧ (¬c1 → ¬c2 → ¬c3 → c4 → fails 4)
    ∧ (¬c1 → ¬c2 → ¬c3 → ¬c4 → writesSAnd (.lzdef d a b p) s d (BitVec.ofNat 64 (myNode s * 2 ^ 15 + coreId k * 4 + q)) (fun t =>
        onlyPitch s t k q ∧ let x := getPitch t k q; x.state = 1 ∧ x.base = base ∧ x.npeg = npeg ∧ x.sz = sz ∧ x.tgt = tgt ∧ x.bind = bind
          ∧ x.cls = cls ∧ x.depe = depe ∧ x.arrived = 0 ∧ x.gen = old.gen ∧ x.pegs = List.replicate (npeg + 1) .free ∧ x.books = []))
    ∧ (old.state = 0 → writesS (.lzrelRearm d p) s 4 d 2 ∧ writesS (.lzrelUndef d p) s 4 d 2)
    ∧ (old.state ≠ 0 → c.st ≠ .free → rearmed (.lzrelRearm d p) 1 ∧ rearmed (.lzrelUndef d p) 0)
    ∧ ((∀ e ∈ (getCore s k).books, e.id ≠ id) → writesS (.lzrelBk d a) s 4 d 2)
    ∧ ((∃ e ∈ (getCore s k).books, e.id = id) →
        (idNode id ≠ myNode s → writesSAnd (.lzrelBk d a) s d 0 (fun t =>
          { t with ctxs := s.ctxs, cores := s.cores }
            = sendPacket s (getCore s k).launch (mkPacket s 3 (idNode id) ((idCore id).getD 0) (.bookRel id))
          ∧ getCore t k = { getCore s k with books := (getCore s k).books.filter (fun e => e.id != id) }
          ∧ ∀ j, j ≠ k → getCore t j = getCore s j))
        ∧ (∀ k1, idNode id = myNode s → idCore id = some k1 → writesSAnd (.lzrelBk d a) s d 0 (fun t =>
          { t with ctxs := s.ctxs, cores := s.cores } = s
          ∧ (getCore t k).books = (getCore s k).books.filter (fun e => e.id != id)
          ∧ (getPitch t k1 (id.toNat % 4)).pegs
              = (getPitch s k1 (id.toNat % 4)).pegs.map (fun g => if g = .booked (bookSerial id) then .free else g))))
    ∧ (plainRegs s [b] → ((nb = true ∨ (sreg s a).toNat < old.gen.toNat) → ∃ v : Vec,
        (∀ g < 512, v.getLsbD g = decide (old.pegs.getD g .free = .arrived))
        ∧ leaves (.lzwait d a b nb p) s 4 (swrite (vput c b v) d (BitVec.ofNat 64 (old.gen.toNat * 2 ^ 32 + old.last * 2 ^ 24 + old.arrived))))
      ∧ (nb = false → old.gen.toNat ≤ (sreg s a).toNat → blocks (.lzwait d a b nb p) s (.lzwait p (sreg s a))))

/-- R113: LZRES asks the owner of a pitch for pegs and waits; it is turned away at once with code 2 for a name of no pitch of the job, 8 with 32
bookings made, 1 (`.nb`) while another of the core waits. The owner grants the lowest run of FREE pegs under a serial of its own, or answers
2, or 6 while its launch is being pre-empted; a grant enters the sender's table, and the word reaches the context. -/
def Obligations.BookingsAreAskedAndAnswered : Prop :=
  ∀ (s s1 : State) (d a b : Reg) (nb : Bool) (n k k1 f x cr : Nat) (name count : Word) (id : BookId) (pk : Packet),
    let me := curCore s; let w := sreg s a; let st := fun (n : Nat) => BitVec.ofNat 64 (n * 2 ^ 60); let i : Instr := .lzres d a b nb
    ((idCore w = none ∨ 2 ^ 27 ≤ w.toNat ∨ jobNode s (idNode w) = false) → writesS i s 4 d (st 2))
    ∧ (idCore w = some k1 → w.toNat < 2 ^ 27 → jobNode s (idNode w) = true →
        (32 ≤ (getCore s me).books.length → writesS i s 4 d (st 8))
        ∧ ((getCore s me).books.length < 32 → (getCore s me).lzres.isSome → if nb then writesS i s 4 d (st 1) else blocks i s .lzresBusy)
        ∧ ((getCore s me).books.length < 32 → (getCore s me).lzres = none → ∃ t, asks i s t (.book d)
            ∧ getCore t me = { getCore s me with lzres := some s.turn, lzresTo := idNode w } ∧ (∀ j, j ≠ me → getCore t j = getCore s j)
            ∧ { t with ctxs := s.ctxs, cores := s.cores, nonce := s.nonce }
              = sendPacket s (getCore s me).launch (mkPacket s 3 (idNode w) k1 (.bookReq me w (sreg s b))) (some s.turn)))
    ∧ (takeOrdered s (fun r _ => isBookReq r) isBookReq n = some (pk, s1) → pk.body = .bookReq cr name count → idCore name = some k →
        let p := name.toNat % 4; let q := getPitch s k p; let pre := (launchRec s k).pre
        let answers := fun (w : Word) => exec (.bookingRequest n) s = .next (sendPacket s1 (launchOf s k) (mkPacket s1 3 pk.src cr (.bookAns cr w)))
        let run := fun (f : Nat) => ∀ g < count.toNat, q.pegs[f + g]? = some .free
        ((launchOf s k).isSome → pre ≠ .no → pre ≠ .saved → pre ≠ .back → answers (st 6))
        ∧ ((launchOf s k = none ∨ pre = .no ∨ pre = .saved ∨ pre = .back) →
          ((q.state ≠ 1 ∨ count.toNat = 0 ∨ 256 < count.toNat ∨ ∀ f, ¬ run f) → answers (st 2))
          ∧ (q.state = 1 → 1 ≤ count.toNat → count.toNat ≤ 256 → q.pegs.length = q.npeg + 1 → q.npeg < 256 → q.serial < 4096 → q.sz < 16 →
              run f → (∀ g < f, ¬ run g) → ∃ t id, exec (.bookingRequest n) s = .next t
                ∧ { t with cores := s1.cores } = sendPacket s1 (launchOf s k) (mkPacket s1 3 pk.src cr (.bookAns cr id))
                ∧ bookFirst id = f ∧ bookCount id = count.toNat ∧ bookSerial id = q.serial ∧ bookSize id = q.sz ∧ id.toNat / 2 ^ 60 = 0
                ∧ id.toNat % 2 ^ 27 = myNode s * 2 ^ 15 + coreId k * 4 + p
                ∧ (∀ g ≤ q.npeg, (getPitch t k p).pegs[g]? = if f ≤ g ∧ g < f + count.toNat then some (.booked q.serial) else q.pegs[g]?)
                ∧ (getPitch t k p).serial = (if q.serial = 4095 then 1 else q.serial + 1)
                ∧ (getPitch t k p).books = q.books ++ [{ serial := q.serial, node := pk.src, core := cr, first := f, count := count.toNat }]
                ∧ (∀ j, j ≠ p → getPitch t k j = getPitch s k j) ∧ ∀ j, j ≠ k → getCore t j = getCore s j)))
    ∧ (takeOrdered s (fun r _ => isBookAns r) isBookAns n = some (pk, s1) → pk.body = .bookAns k id → (getCore s k).lzres = some x →
        (getCtx s x).wait = some (.book d) → ∃ t, exec (.bookingAnswer n) s = .next t ∧ answered s t x d id
          ∧ { t with ctxs := s.ctxs, cores := s.cores } = s1 ∧ (∀ j, j ≠ k → getCore t j = getCore s j)
          ∧ getCore t k = { getCore s k with
              lzres := none, books := if id.toNat / 2 ^ 60 = 0 then (getCore s k).books ++ [{ id := id }] else (getCore s k).books })

/-- R63, R82, R114, R117, R118, R139: bytes pushed for a peg that is BOOKED under their serial begin to be written, where each byte holds its old value
or its new one (which, nothing says: log 71); then they are written and counted for their transfer, and with the last of the peg's bytes of a
push that makes pegs arrive the peg is ARRIVED and an OPEN barrier whose target is reached completes OK. Bytes for another peg are discarded and
counted with their status; an uncorrectable error in a granule that they cover in part stops them. A booking released by its sender frees its pegs; one lost by a fault of the sender's
launch, or whose sender has been unreachable for 100 µs, leaves them DEAD and completes an OPEN barrier LOST; after 20 µs of SAVING the
bookings that live are cancelled PREEMPTED. -/
def Obligations.PegsArriveOrAreLost : Prop :=
  ∀ (s s1 : State) (n k cr tag g part total i serial : Nat) (p : BitVec 2) (pk : Packet) (id : BookId) (ar : Bool) (la : Option Nat)
    (cells : List (Nat × Byte)) (e : OwnBook),
    let q := id.toNat % 4; let x := getPitch s k q; let at_ := fun (c : Nat × Byte) => sliceKey k (x.base + c.1); let keys := cells.map at_
    let f := getXfer s pk.src cr tag la; let push := fun (b : Bool) => Body.pushPeg cr tag la id g part total ar b cells
    let came := kget 0 f.pegs g + cells.length
    let counted := fun (t : State) (bytes status : Nat) => let z := getXfer t pk.src cr tag la; z.got = f.got + cells.length
      ∧ z.total = max f.total total ∧ z.bytes = f.bytes + bytes ∧ z.status = (if f.status = 0 then status else f.status) ∧ z.pegs = kset f.pegs g came
    let lost := fun (t : State) (q serial : Nat) => let x := getPitch s k q; let y := getPitch t k q
      y.pegs = x.pegs.map (fun g => if g = .booked serial then .dead else g) ∧ y.books = x.books.filter (fun b => b.serial != serial)
      ∧ (if x.state = 1 then y.state = 3 ∧ y.last = 3 ∧ y.gen = x.gen + 1 else y.state = x.state ∧ y.gen = x.gen)
    (idCore id = some k → nextArrived s ordBefore isPegPush n = some (i, pk) →
      (pk.body = push false → ∃ t, exec (.pegArrival n) s = .next t ∧ t.arrived = s.arrived.set i { pk with body := push true }
        ∧ (∀ a, mget t.mem a = mget s.mem a ∨ ∃ c ∈ cells, at_ c = a ∧ mget t.mem a = c.2)
        ∧ (x.pegs[g]? ≠ some (.booked (bookSerial id)) → sameBytes s t)
        ∧ { t with arrived := s.arrived, mem := s.mem, poison := s.poison, soft := s.soft, clean := s.clean, nonce := s.nonce } = s)
      ∧ (pk.body = push true → x.pegs[g]? = some (.booked (bookSerial id)) → ∃ t, exec (.pegArrival n) s = .next t ∧ (∀ y, getCtx t y = getCtx s y)
        ∧ ((∀ y ∈ keys, poisoned s y = true → wholeUnit keys y = true) →
            (∀ a, mget t.mem a = written s (cells.map (fun c => (at_ c, c.2))) a) ∧ counted t cells.length 0
            ∧ (ar = true → came = part → let y := getPitch t k q; y.pegs = x.pegs.set g .arrived ∧ y.arrived = x.arrived + 1
              ∧ (if x.state = 1 ∧ x.arrived = x.tgt then y.state = 2 ∧ y.last = 0 ∧ y.gen = x.gen + 1 else y.state = x.state ∧ y.gen = x.gen))
            ∧ ((ar = false ∨ came ≠ part) → ∀ j p, getPitch t j p = getPitch s j p))
        ∧ ((∃ y ∈ keys, poisoned s y = true ∧ wholeUnit keys y = false) → sameBytes s t ∧ counted t 0 0x22 ∧ ∀ j p, getPitch t j p = getPitch s j p))
      ∧ (pk.body = push true → x.pegs[g]? ≠ some (.booked (bookSerial id)) → ∃ t, exec (.pegArrival n) s = .next t
          ∧ { t with xfers := s.xfers } = { s with arrived := s.arrived.eraseIdx i } ∧ counted t 0 (goneStatus x (bookSerial id))))
    ∧ (idCore id = some k → takeOrdered s (fun r _ => isBookReq r) isBookReq n = some (pk, s1) →
        (pk.body = .bookRel id → ∃ t, exec (.bookingRequest n) s = .next t ∧ { t with cores := s.cores } = s1
          ∧ (getPitch t k q).pegs = x.pegs.map (fun g => if g = .booked (bookSerial id) then .free else g)
          ∧ (getPitch t k q).books = x.books.filter (fun b => b.serial != bookSerial id))
        ∧ (pk.body = .bookLost id → (∃ b ∈ x.books, b.serial = bookSerial id) → ∃ t, exec (.bookingRequest n) s = .next t
          ∧ lost t q (bookSerial id)))
    ∧ (k < 4608 → (getPitch s k p.toNat).books.find? (fun b => b.serial == serial) = some e → longLost s e.node = true → serial < 4096 →
        (getPitch s k p.toNat).sz < 16 → e.first < 256 → 1 ≤ e.count → e.count ≤ 256 →
        ∃ t, exec (.bookingLost k p serial) s = .next t ∧ lost t p.toNat serial)
    ∧ ((getPitch s k p.toNat).state = 5 → (getPitch s k p.toNat).since + 20000 ≤ nowNs s →
        ∃ t, exec (.pitchSaveTimeout k p) s = .next t ∧ (getPitch t k p.toNat).books = []
          ∧ ∀ b ∈ (getPitch s k p.toNat).books, .booked b.serial ∉ (getPitch t k p.toNat).pegs ∧ (b.serial, 6) ∈ (getPitch t k p.toNat).gone)

/-! ## Leave and commands -/

/-- R123, R399-R401: leave is asked and returned by LEAVE, by commands as they leave the held phase, and granted in order: `.put` returns a
context's grant and writes its units; `.get` returns it and is granted at once what fits, or waits; the oldest waiting request is granted
when it fits its cluster's budget. -/
def Obligations.LeaveIsAskedGrantedAndReturned : Prop :=
  ∀ (s : State) (d a e : Reg) (c x k uid u : Nat) (r : LeaveReq) (rest : List LeaveReq), let me := clusOf (curCore s); let n := (sreg s a).toNat
    let g := (getClus s me).held - (cur s).leave; let old := BitVec.ofNat 64 (cur s).leave
    let gives := fun (i : Instr) (v : Word) (l held : Nat) => ∃ t, exec i s = .next t ∧ { t with ctxs := s.ctxs, clus := s.clus } = s
      ∧ sameBytes s t ∧ inSequence (cur s) (getCtx t s.turn) 4 ∧ (∀ r, sread (getCtx t s.turn) r = if r = d ∧ r ≠ 0 then v else sread (cur s) r)
      ∧ sameRegs (cur s) { getCtx t s.turn with s := (cur s).s, leave := (cur s).leave } ∧ (getCtx t s.turn).leave = l
      ∧ getClus t me = { getClus s me with held := held } ∧ (∀ y, y ≠ me → getClus t y = getClus s y)
      ∧ ∀ y, y ≠ s.turn → getCtx t y = getCtx s y
    let took := fun (t : State) => getClus t c = { getClus s c with held := (getClus s c).held + u, waits := rest }
    gives (.leavePut d) old 0 g ∧ (n = 0 → gives (.leaveGet d a) old 0 g)
    ∧ (0 < n → (getClus s me).waits = [] → g + min n (budget s me) ≤ budget s me →
        gives (.leaveGet d a) (BitVec.ofNat 64 (min n (budget s me))) (min n (budget s me)) (g + min n (budget s me)))
    ∧ (0 < n → ((getClus s me).waits ≠ [] ∨ budget s me < g + min n (budget s me)) → ∃ t, exec (.leaveGet d a) s = .next t
        ∧ (getCtx t s.turn).st = .blocked ∧ (getCtx t s.turn).wait = some (.leave (sreg s a) d) ∧ (getCtx t s.turn).leave = 0
        ∧ getClus t me = { getClus s me with held := g, waits := (getClus s me).waits ++ [{ who := .ctx s.turn, units := n }] })
    ∧ ((getClus s c).waits = r :: rest → u = min r.units (budget s c) →
        ((getClus s c).held + u ≤ budget s c →
          (r.who = .ctx x → (getCtx s x).reask = 0 → (getCtx s x).wait = some (.leave (sreg s a) e) →
            ∃ t, exec (.leaveGrant c) s = .next t ∧ took t ∧ (getCtx t x).leave = u ∧ (getCtx t x).wait = none
              ∧ (∀ r, sread (getCtx t x) r = if r = e ∧ r ≠ 0 then BitVec.ofNat 64 u else sread (getCtx s x) r)
              ∧ inSequence (getCtx s x) (getCtx t x) 4)
          ∧ (r.who = .cmd k uid → (∀ m, findCmd s k .mxu uid = some m → copOf m.word ≠ 0x11) → ∃ t, exec (.leaveGrant c) s = .next t ∧ took t
              ∧ ∀ e : Engine, (getQ t k e).cmds = (getQ s k e).cmds.map (fun m => if m.uid = uid then { m with grant := u } else m)))
        ∧ (budget s c < (getClus s c).held + u → exec (.leaveGrant c) s = .next s))

/-- R87, R89, R94, R99, R100, R123, R172: the next queued command is decoded into the free shadow set; a command whose turn it is asks for the
leave it needs; one that is outstanding with nothing unacknowledged completes (of the matrix unit, the first of the queue alone, R296): it leaves its queue, the watermark follows the ids of a core's
transfers, its flags and deferred traps reach its context, a dependence entry is decremented after OK, a completion message is deposited, or
held by the engine and deposited later. -/
def Obligations.CommandsAreDecodedAndComplete : Prop :=
  ∀ (s : State) (k : Nat) (e : Engine) (m : EngCmd) (l : Nat) (msg : Msg) (rest : List (Engine × Msg)), let q := getQ s k e
    let done := fun (t : State) => (getQ t k e).cmds = q.cmds.filter (fun x => x.uid != m.uid)
      ∧ ((e = .cpe → (getCore s k).nextId < m.id + 64 ∨ copOf m.word = 0x21) → (getQ t k e).past.head? = some { uid := m.uid, id := m.id, status := m.status, fill := if copOf m.word = 0x21 then some m.fill else none })
    let code := copOf m.word * 256 + engNo e * 16 + m.status
    (launchRuns s k = true → (∀ x ∈ q.cmds, x.phase ≠ 1) → q.cmds.find? (fun x => x.phase == 0) = some m →
        ∃ t, exec (.commandDecode k e) s = .next t ∧ { t with cores := s.cores, clus := s.clus } = s
          ∧ (getQ t k e).cmds.map (fun x => (x.uid, x.phase)) = q.cmds.map (fun x => (x.uid, if x.uid = m.uid then 1 else x.phase))
          ∧ ((∀ x ∈ q.cmds, x.phase = 0) → (∀ h ∈ (getCore s k).heldMsg, h.1 ≠ e) → m.asked = false →
              (getClus t (clusOf k)).waits = (getClus s (clusOf k)).waits
                ++ if leaveUnits m = 0 then [] else [{ who := .cmd k m.uid, units := leaveUnits m }]))
    ∧ (copOf m.word = 0x20 → leaveUnits m = if 65536 ≤ m.word.toNat / 2 ^ 160 % 2 ^ 32 then 8 else 0)
    ∧ (copOf m.word = 0x10 → leaveUnits m = if m.mfmt.toNat % 16 = 8 then 40 else if m.mfmt.toNat % 16 = 9 ∨ m.mfmt.toNat % 16 = 10 then 48 else 64)
    ∧ (launchLive s k = true → (if e = .mxu then q.cmds.take 1 else q.cmds).find? (fun x => x.phase == 3 && x.out == 0) = some m →
        (cmsgOf m.word = false → ∃ t, exec (.commandCompletion k e) s = .next t ∧ done t ∧ sameBytes s t
          ∧ (e = .cpe → m.id = (getCore s k).xwm + 1 → (getCore s k).doneIds = [] → (getCore t k).xwm = m.id)
          ∧ (getClus t (clusOf k)).held = (getClus s (clusOf k)).held - m.grant
          ∧ ((getCtx s m.ctx).st ≠ .free → (getCtx s m.ctx).start = m.start → (getCtx t m.ctx).held = (getCtx s m.ctx).held ++ m.traps
              ∧ (getCtx t m.ctx).fcsr = (getCtx s m.ctx).fcsr ||| BitVec.ofNat 64 (m.flags % 128))
          ∧ ((e = .cpe ∨ e = .gte) → depOf m.word = true → m.status = 0 → ∃ pk ∈ t.arrived, pk.body = .depDec (dieOf k) (depeOf m.word) 1))
        ∧ (cmsgOf m.word = true → (getCore s k).heldMsg ≠ [] → ∃ t x, exec (.commandCompletion k e) s = .next t ∧ done t
          ∧ (getCore t k).heldMsg = (getCore s k).heldMsg ++ [(e, x)] ∧ x.cls = 16 ∧ x.a0 = BitVec.ofNat 64 m.id ∧ x.a1 = BitVec.ofNat 64 code
          ∧ x.a2 = BitVec.ofNat 64 (m.moved + m.word2) ∧ x.a3 = timeWord s))
    ∧ ((getCore s k).heldMsg = (e, msg) :: rest → msg.cls = 16 → launchOf s k = some l → (getLaunch s l).job = msg.job →
        handValid (handOf s k 16) = false →
        ((getCore s k).spill.length < spillCap s k → (∀ r ∈ (getCore s k).refused, r.cls ≠ 16) → ∃ t x, exec (.heldMessageDeposit k) s = .next t
          ∧ (getCore t k).heldMsg = rest ∧ (getCore t k).spill = (getCore s k).spill ++ [x] ∧ x.compl = true ∧ x.msg = { msg with spilled := false })
        ∧ (spillCap s k ≤ (getCore s k).spill.length → exec (.heldMessageDeposit k) s = .next s))

/-- R96, R97, R98, R101, R108, R296: EPOLL reads the phase of a command, or the status it completed with, of the latest with a tag; ECANCEL completes a
queued or held one as CANCELLED, of the matrix unit in its turn; WAITX waits until the watermark has passed an id; SREL raises the releases of an XLOOP once its context's peer stores are acknowledged, SWAIT waits for a chunk
of it; INBOX takes the oldest completion message, whose bytes a store may have changed (R137: what the message then is, is not said, log 22). -/
def Obligations.CommandsAreAskedAbout : Prop :=
  ∀ (s : State) (d a b : Reg) (e : Engine) (prom nb : Bool) (m : EngCmd) (p : CmdPast) (n : Nat) (y : SpillEnt) (msg : Msg), let k := curCore s
    let q := getQ s k e; let core := getCore s k; let A := sreg s a; let B := sreg s b; let lp := (getQ s k .cpe).cmds.find? (fun m => m.id == A.toNat && copOf m.word == 0x21)
    let id := if e = .cpe then A.toNat else A.toNat % 2 ^ 16
    let known := e ≠ .cpe ∨ (1 ≤ A.toNat ∧ A.toNat ≤ core.nextId ∧ core.nextId < A.toNat + 64)
    let live := q.cmds.reverse.find? (fun m => m.id == id); let past := q.past.find? (fun p => p.id == id)
    let w := fun (n : Nat) => BitVec.ofNat 64 n; let spill := lfind (fun e => e.compl) core.spill
    let head := q.cmds.head?.map (fun x => x.uid); let gone := { m with phase := 3, status := 4, grant := 0 }
    (¬known ∨ (live = none ∧ past = none) → writesS (.epoll d a e) s 4 d 80 ∧ writesS (.ecancel d a e) s 4 d 2)
    ∧ (known → past = some p → (∀ z, live = some z → z.uid ≤ p.uid) →
        writesS (.epoll d a e) s 4 d (w (64 + p.status)) ∧ writesS (.ecancel d a e) s 4 d 1)
    ∧ (known → live = some m → (∀ z, past = some z → z.uid < m.uid) →
        writesS (.epoll d a e) s 4 d (w (16 * m.phase)) ∧ (2 ≤ m.phase → writesS (.ecancel d a e) s 4 d 1)
        ∧ (m.phase ≤ 1 → ((e = .mxu ∧ head ≠ some m.uid) ∨ cmsgOf m.word = false) → ∃ t, exec (.ecancel d a e) s = .next t ∧ sameBytes s t
            ∧ inSequence (cur s) (getCtx t s.turn) 4 ∧ (∀ r, sread (getCtx t s.turn) r = if r = d ∧ r ≠ 0 then 0 else sread (cur s) r)
            ∧ (e = .mxu → head ≠ some m.uid → (getQ t k e).cmds = q.cmds.map (fun x => if x.uid = m.uid then gone else x))
            ∧ ((e ≠ .mxu ∨ head = some m.uid) → (getQ t k e).cmds = q.cmds.filter (fun x => x.uid != m.uid)
                ∧ ∃ z ∈ (getQ t k e).past, z.uid = m.uid ∧ z.id = m.id ∧ z.status = 4)))
    ∧ ((A = 0 ∨ core.nextId < A.toNat) → writesS (.waitx d a b prom) s 4 d 9)
    ∧ (A ≠ 0 → A.toNat ≤ core.nextId → e = .cpe →
        let result := writesS (.waitx d a b prom) s 4 d (if known then (match past with | some p => if live.all (fun z => decide (z.uid ≤ p.uid)) then w p.status else 8 | none => 8) else 8)
        (A.toNat ≤ core.xwm → (prom = false ∨ B = 0 ∨ B.toNat ≤ nowNs s) → result)
        ∧ (core.xwm < A.toNat → (prom = false ∨ B = 0) → blocks (.waitx d a b prom) s (.waitx A))
        ∧ (prom = true → B ≠ 0 → (nowNs s < B.toNat → blocks (.waitx d a b prom) s (.prom A B d))
          ∧ (B.toNat ≤ nowNs s → core.xwm < A.toNat → traps (.waitx d a b prom) s 0x07 A)))
    ∧ (lp = none → writesS (.srel d a b) s 4 d 1) ∧ (lp = some m →
        (m.phase = 3 → writesS (.srel d a b) s 4 d 1)
        ∧ (m.phase ≤ 2 → (cur s).acks ≠ [] → blocks (.srel d a b) s .acks)
        ∧ (m.phase ≤ 2 → (cur s).acks = [] → writesSAnd (.srel d a b) s d 0 (fun t => onlyTurnAndCore s t k ∧ (getQ t k .cpe).cmds = (getQ s k .cpe).cmds.map (fun x =>
            if x.uid = m.uid then { m with rel := min (m.rel + B.toNat) (m.word.toNat / 2 ^ 188 % 2 ^ 32) } else x)))
        ∧ (B.toNat < m.fill → writesS (.swait d a b) s 4 d (w m.fill)) ∧ (m.fill ≤ B.toNat → blocks (.swait d a b) s (.swait A B)))
    ∧ (lp = none → e = .cpe → (past = some p → writesS (.swait d a b) s 4 d (w (p.fill.getD 0))) ∧ (past = none → writesS (.swait d a b) s 4 d 0))
    ∧ (plainRegs s [d] → (cur s).st ≠ .free → (spill = none → if nb then leaves (.inbox d nb) s 4 (vput (cur s) d 0) else blocks (.inbox d nb) s .inbox)
        ∧ (spill = some (n, y) → ∃ t, exec (.inbox d nb) s = .next t ∧ inSequence (cur s) (getCtx t s.turn) 4
            ∧ (∀ r, r ≠ d → vfile (getCtx t s.turn) r = vfile (cur s) r) ∧ sameRegs (cur s) { getCtx t s.turn with v := (cur s).v }
            ∧ ((∀ z ∈ core.spill, z.compl = true) → core.refused = [] → (getCore t k).spill = core.spill.eraseIdx n)
            ∧ (spillWhole s k y = false → vfile (getCtx t s.turn) d = Config.spilledAs (spillBytes s k y))
            ∧ (spillWhole s k y = true → y.msg = msg → msg.cls < 32 → ∀ j < 8, elem (vfile (getCtx t s.turn) d) 64 j = if j = 0 then msg.cls + (if msg.rel then 256 else 0) + (if msg.spilled then 512 else 0)
                else if j = 1 then msg.src.toNat else if j = 2 then msg.a0.toNat else if j = 3 then msg.a1.toNat
                else if j = 4 then msg.a2.toNat else if j = 5 then msg.a3.toNat else 0)))

/-- R85, R102-R104, R106, R107, R109, R119, R122: a command whose turn it is moves its next unit of 256 bytes, here from and to memory of this module:
XSEND copies, or packs or unpacks streams in groups (the last of a stream may be short), or collects what it pushes into a booking, and pushes it with its last unit; XFILL repeats
a pattern; XLOOP copies a chunk into its ring; GATH and SCAT read their index array, then move rows by it; GPAGE reads its selections and the
entries that they name, then copies the pages, a page of zeros for an entry of all ones. With its last source byte read, the command is
outstanding and holds no leave. -/
def Obligations.CopiesMoveTheirBytes : Prop :=
  ∀ (s : State) (k : Nat) (m : EngCmd) (ks kd ki ke : Nat → Nat) (l : List Nat), let W := m.word.toNat
    let F := fun (lo n : Nat) => W / 2 ^ lo % 2 ^ n; let at_ := fun (lo i : Nat) => BitVec.ofNat 64 (F lo 64) + BitVec.ofNat 64 i
    let len := F 160 32; let N := F 212 4; let G := 2 ^ (F 216 3 + 2); let str := F 220 24
    let q := len / N / G; let z := len / N % G
    let pos := fun (i : Nat) => if i / (N * G) < q then i % (N * G) / G * str + i / (N * G) * G + i % G
      else (i - q * N * G) / z * str + q * G + (i - q * N * G) % z
    let rd := fun (e : Engine) => { engRead k m with eng := some e }; let w := 2 ^ (F 210 2 + 1); let cnt := F 178 16; let row := F 194 16
    let c := fun (n : Nat) => min 256 (n - 256 * m.pos)
    let at18 := fun (n : Nat) => m.answers = [] ∧ ∀ i < n, resolve s (rd .gte) (BitVec.ofNat 64 (F 160 18) + BitVec.ofNat 64 i) = .cell (ki i)
      ∧ poisoned s (ki i) = false
    let tab := fun (i : Nat) => l.getD (i / row) 0 * F 212 32 + i % row
    let moves := fun (i : Instr) (e : Engine) (a : Acc) (n : Nat) (src dst : Nat → Word) => unitReads s a m n src ks → unitWrites s k e m n dst kd →
      ∃ t, exec i s = .next t ∧ filled s t m n kd (fun j => mget s.mem (ks j)) ∧ unitDone t k e m n (c n)
    let sent := fun (src : Nat → Word) (off : Nat → Nat) => let id := BitVec.ofNat 64 (F 96 64); let start := (bookFirst id + F 196 8) * 2 ^ (bookSize id + 6)
      idNode id = myNode s → 256 * m.pos < len → unitReads s (rd .cpe) m len src ks → ∃ t, exec (.xsend k) s = .next t ∧ sameBytes s t
        ∧ unitDone t k .cpe m len 0
        ∧ (256 * m.pos + 256 < len → ∃ x ∈ (getQ t k .cpe).cmds, x.uid = m.uid ∧ (∀ y ∈ m.buf, y ∈ x.buf)
            ∧ ∀ i, inUnit m len i → (start + off i, mget s.mem (ks i)) ∈ x.buf)
        ∧ (len ≤ 256 * m.pos + 256 → (∀ y ∈ m.buf, pushed t k s.uid (launchOf s k) id (decide (F 9 1 = 1)) y)
            ∧ ∀ i, inUnit m len i → pushed t k s.uid (launchOf s k) id (decide (F 9 1 = 1)) (start + off i, mget s.mem (ks i)))
    let reads := fun (i : Instr) (f : EngCmd → Prop) => ∃ t, exec i s = .next t ∧ sameBytes s t ∧ ∃ x ∈ (getQ t k .gte).cmds, x.uid = m.uid ∧ x.phase = 2
      ∧ x.pos = m.pos ∧ f x
    (turnWork s k .cpe 0x20 = some m →
      (N = 0 → (F 192 4 = 0 → moves (.xsend k) .cpe (rd .cpe) len (at_ 32) (at_ 96)) ∧ (F 192 4 = 1 → sent (at_ 32) id))
      ∧ (2 ≤ N → len % N = 0 →
          (F 219 1 = 0 → (F 192 4 = 0 → moves (.xsend k) .cpe (rd .cpe) len (fun i => at_ 32 (pos i)) (at_ 96))
            ∧ (F 192 4 = 1 → sent (fun i => at_ 32 (pos i)) id))
          ∧ (F 219 1 = 1 → (F 192 4 = 0 → moves (.xsend k) .cpe (rd .cpe) len (at_ 32) (fun i => at_ 96 (pos i)))
            ∧ (F 192 4 = 1 → sent (at_ 32) pos))))
    ∧ (turnWork s k .cpe 0x22 = some m → unitWrites s k .cpe m len (at_ 32) kd →
        ∃ t, exec (.xfill k) s = .next t ∧ unitDone t k .cpe m len (c len)
          ∧ filled s t m len kd (fun i => BitVec.ofNat 8 (F 96 64 / 2 ^ (8 * (i % 2 ^ F 192 2)))))
    ∧ (workCmd s k .cpe 0x21 = some m → loopMay m = true → inTurn s k .cpe = true → let chunk := F 160 24
        unitReads s (rd .cpe) m chunk (fun i => at_ 32 (m.fill * str + i)) ks →
        unitWrites s k .cpe m chunk (fun i => at_ 96 (m.fill % (F 184 4 + 1) * chunk + i)) kd →
        let next := fun (i : Instr) => ∃ t, exec i s = .next t ∧ filled s t m chunk kd (fun j => mget s.mem (ks j))
          ∧ ∃ x ∈ (getQ t k .cpe).cmds, x.uid = m.uid ∧ x.rel = m.rel ∧ x.moved = m.moved + c chunk
            ∧ if chunk ≤ 256 * m.pos + 256 then x.fill = m.fill + 1 ∧ x.pos = 0 ∧ x.phase = (if m.fill + 1 = F 188 32 then 3 else 2)
              else x.fill = m.fill ∧ x.pos = m.pos + 1 ∧ x.phase = 2
        next (.xloop k) ∧ (m.phase = 2 → m.pos = 0 → next (.xloopChunkStart k)))
    ∧ (m.idx = none → (∀ i ∈ [(Instr.gath k, 0x30), (.scat k, 0x33)], turnWork s k .gte i.2 = some m → at18 (w * cnt) →
        reads i.1 (fun x => x.idx = some ((List.range cnt).map (fun j => cellsNat s (fun b => ki (j * w + b)) w))))
      ∧ (turnWork s k .gte 0x32 = some m → let n := F 178 8 + 1; at18 (4 * n) → let sel := fun (j : Nat) => cellsNat s (fun b => ki (4 * j + b)) 4
          (∀ i < 8 * n, resolve s { rd .gte with own := false } (at_ 32 (8 * sel (i / 8) + i % 8)) = .cell (ke i) ∧ poisoned s (ke i) = false) →
          reads (.gpage k) (fun x => x.idx = some ((List.range n).map (fun j => cellsNat s (fun b => ke (8 * j + b)) 8)))))
    ∧ (m.idx = some l →
        (turnWork s k .gte 0x30 = some m → moves (.gath k) .gte (rd .gte) (l.length * row) (fun i => at_ 32 (tab i)) (at_ 96))
        ∧ (turnWork s k .gte 0x33 = some m →
            moves (.scat k) .gte { rd .gte with slice := true } (l.length * row) (at_ 96) (fun i => at_ 32 (tab i)))
        ∧ (turnWork s k .gte 0x32 = some m → F 190 1 = 0 → let page := 2 ^ (F 186 4 + 6); let ent := fun (i : Nat) => l.getD (i / page) 0
            let n := l.length * page; m.answers = [] → unitWrites s k .gte m n (at_ 96) kd →
            (∀ i, inUnit m n i → ent i ≠ 2 ^ 64 - 1 →
              resolve s (rd .gte) (BitVec.ofNat 64 (ent i + i % page)) = .cell (ks i) ∧ poisoned s (ks i) = false) →
            ∃ t, exec (.gpage k) s = .next t ∧ unitDone t k .gte m n (c n)
              ∧ filled s t m n kd (fun i => if ent i = 2 ^ 64 - 1 then 0 else mget s.mem (ks i))))

/-- R63, R120, R121, R123: GREM reads its indices and ships them and the bounds of the page that maps BASE to the module that owns it, and runs on;
that module asks the governor of the engine that reads the rows for leave where they have 64 KiB or more, reads the rows, pushes them into the
booking with the command's ORD, and reports; a transfer whose bytes have all come is reported to its sender, whose command counts the
acknowledgement, its bytes and the first status that is not OK; a GREM is outstanding once it is reported. (Which engine reads the rows is free,
log 37.) -/
def Obligations.RemoteGathersAndNotices : Prop :=
  ∀ (s s1 : State) (k n i node base lo hi cr cmd row rstr nidx tag uid status bytes place : Nat) (m : EngCmd) (e : Engine) (l pegs : List Nat)
    (la : Option Nat) (id : BookId) (ord : Bool) (pk : Packet) (x : Xfer) (g : Grem) (f : FarReq) (ki : Nat → Nat),
    let W := m.word.toNat; let F := fun (lo n : Nat) => W / 2 ^ lo % 2 ^ n; let w := 2 ^ (F 210 2 + 1)
    let ready := s.grems.filter gremReady
    (turnWork s k .gte 0x31 = some m → m.answers = [] →
      (m.idx = none → (∀ i < w * F 178 16, resolve s { engRead k m with eng := some .gte } (BitVec.ofNat 64 (F 160 18) + BitVec.ofNat 64 i) = .cell (ki i)
          ∧ poisoned s (ki i) = false) → ∃ t, exec (.grem k) s = .next t ∧ sameBytes s t ∧ ∃ y ∈ (getQ t k .gte).cmds, y.uid = m.uid ∧ y.phase = 2
            ∧ y.idx = some ((List.range (F 178 16)).map (fun j => cellsNat s (fun b => ki (j * w + b)) w)))
      ∧ (m.idx = some l → gremBase s k m = .ok (node, base, lo, hi) → node = myNode s → ∃ t, exec (.grem k) s = .next t ∧ sameBytes s t
          ∧ (∀ j < l.length, ∃ q ∈ t.arrived, ∃ first part, q.cls = 1 ∧ q.ord = true ∧ first ≤ j ∧ part[j - first]? = l[j]?
              ∧ q.body = .grem k m.uid (launchOf s k) l.length first part base lo hi (F 194 16) (F 212 32) (BitVec.ofNat 64 (F 96 64)) (decide (F 9 1 = 1)))
          ∧ ∃ y ∈ (getQ t k .gte).cmds, y.uid = m.uid ∧ y.phase = m.phase ∧ y.out = 1 ∧ y.grant = m.grant))
    ∧ (ready.length ≤ n → takeOrdered s ordBefore isGrem (n - ready.length) = some (pk, s1) →
        pk.body = .grem cr cmd la nidx 0 l base lo hi row rstr id ord → ∃ t y, exec (.gremRemoteGather n) s = .next t ∧ t.grems = s.grems ++ [y]
          ∧ t.arrived = s1.arrived ∧ y.node = pk.src ∧ y.core = cr ∧ y.cmd = cmd ∧ y.launch = la ∧ y.nidx = nidx ∧ y.idx = l ∧ y.base = base ∧ y.lo = lo
          ∧ y.hi = hi ∧ y.row = row ∧ y.rstr = rstr ∧ y.book = id ∧ y.ord = ord ∧ y.clus < 96 ∧ y.started = false ∧ y.grant = 0)
    ∧ (ready[n]? = some g → 65536 ≤ g.idx.length * g.row → g.grant = 0 → g.asked = false → ∃ t, exec (.gremRemoteGather n) s = .next t
        ∧ { t with grems := s.grems, clus := s.clus } = s
        ∧ getClus t g.clus = { getClus s g.clus with waits := (getClus s g.clus).waits ++ [{ who := .grem g.uid, units := 8 }] })
    ∧ (ready[n]? = some g → (g.idx.length * g.row < 65536 ∨ 0 < g.grant) → 0 < g.row → 0 < g.idx.length → idNode g.book = myNode s →
        let o := fun (j : Nat) => (g.base + g.idx.getD (j / g.row) 0 * g.rstr) % 2 ^ 64 + j % g.row; let start := bookFirst g.book * 2 ^ (bookSize g.book + 6)
        (∀ j < g.idx.length, rowOk g.idx g.base g.lo g.hi g.row g.rstr j = true) → (∀ j < g.idx.length * g.row, poisoned s (dramKey (o j)) = false) →
        ∃ t, exec (.gremRemoteGather n) s = .next t ∧ sameBytes s t ∧ (∃ y ∈ t.grems, y.uid = g.uid ∧ y.started = true ∧ y.status = 0 ∧ y.grant = 0)
          ∧ ((getClus t g.clus).held = (getClus s g.clus).held - g.grant)
          ∧ ∀ j < g.idx.length * g.row, pushed t g.core g.uid (g.launch.filter (fun l => kmem s.launches l)) g.book g.ord
              (start + j, mget s.mem (dramKey (o j))))
    ∧ (lfindN (fun x => decide (x.total ≠ 0 ∧ x.total ≤ x.got)) s.xfers n = some (i, x) → exec (.arrivalNotice n) s = .next
        (sendPacket { s with xfers := s.xfers.eraseIdx i } (x.launch.filter (fun l => kmem s.launches l))
          (mkPacket s 2 x.node x.core (.done x.core x.tag x.launch x.status x.bytes x.place))))
    ∧ (takeOrdered s (fun r _ => isDone r) isDone n = some (pk, s1) →
        (pk.body = .done cr tag la status bytes place → (∀ g ∈ s.grems, g.uid ≠ tag) → s.fars.find? (fun f => f.push && f.tag == tag) = some f →
          f.who = .cmd k e uid → findCmd s k e uid = some m →
          (status < 16 → ∃ t y, exec (.completionNotice n) s = .next t ∧ sameBytes s t ∧ findCmd t k e uid = some y ∧ y.out = m.out - 1
            ∧ y.moved = m.moved + bytes ∧ y.status = (if m.status = 0 then status else m.status) ∧ ∀ h ∈ t.fars, h.tag ≠ tag)
          ∧ (∀ l, 16 ≤ status → launchOf s (coreOf m.ctx) = some l → (getLaunch s l).first = none → ∃ t r, exec (.completionNotice n) s = .next t
            ∧ (getLaunch t l).first = some r ∧ r.cause = status ∧ r.core = coreId (coreOf m.ctx) ∧ r.ctx = idxOf m.ctx
            ∧ r.fva = BitVec.ofNat 64 (if f.vas = [] then place else f.vas.getD place 0)))
        ∧ (pk.body = .gremDone k uid la status bytes place pegs → findCmd s k .gte uid = some m → status < 16 → ∃ t y,
            exec (.completionNotice n) s = .next t ∧ sameBytes s t ∧ findCmd t k .gte uid = some y ∧ y.phase = 3 ∧ y.out = 0
            ∧ y.moved = m.moved + bytes ∧ y.status = (if m.status = 0 then status else m.status)))

/-- R88, R93-R95, R308, R309: ENQ takes the command in the low 256 bits of v[a]: one that fails a check is the illegal-command trap, a fused matrix
store over its operands the operand-alias trap; it waits while four commands of its queue are not yet outstanding; else the command joins the
queue with what ENQ samples, and s[d] receives its id or tag. -/
def Obligations.CommandsAreEnqueued : Prop :=
  ∀ (s : State) (d a : Reg) (e : Engine), let k := curCore s; let c : Cmd := (vfile (cur s) a).setWidth 256; let q := getQ s k e; let i : Instr := .enq d a e
    let F := fun (lo n : Nat) => c.toNat / 2 ^ lo % 2 ^ n; let bad := traps i s 0x501 (c.setWidth 64); let cop := F 0 8; plainRegs s [a] → (cur s).ub = 0 →
    let own := match e with | .mxu => 0x10 ≤ cop ∧ cop ≤ 0x17 | .cpe => 0x20 ≤ cop ∧ cop ≤ 0x22 | .gte => 0x30 ≤ cop ∧ cop ≤ 0x33 | .cre => 0x40 ≤ cop ∧ cop ≤ 0x47
    (¬own → bad) ∧ (F 11 5 ≠ 0 → bad) ∧ (cmdOk s e c (cur s).mfmt = false → bad)
    ∧ (e = .cpe → cop = 0x20 → (F 160 32 = 0 ∨ 2 ^ 31 ≤ F 160 32 ∨ 1 < F 192 4 ∨ F 212 4 = 1 ∨ 8 < F 212 4 ∨ F 204 8 ≠ 0 ∨ F 244 2 ≠ 0) → bad)
    ∧ (e = .cpe → cop = 0x20 → F 11 5 = 0 → (F 10 1 = 1 ∨ F 246 10 = 0) → 0 < F 160 32 → F 160 32 < 2 ^ 31 → F 192 4 = 0 → F 212 4 = 0 → F 204 8 = 0 →
        F 244 2 = 0 → F 32 64 < 2 ^ 24 → cmdOk s e c (cur s).mfmt = true)
    ∧ (cmdOk s e c (cur s).mfmt = true → e = .mxu → aliasOps c (cur s).mfmt ≠ 0 → traps i s 0x0B (BitVec.ofNat 64 (F 16 16 * 2 ^ 48 + aliasOps c (cur s).mfmt)))
    ∧ (cmdOk s e c (cur s).mfmt = true → (e ≠ .mxu ∨ aliasOps c (cur s).mfmt = 0) →
        (4 ≤ (q.cmds.filter (fun m => decide (m.phase ≤ 2))).length → blocks i s (.enq e))
        ∧ ((q.cmds.filter (fun m => decide (m.phase ≤ 2))).length < 4 → (cur s).acks = [] → ∃ t m, exec i s = .next t ∧ sameBytes s t
          ∧ { t with ctxs := s.ctxs, cores := s.cores, uid := s.uid, nonce := s.nonce } = s ∧ (∀ j, j ≠ k → getCore t j = getCore s j)
          ∧ (∀ x, x ≠ s.turn → getCtx t x = getCtx s x) ∧ (getQ t k e).cmds = q.cmds ++ [m] ∧ (∀ f, f ≠ e → getQ t k f = getQ s k f)
          ∧ m.word = c ∧ m.ctx = s.turn ∧ m.phase = 0 ∧ m.enqAt = nowNs s ∧ m.priv = (cur s).sm ∧ m.mfmt = (cur s).mfmt ∧ m.ascale = (cur s).ascale
          ∧ m.bscale = (cur s).bscale ∧ m.fmode = (cur s).fmode ∧ m.id = (if e = .cpe then (getCore s k).nextId + 1 else F 16 16)
          ∧ (getCore t k).nextId = (if e = .cpe then m.id else (getCore s k).nextId) ∧ inSequence (cur s) (getCtx t s.turn) 4
          ∧ (∀ r, sread (getCtx t s.turn) r = if r = d ∧ r ≠ 0 then BitVec.ofNat 64 m.id else sread (cur s) r)
          ∧ sameRegs (cur s) { getCtx t s.turn with s := (cur s).s, xprom := (cur s).xprom } ∧ (e ≠ .cpe → (getCtx t s.turn).xprom = (cur s).xprom)))

/-! ## The matrix unit -/

/-- R183-R185, R293, R297, R299, R302, R305, R310, R315, R316, R325: what a command of one tile does to its bank: MMA and MDIST fold the exact products, or squared
differences, of A's rows and B's rows into each element of the piece; MVERD does so from +0 for the elements that its sample leaves live and
gives the others the abandoned encoding; MZERO zeroes the piece, MLDACC loads it, MSTACC stores it, MTOPK writes each row's greatest entries.

R299: a tile that accesses rows 0 to M-1, columns 0 to N-1 of a bank meets the errors of the pairs of elements there, unless it overwrites a
pair whole; one that cannot be corrected stops it, else each is corrected and counted as a soft error of the cluster.

R133, R302: without a permutation, byte j of row i in block kb lies at OFF + kb·64·BSTR + i·16·RSTR + j of the cluster window. -/
def Obligations.MatrixCommandsComputeTheirPiece : Prop :=
  (∀ (s : State) (k : Nat) (m : EngCmd) (ta tb : ETy) (mode : MxMode) (ka kb kd ks kt : Nat → Nat → Nat), let c := m.word; let o := octOf k; let b := mxAcc c
    let M := mxM c; let N := mxN c; let K := mxK c; let wa := tyWidth ta / 8; let wb := tyWidth tb / 8
    let el := fun (t : ETy) (w : Nat) (ky : Nat → Nat → Nat) (i e : Nat) => opndOf t (cellsNat s (fun x => ky i (e * w + x)) w)
    let terms := fun (f : FVal → FVal → FVal) (i j : Nat) => (List.range K).map (fun e =>
      (f (el ta wa ka i e).v (el tb wb kb j e).v, (el ta wa ka i e).ab || (el tb wb kb j e).ab))
    let fold := fun (acc : Nat) (l : List (FVal × Bool)) => (if blockRule mode then foldBlock acc scaleOne l else foldEach acc l).w % 2 ^ 32
    let old := fun (i j : Nat) => if cbits c 9 1 = 1 then 0 else accGet (mxBank s o b) i j
    let multiplies := K ≤ 128 ∧ aType m.mfmt = some ta ∧ bType m.mfmt = some tb ∧ mxMode ta tb = some mode ∧ bits m.mfmt 12 1 = 0
      ∧ operandAt s k m (mxAD c) M (K * wa) ka ∧ operandAt s k m (mxBD c) N (K * wb) kb
    let dest := fun (rows n : Nat) => (∀ i < rows, ∀ j < n, resolve s (engWrite k m) (rowAddr (mxOUT c) 0 i j) = .cell (kd i j) ∧ poisoned s (kd i j) = false)
      ∧ ∀ i < rows, ∀ j < n, ∀ x < rows, ∀ y < n, kd i j = kd x y → i = x ∧ j = y
    let puts := fun (t : State) (rows n : Nat) (f : Nat → Nat → Byte) => (∀ i < rows, ∀ j < n, mget t.mem (kd i j) = f i j)
      ∧ ∀ a, (∀ i < rows, ∀ j < n, kd i j ≠ a) → mget t.mem a = mget s.mem a
    (soleTile s k 0x10 m → multiplies → cbits c 10 1 = 0 → tileRuns (.mma k) s k m (fun t => sameBytes s t
        ∧ pieceHolds s t o b M N (fun i j => fold (old i j) (terms prodV i j))))
    ∧ (soleTile s k 0x12 m → multiplies → cbits c 10 1 = 0 → tileRuns (.mdist k) s k m (fun t => sameBytes s t
        ∧ pieceHolds s t o b M N (fun i j => fold (old i j) (terms distV i j))))
    ∧ (soleTile s k 0x14 m → multiplies → blockRule mode = true → let top := decide (cbits c 253 1 = 1)
        (∀ j < N, ∀ x < 4, resolve s (mxRead k m) (sideAddr c j 0 (8 + x)) = .cell (ks j x) ∧ poisoned s (ks j x) = false) →
        (top = true → ∀ i < M, ∀ x < 4, resolve s (mxRead k m) (thrAddr c i + BitVec.ofNat 64 x) = .cell (kt i x) ∧ poisoned s (kt i x) = false) →
        let S := fun (j : Nat) => cellsNat s (ks j) 4; let th := fun (i : Nat) => cellsNat s (kt i) 4
        tileRuns (.mverd k) s k m (fun t => sameBytes s t ∧ pieceHolds s t o b M N (fun i j =>
          let v := verdTest top 0 0 (S j) (if top then th i else 0); if v = some true then 0xFFBF0000 else if v = some false then 0x7FBF0000
          else fold 0 (terms prodV i j))))
    ∧ (soleTile s k 0x15 m → tileRuns (.mzero k) s k m (fun t => sameBytes s t ∧ pieceHolds s t o b M N (fun _ _ => 0)))
    ∧ (soleTile s k 0x16 m → (∀ i < M, ∀ j < 4 * N, resolve s (mxRead k m) (rowAddr (mxAD c) 0 i j) = .cell (ka i j) ∧ poisoned s (ka i j) = false) →
        tileRuns (.mldacc k) s k m (fun t => sameBytes s t ∧ pieceHolds s t o b M N (fun i j => cellsNat s (fun x => ka i (4 * j + x)) 4)))
    ∧ (soleTile s k 0x17 m → oType m.mfmt = some .fp32 → dest M (4 * N) → tileRuns (.mstacc k) s k m (fun t =>
        puts t M (4 * N) (fun i j => BitVec.ofNat 8 (accGet (mxBank s o b) i (j / 4) / 2 ^ (8 * (j % 4))))
        ∧ pieceHolds s t o b M N (fun i j => if cbits c 9 1 = 1 then 0 else accGet (mxBank s o b) i j)))
    ∧ (soleTile s k 0x13 m → dest M (8 * K) → tileRuns (.mtopk k) s k m (fun t => pieceHolds s t o b M N (accGet (mxBank s o b))
        ∧ ∃ col : Nat → Nat → Nat, let v := fun (i j : Nat) => accGet (mxBank s o b) i j
          puts t M (8 * K) (fun i j => let r := j / 8
            BitVec.ofNat 8 ((if r < N then v i (col i r) + 2 ^ 32 * col i r else 0xFFFFFFFFFF800000) / 2 ^ (8 * (j % 8))))
          ∧ ∀ i < M, (∀ r < N, col i r < N) ∧ ∀ r < N, ∀ r' < N, r < r' → topRank (v i (col i r')) < topRank (v i (col i r))
            ∨ (topRank (v i (col i r')) = topRank (v i (col i r)) ∧ col i r < col i r'))))
  ∧ (∀ (s : State) (o M N : Nat) (b : Fin 4) (wr : Bool), let E := (mxBank s o b).errs; let inside := fun (e : Nat) => e / 128 < M ∧ e % 128 < N
      let read := fun (p : Nat) => (inside (2 * p) ∨ inside (2 * p + 1)) ∧ ¬(wr = true ∧ inside (2 * p) ∧ inside (2 * p + 1)); o < 576 →
      ((∃ p, (p, true) ∈ E ∧ read p) → bankScan s o b M N wr = none)
      ∧ ((∀ p, (p, true) ∈ E → ¬read p) → ∃ t, bankScan s o b M N wr = some t ∧ (∀ x i j, accGet (mxBank t o x) i j = accGet (mxBank s o x) i j)
          ∧ (mxBank t o b).errs = E.filter (fun e => !decide (inside (2 * e.1) ∨ inside (2 * e.1 + 1))) ∧ let off := 0x040000 + 16 * (o / 6)
          bar t off = BitVec.ofNat 64 (min ((bar s off).toNat + (E.filter (fun e => decide (read e.1))).length) (2 ^ 64 - 1))
          ∧ ∀ r, r ≠ off → bar t r = bar s r))
  ∧ (∀ (d kb i j : Nat), d / 2 ^ 61 % 8 = 0 → rowAddr d kb i j
    = BitVec.ofNat 64 (0x1000000 + d % 2 ^ 24 + 64 * (d / 2 ^ 41 % 2 ^ 18) * kb + 16 * (d / 2 ^ 24 % 2 ^ 14) * i + j))

/-- R311, R312: the oldest gang request that can be served claims its banks and stops its units, once no gang runs in the cluster; an MMAQ whose gang
runs computes piece (r, q) of its span on the unit of its place, rows r·M on and columns q·N on, and lets the units go. -/
def Obligations.GangsRunTogether : Prop :=
  ∀ (s : State) (c k n : Nat) (x : GangReq) (m : EngCmd) (ta tb : ETy) (mode : MxMode) (ka kb : Nat → Nat → Nat), let W := m.word; let b := mxAcc W
    let M := mxM W; let N := mxN W; let K := mxK W; let wa := tyWidth ta / 8; let wb := tyWidth tb / 8; let NP := (mxSpan W).2; let MP := (mxSpan W).1
    let el := fun (t : ETy) (w : Nat) (ky : Nat → Nat → Nat) (i e : Nat) => opndOf t (cellsNat s (fun x => ky i (e * w + x)) w)
    let terms := fun (i j : Nat) => (List.range K).map (fun e =>
      (prodV (el ta wa ka i e).v (el tb wb kb j e).v, (el ta wa ka i e).ab || (el tb wb kb j e).ab))
    let fold := fun (acc : Nat) (l : List (FVal × Bool)) => (if blockRule mode then foldBlock acc scaleOne l else foldEach acc l).w % 2 ^ 32
    ((∀ g ∈ (getClus s c).gang, g.running = false) → lfind (fun x => (gangServable s x).isSome) (getClus s c).gang = some (n, x) →
        gangServable s x = some m → clusOf x.core = c → ∃ t, exec (.gangStart c) s = .next t ∧ sameBytes s t
          ∧ (getClus t c).gang = (getClus s c).gang.set n { x with running := true }
          ∧ (∀ o ∈ gangOcts x.core m, (getOct t o).stopped = true ∧ (mxBank t o b).owner = launchOf s x.core ∧ (mxBank t o b).acc = (mxBank s o b).acc)
          ∧ (∀ o, o ∉ gangOcts x.core m → getOct t o = getOct s o) ∧ ∃ y, findCmd t x.core .mxu x.uid = some y ∧ y.phase = 2)
    ∧ ((getClus s (clusOf k)).gang.find? (fun g => g.running && g.core == k) = some x → findCmd s k .mxu x.uid = some m → m.pos = 0 → m.answers = [] →
        copOf W = 0x11 → cbits W 251 3 < 6 → K ≤ 128 → aType m.mfmt = some ta → bType m.mfmt = some tb → mxMode ta tb = some mode → bits m.mfmt 12 1 = 0 →
        cbits W 10 1 = 0 → (∀ o ∈ gangOcts k m, (mxBank s o b).errs = []) → operandAt s k m (mxAD W) (MP * M) (K * wa) ka → operandAt s k m (mxBD W) (NP * N) (K * wb) kb →
        ∃ t, exec (.mmaq k) s = .next t ∧ sameBytes s t
          ∧ (∀ p < MP * NP, (getOct t (pieceOct k p)).stopped = false ∧ pieceHolds s t (pieceOct k p) b M N (fun i j =>
              fold (if cbits W 9 1 = 1 then 0 else accGet (mxBank s (pieceOct k p) b) i j) (terms (p / NP * M + i) (p % NP * N + j))))
          ∧ (∀ g ∈ (getClus t (clusOf k)).gang, g.uid ≠ m.uid) ∧ ∃ y, findCmd t k .mxu x.uid = some y ∧ y.phase = 3)

/-! ## The crossing engine -/

/-- R357-R363: QGRAPH binds a model of the cluster's engine, which another launch's keeps waiting, and turns away participants that have joined for
another model; QVAR initialises beads from records and computes their next times; QSAMPLE waits for its time, or with no run active is taken at
once where the last run has passed it (log 45); QSTORM sets storm parameters between runs and in phase A, else waits; QRUN tells the root that it
runs; QSTOP posts a stop to a run. A command without the model, out of its range or at a wrong time ends CANCELLED. -/
def Obligations.ModelsAreBoundAndRun : Prop :=
  ∀ (s : State) (k : Nat) (m : EngCmd) (ky kd : Nat → Nat), let c := clusOf k; let x := getCre s c; let W := m.word
    let F := fun (lo n : Nat) => W.toNat / 2 ^ lo % 2 ^ n; let mine := x.owner ≠ none ∧ x.owner = launchOf s k
    let first := F 242 14; let cnt := F 228 14 + 1; let ends := fun (i : Instr) (st w2 : Nat) => ∃ t, exec i s = .next t ∧ ended t k m st w2 ∧ { t with cores := s.cores } = s
    let waits := fun (t : State) => ∃ y ∈ (getQ t k .cre).cmds, y.uid = m.uid ∧ y.phase = 2
    let set := fun (t : State) (f : Nat → Nat) => (∀ j < cnt, ∀ y < 64, mget t.mem (kd (64 * j + y)) = byteOf (f j) y)
      ∧ ∀ a, (∀ j < 64 * cnt, kd j ≠ a) → mget t.mem a = mget s.mem a
    let apart := ∀ i < 64 * cnt, ∀ j < 64 * cnt, kd i = kd j → i = j
    (readyCmd s k .cre 0x41 = some m →
      (x.owner ≠ none → x.owner ≠ launchOf s k → exec (.qgraph k) s = .next s)
      ∧ (mine → (x.phase ≠ .idle ∨ runCmd s c ≠ none) → ends (.qgraph k) 4 0)
      ∧ ((x.owner = none ∨ (mine ∧ x.phase = .idle ∧ runCmd s c = none)) → creAt s (creOf k m) (F 166 24) (4 * (F 190 12 + 1)) ky →
          ∃ t, exec (.qgraph k) s = .next t ∧ sameBytes s t ∧ ended t k m 0 (F 226 14 + 1) ∧ let y := getCre t c
            y.owner = launchOf s k ∧ y.core = k ∧ y.priv = m.priv ∧ y.mid = F 240 16 ∧ y.nbead = F 226 14 + 1 ∧ y.btab = F 202 24 ∧ y.t0 = F 102 64
            ∧ y.time = F 102 64 ∧ y.phase = .idle ∧ y.parts.length = F 190 12 + 1
            ∧ (∀ j ≤ F 190 12, y.parts[j]? = some (cellsNat s (fun b => ky (4 * j + b)) 4))
            ∧ let same := x.mid = y.mid ∧ x.parts = y.parts ∧ x.t0 = y.t0; y.joins = (if same then x.joins else [])
            ∧ (¬same → ∀ e ∈ x.joins, engHere s e → ∃ p ∈ t.arrived, p.body = .creEnd x.mid true 0 ∧ p.die = e / 32 % 4 ∧ p.clus = e % 32)))
    ∧ (readyCmd s k .cre 0x40 = some m → ((¬mine ∨ x.phase ≠ .idle ∨ x.nbead < first + cnt) → ends (.qvar k) 4 0)
      ∧ (mine → x.phase = .idle → first + cnt ≤ x.nbead → creAt s x (F 204 24) (64 * cnt) ky → creAt s x (x.btab + 64 * first) (64 * cnt) kd → apart →
          (∀ i < 64 * cnt, ∀ j < 64 * cnt, ky i ≠ kd j) →
          let bead := fun (j : Nat) => let b := beadIn s ky j; settleBead (bset (bset (bset b 299 3 0) 352 16 0) 384 64 (bTx b)) x.time
          ∃ t, exec (.qvar k) s = .next t ∧ set t bead ∧ ended t k m 0 ((List.range cnt).filter (fun j => !bErr (bead j))).length))
    ∧ (readyCmd s k .cre 0x44 = some m → ((¬mine ∨ x.nbead < F 154 14 + F 140 14 + 1 ∨ F 192 64 < x.time) → ends (.qsample k) 4 0)
      ∧ (mine → F 154 14 + F 140 14 + 1 ≤ x.nbead → x.time ≤ F 192 64 → (x.phase ≠ .idle ∨ x.dueTo ≤ F 192 64) →
          ∃ t, exec (.qsample k) s = .next t ∧ waits t ∧ { t with cores := s.cores } = s)
      ∧ (mine → F 154 14 + F 140 14 + 1 ≤ x.nbead → x.time ≤ F 192 64 → x.phase = .idle → F 192 64 < x.dueTo → let n := F 140 14 + 1
          creAt s x (x.btab + 64 * F 154 14) (64 * n) ky → creAt s x (F 168 24) (8 * n) kd → (∀ i < 8 * n, ∀ j < 8 * n, kd i = kd j → i = j) →
          ∃ t, exec (.qsample k) s = .next t ∧ ended t k m 0 n ∧ (∀ j < n, ∀ y < 8, mget t.mem (kd (8 * j + y))
              = byteOf (bAt (beadIn s ky j) (F 192 64) + 2 ^ 32 * bQ (beadIn s ky j)) y) ∧ ∀ a, (∀ y < 8 * n, kd y ≠ a) → mget t.mem a = mget s.mem a))
    ∧ (readyCmd s k .cre 0x45 = some m → ((¬mine ∨ x.nbead < first + cnt) → ends (.qstorm k) 4 0)
      ∧ (mine → first + cnt ≤ x.nbead → (x.phase = .idle ∨ x.phase = .choose) → creAt s x (x.btab + 64 * first) (64 * cnt) kd → apart →
          ∃ t, exec (.qstorm k) s = .next t ∧ set t (fun j => stormBead W x.time (beadIn s kd j)) ∧ ended t k m 0 cnt ∧ (getCre t c).sent = false)
      ∧ (mine → first + cnt ≤ x.nbead → x.phase ≠ .idle → x.phase ≠ .choose → ∃ t, exec (.qstorm k) s = .next t ∧ waits t ∧ { t with cores := s.cores } = s))
    ∧ (readyCmd s k .cre 0x42 = some m →
        let turned := fun (w2 : Nat) => ∃ t, exec (.qrun k) s = .next t ∧ ended t k m 4 w2 ∧ sameBytes s t ∧ getCre t c = x ∧ t.arrived = s.arrived
      (¬mine → turned 0) ∧ (mine → (x.phase ≠ .idle ∨ runCmd s c ≠ none) → turned x.time)
      ∧ (mine → x.phase = .idle → runCmd s c = none → engHere s (rootOf x) → ∃ t, exec (.qrun k) s = .next t ∧ waits t ∧ sameBytes s t
          ∧ getCre t c = x ∧ toldTo s t (rootOf x) (.creJoin x.mid (engWord s c) x.parts x.t0)))
    ∧ (readyCmd s k .cre 0x43 = some m → (¬mine → ends (.qstop k) 4 0) ∧ (mine → x.phase = .idle → ends (.qstop k) 0 0)
      ∧ (mine → x.phase ≠ .idle → ∃ t, exec (.qstop k) s = .next t ∧ waits t ∧ getCre t c = { x with sent := false } ∧ sameBytes s t))

/-- R347, R351-R353: in phase A an engine proposes the least next time of its beads that are not in error, its TEND, its pause and its stop; the root begins a
run when every participant has joined, ends it at a stop or when the least time is never or beyond the least TEND, waits while a bead is paused,
and else broadcasts the time once device time has reached its pace; it starts phase C when every engine has fired. -/
def Obligations.SetsAreChosen : Prop :=
  ∀ (s : State) (c T tend : Nat) (kb : Nat → Nat), let x := getCre s c; let tell := fun (y : Cre) (b : Body) => exec (.rootBroadcast c) s = .next (creTell (setCre s c y) c b)
    let all := fun (l : List Nat) => ∀ e ∈ x.parts, e ∈ l; let paused := ∃ p ∈ x.props, p.paused = true
    let pace := (runCmd s c).elim 0 (fun q => q.2.word.toNat / 2 ^ 160 % 2 ^ 32); creNow s c = s → creRuns s c = true →
    (x.phase = .choose → x.sent = false → creCmds s c 0x45 2 = [] → creAt s x x.btab (64 * x.nbead) kb → engHere s (rootOf x) →
        ∃ t pr, exec (.phaseAChoose c) s = .next t ∧ sameBytes s t ∧ getCre t c = { x with sent := true } ∧ toldTo s t (rootOf x) (.creProp x.mid pr)
          ∧ pr.eng = engWord s c ∧ pr.seq = x.nset ∧ (pr.paused = true ↔ ∃ i < x.nbead, bPause (beadIn s kb i) = true)
          ∧ pr.tend = (runCmd s c).elim never (fun p => p.2.word.toNat / 2 ^ 192 % 2 ^ 64) ∧ (pr.stop = true ↔ creCmds s c 0x43 2 ≠ [])
          ∧ (∀ i < x.nbead, bErr (beadIn s kb i) = false → pr.least ≤ bNext (beadIn s kb i))
          ∧ (pr.least = never ∨ ∃ i < x.nbead, bErr (beadIn s kb i) = false ∧ pr.least = bNext (beadIn s kb i)))
    ∧ (rootOf x = engWord s c → x.parts ≠ [] →
        (x.phase = .idle → all x.joins → tell { x with joins := [], props := [], firedBy := [], nsent := 0, runD0 := nowNs s, runTs := x.time } (.creBegin x.mid))
        ∧ (x.phase ≠ .idle → all x.firedBy → tell { x with firedBy := [] } (.creRespond x.mid))
        ∧ (x.phase ≠ .idle → ¬all x.firedBy → all (x.props.map (fun p => p.eng)) → T ≤ never → tend ≤ never →
            (∀ p ∈ x.props, T ≤ p.least ∧ tend ≤ p.tend) → (∃ p ∈ x.props, p.least = T) → (∃ p ∈ x.props, p.tend = tend) →
            ((∃ p ∈ x.props, p.stop = true) → (paused ∨ T = never → tell { x with props := [] } (.creEnd x.mid true 0))
              ∧ (¬paused → T ≠ never → tell { x with props := [] } (.creEnd x.mid true T)))
            ∧ ((∀ p ∈ x.props, p.stop = false) → (paused → exec (.rootBroadcast c) s = .next s)
              ∧ (¬paused → (T = never ∨ tend < T) → tell { x with props := [] } (.creEnd x.mid false T))
              ∧ (¬paused → T ≠ never → T ≤ tend →
                  if x.runD0 + ((T - x.runTs) * pace + 2 ^ 40 - 1) / 2 ^ 40 ≤ nowNs s then tell { x with props := [], nsent := x.nsent + 1 } (.creTime x.mid T)
                  else exec (.rootBroadcast c) s = .next s))))

/-- R342-R344, R347-R349, R362, R365: a bead of the set snaps to its level, computes its next time and sends its event; a due sample is written; an event
writes its mirror word, unless a later bead of the set has, wakes its dependant and is acknowledged; phase C starts the handlers of the woken, or ends at once with none; QSLOPE is
checked and asks, a slope in its place is applied, another turned away, and the answer reaches the context. -/
def Obligations.SetsFireAndRespond : Prop :=
  ∀ (s s1 : State) (c n i k h l mid src q mir dep key ctx start g dn code : Nat) (lo : Option Nat) (m : EngCmd) (w : Woken) (d a b : Reg) (pk : Packet)
    (kb kd : Nat → Nat), let x := getCre s c; let bd := beadIn s kb; let old := bd i; let now := settleBead (snapBead old x.setT) x.setT; let root := rootOf x
    let beads := creAt s x x.btab (64 * x.nbead) kb ∧ ∀ p < 64 * x.nbead, ∀ y < 64 * x.nbead, kb p = kb y → p = y
    let put := fun (t : State) (b : Nat) => (∀ y < 64, mget t.mem (kb (64 * i + y)) = byteOf b y)
      ∧ ∀ a, (∀ y < 64, kb (64 * i + y) ≠ a) → mget t.mem a = mget s.mem a
    let at_ := c = pk.die * 24 + pk.clus; let live := x.owner ≠ none
    (creNow s c = s → live → launchLive s x.core = true → x.phase = .fire → creCmds s c 0x44 2 = [] → beads → i < x.nbead → bPol old = 0 → engHere s root →
        (∀ j < x.nbead, (bErr (bd j) = false ∧ bNext (bd j) = x.setT) ↔ j = i) →
        (bDcnt now = 0 → ∃ t, exec (.phaseBFire c) s = .next t ∧ put t now ∧ toldTo s t root (.creFired x.mid (engWord s c))
          ∧ getCre t c = { x with time := x.setT, phase := .wait, owed := 0, fired := true, respond := false })
        ∧ (bDcnt now = 1 → creAt s x (bDptr now) 16 kd → (∀ p < 16, ∀ y < 64, kd p ≠ kb (64 * i + y)) → let e := cellsNat s kd 16
          let dest := e % 2 ^ 64 / 2 ^ 14; e % 2 ^ 64 < 2 ^ 33 → dest ∈ x.parts → engHere s dest → ∃ t, exec (.phaseBFire c) s = .next t ∧ put t now
            ∧ toldTo s t dest (.creEvent x.mid (engWord s c) (bQ now) (e / 2 ^ 64 % 2 ^ 32) (e % 2 ^ 14) (beadKey s c i now))
            ∧ getCre t c = { x with time := x.setT, phase := .wait, owed := 1, fired := false, respond := false }))
    ∧ (creNow s c = s → x.phase = .fire → creCmds s c 0x44 2 = [(k, m)] → let F := fun (lo n : Nat) => m.word.toNat / 2 ^ lo % 2 ^ n; F 192 64 < x.setT → beads →
        let cnt := F 140 14 + 1; F 154 14 + cnt ≤ x.nbead → creAt s x (F 168 24) (8 * cnt) kd → (∀ p < 8 * cnt, ∀ y < 8 * cnt, kd p = kd y → p = y) →
        ∃ t, exec (.sampleTake c) s = .next t ∧ ended t k m 0 cnt ∧ (∀ j < cnt, ∀ y < 8, mget t.mem (kd (8 * j + y))
            = byteOf (bAt (bd (F 154 14 + j)) (F 192 64) + 2 ^ 32 * bQ (bd (F 154 14 + j))) y)
          ∧ ∀ a, (∀ y < 8 * cnt, kd y ≠ a) → mget t.mem a = mget s.mem a)
    ∧ (takeOrdered s (eventOrder s) isCreEvent n = some (pk, s1) → pk.body = .creEvent mid src q mir dep key → at_ →
        ((¬live ∨ x.mid ≠ mid) → exec (.eventDelivery n) s = .next s1)
        ∧ (live → x.mid = mid → x.nbead ≤ dep → engHere s src → ∃ t, exec (.eventDelivery n) s = .next t ∧ sameBytes s t ∧ countsOne s t 0x042030
              ∧ toldTo s1 t src (.creEventAck mid) ∧ getCre t c = x)
        ∧ (live → x.mid = mid → dep < x.nbead → engHere s src → let last := kget 0 x.mirs mir; let writes := mir < 0xC00000 ∧ mir % 4 = 0 ∧ last ≤ key
            (writes → creAt s x mir 4 kd ∧ ∀ p < 4, ∀ y < 4, kd p = kd y → p = y) →
            ∃ t, exec (.eventDelivery n) s = .next t ∧ toldTo s1 t src (.creEventAck mid) ∧ (¬writes → sameBytes s t)
              ∧ (writes → (∀ y < 4, mget t.mem (kd y) = byteOf q y) ∧ (∀ a, (∀ y < 4, kd y ≠ a) → mget t.mem a = mget s.mem a)
                  ∧ kget 0 (getCre t c).mirs mir = key) ∧ (∀ j, j ≠ dep → (getCre t c).woken.filter (fun w => w.ix == j) = x.woken.filter (fun w => w.ix == j))
              ∧ (getCre t c).woken.filter (fun w => w.ix == dep) = if ∃ w ∈ x.woken, w.ix = dep
                  then (x.woken.filter (fun w => w.ix == dep)).map (fun w => { w with count := w.count + 1 }) else [{ ix := dep, count := 1 }]))
    ∧ (creNow s c = s → x.phase = .wait → x.respond = true → launchLive s x.core = true →
        (x.woken = [] → ∃ t, exec (.phaseCRespond c) s = .next t ∧ sameBytes s t ∧ getCre t c = { x with phase := .choose, sent := false, respond := false, mirs := [] })
        ∧ (x.woken = [w] → w.reported = false → i = w.ix → w.ix < x.nbead → beads → bOwn old < 48 → k = 48 * c + bOwn old → launchOf s k = some l →
            (getLaunch s l).job = (launchRec s x.core).job → let cl := if bCls old ≤ 15 ∨ bCls old = 17 then bCls old else 17
            handValid (handOf s k cl) = true → mayStart s k cl = true → (∀ e ∈ (getCore s k).spill, e.msg.cls ≠ cl) → (∀ r ∈ (getCore s k).refused, r.cls ≠ cl) →
            freeHelper s k = some h → ∃ t, exec (.phaseCRespond c) s = .next t ∧ sameBytes s t ∧ (getCre t c).phase = .respond ∧ (getCre t c).woken = [w]
              ∧ let y := getCtx t (16 * k + h); y.st = .ready ∧ y.pc = handAddr (handOf s k cl) ∧ sread y 1 = BitVec.ofNat 64 (beadId s c i)
                ∧ sread y 2 = BitVec.ofNat 64 x.time ∧ sread y 3 = BitVec.ofNat 64 w.count ∧ sread y 4 = BitVec.ofNat 64 (0x1000000 + x.btab + 64 * i)))
    ∧ (takeOrdered s (fun r p => isSlope r && decide (p.src ≠ myNode s)) isSlope n = some (pk, s1) → pk.body = .slope ctx start lo g dn → at_ → i = g % 2 ^ 14 →
        let answer := fun (code : Nat) => sendPacket s1 x.owner (mkPacket s1 5 pk.src (coreOf ctx) (.slopeAns ctx start code))
        ((¬live ∨ x.owner ≠ lo ∨ x.nbead ≤ i) → exec (.slopeReport n) s = .next (answer 2))
        ∧ (live → x.owner = lo → i < x.nbead → unreported x i = false → x.phase ≠ .idle → exec (.slopeReport n) s = .next (answer 1))
        ∧ (live → x.owner = lo → i < x.nbead → (unreported x i = true ∨ x.phase = .idle) → beads → pk.src = myNode s → ∃ t p, exec (.slopeReport n) s = .next t
            ∧ put t (settleBead (bset (bset (bset old 128 32 (bAt old x.time)) 160 32 dn) 0 64 x.time) x.time) ∧ t.arrived = s1.arrived ++ [p] ∧ p.body = .slopeAns ctx start 0))
    ∧ (takeOrdered s (fun r p => isSlopeAns r && decide (p.src ≠ myNode s)) isSlopeAns n = some (pk, s1) → pk.body = .slopeAns ctx start code → (getCtx s ctx).wait = some (.slope d) → (getCtx s ctx).start = start →
        ∃ t, exec (.qslopeAnswer n) s = .next t ∧ { t with ctxs := s.ctxs } = s1 ∧ answered s t ctx d (BitVec.ofNat 64 code))
    ∧ (let B := (sreg s b).toNat % 2 ^ 32; let A := (sreg s a).toNat; let e := A / 2 ^ 14; let i : Instr := .qslope d a b
        (isAband B = true → traps i s 0x05 (BitVec.ofNat 64 (0xFF * 2 ^ 32 + B))) ∧ (isAband B = false → notNum B = true → writesS i s 4 d 3)
        ∧ (notNum B = false → (2 ^ 33 ≤ A ∨ 24 ≤ e % 32 ∨ jobNode s (e / 128) = false) → writesS i s 4 d 2)
        ∧ (notNum B = false → A < 2 ^ 33 → engHere s e → ∃ t, asks i s t (.slope d)
            ∧ toldTo s t e (.slope s.turn (cur s).start (launchOf s (curCore s)) A B)))

/-- R257, R367-R372, R401: SPKTAB fills router entries and list words; SPKSTEP joins its step at the root and puts its spikes before the router; the router
counts a lost spike, else copies a spike out of the listed ports that are up, but the one it came by, and to the listed cores; a step completes
once all have joined, every spike is routed and every handler has retired, at its nominal end at the earliest; each SPKSTEP then ends with its lost
spikes and its stretch, and the overrun trap beyond its slack. RETIRE frees its context. -/
def Obligations.SpikesAndSteps : Prop :=
  ∀ (s s1 : State) (k n i l key step hops job lost time nominal h : Nat) (g : List Nat) (from_ : Option Nat) (pk : Packet) (m : EngCmd) (x : StepGroup)
    (e : Nat × BitVec 128) (ky kl : Nat → Nat), let F := fun (lo n : Nat) => m.word.toNat / 2 ^ lo % 2 ^ n; let cj := (launchRec s k).job
    let num := fun (ky : Nat → Nat) (w j : Nat) => cellsNat s (fun b => ky (w * j + b)) w; let router := creOf k m
    (readyCmd s k .cre 0x46 = some m → let cnt := F 232 12 + 1; let ln := if F 155 1 = 1 then F 180 14 + 1 else 0
      (routerServes s cj = false → ∃ t, exec (.spktab k) s = .next t ∧ ended t k m 4 0 ∧ t.spk = s.spk)
      ∧ (routerServes s cj = true → creAt s router (F 208 24) (16 * cnt) ky → creAt s router (F 156 24) (2 * ln) kl →
          ∃ t, exec (.spktab k) s = .next t ∧ sameBytes s t ∧ ended t k m 0 cnt
            ∧ (∀ j < cnt, kget 0 t.spk.ents ((F 244 12 + j) % 4096) = BitVec.ofNat 128 (num ky 16 j))
            ∧ (∀ j < ln, kget 0 t.spk.list ((F 194 14 + j) % 16384) = BitVec.ofNat 16 (num kl 2 j))
            ∧ (∀ a, (∀ j < cnt, (F 244 12 + j) % 4096 ≠ a) → kget 0 t.spk.ents a = kget 0 s.spk.ents a)
            ∧ ∀ a, (∀ j < ln, (F 194 14 + j) % 16384 ≠ a) → kget 0 t.spk.list a = kget 0 s.spk.list a))
    ∧ (readyCmd s k .cre 0x47 = some m → let cnt := F 186 14; let np := F 174 12 + 1
      (routerServes s cj = false → ∃ t, exec (.spkstep k) s = .next t ∧ ended t k m 4 0)
      ∧ (routerServes s cj = true → creAt s router (F 200 24) (4 * cnt) ky → creAt s router (F 150 24) (4 * np) kl → g = (List.range np).map (num kl 4) →
          groupRoot g = myNode s → jobNode s (myNode s) = true → ∃ t join spikes, exec (.spkstep k) s = .next t ∧ sameBytes s t
            ∧ t.arrived = s.arrived ++ join :: spikes
            ∧ join.body = .stepJoin g (F 224 32) (myNode s * 2 ^ 13 + coreId k) cnt m.enqAt (F 118 32) ∧ spikes.length = cnt
            ∧ (∀ j < cnt, ∃ p, spikes[j]? = some p ∧ p.cls = 4 ∧ p.body = .spike g (num ky 4 j) (F 224 32) 0 cj none)
            ∧ ∃ y ∈ (getQ t k .cre).cmds, y.uid = m.uid ∧ y.phase = 3 ∧ y.out = 1 ∧ y.parts = g))
    ∧ (takeArrived s isSpike n = some (pk, s1) → pk.body = .spike g key step hops job from_ → groupRoot g = myNode s → jobNode s (myNode s) = true →
        let counts := fun (fwd loc lost : Nat) (t : State) => queued s1 t 5 (.stepCount g step hops 1 fwd loc lost 0)
        let ent := e.2.toNat; let down := fun (t : State) => bar t 0x042028 = BitVec.ofNat 64 (min ((bar s 0x042028).toNat + 1) (2 ^ 64 - 1))
        ((routerServes s job = false ∨ 64 ≤ hops) → ∃ t, exec (.spikeRoute n) s = .next t ∧ down t ∧ counts 0 0 1 t)
        ∧ (routerServes s job = true → hops < 64 → (∀ e ∈ s.spk.ents, entMatch e.2 key = false) → ∃ t, exec (.spikeRoute n) s = .next t ∧ down t ∧ counts 0 0 0 t)
        ∧ (routerServes s job = true → hops < 64 → s.spk.ents.find? (fun e => entMatch e.2 key) = some e →
          (ent / 2 ^ 80 % 2 ^ 7 = 0 → let ps := (List.range 8).filter (fun i => decide (ent / 2 ^ 88 / 2 ^ i % 2 = 1) && (getPort s i).up && from_ != some i
              && (neighbour s (myNode s) (i / 2) (decide (i % 2 = 0))).isSome)
            let copy := fun (i : Nat) (q : Packet) => q.body = .spike g key step (hops + 1) job none ∧ q.src = pk.src ∧ q.cls = pk.cls
              ∧ neighbour s (myNode s) (i / 2) (decide (i % 2 = 0)) = some q.dst
            ∃ t, exec (.spikeRoute n) s = .next t ∧ sameBytes s t ∧ counts ps.length 0 0 t
              ∧ (∀ i ∈ ps, ∃ q, copy i q ∧ ((i, q) ∈ t.outbox ∨ q ∈ (getPort t i).queue))
              ∧ ((∀ i ∈ ps, clearPort s i pk.cls (1 + pk.ndf)) → t.outbox.map (·.1) = s.outbox.map (·.1) ++ ps
                  ∧ ∀ q ∈ t.outbox.drop s.outbox.length, copy q.1 q.2))
          ∧ (ent / 2 ^ 80 % 2 ^ 7 = 1 → ent / 2 ^ 88 % 2 ^ 8 = 0 → coreOfId ((kget 0 s.spk.list (ent / 2 ^ 64 % 2 ^ 14)).toNat % 2 ^ 13) = some k →
              launchOf s k = some l → (getLaunch s l).job = job → handValid (handOf s k 18) = true → mayStart s k 18 = true →
              (∀ y ∈ (getCore s k).spill, y.msg.cls ≠ 18) → (∀ r ∈ (getCore s k).refused, r.cls ≠ 18) → freeHelper s k = some h →
              ∃ t, exec (.spikeRoute n) s = .next t ∧ sameBytes s t ∧ counts 0 1 0 t ∧ let y := getCtx t (16 * k + h)
                y.st = .ready ∧ y.pc = handAddr (handOf s k 18) ∧ sread y 1 = BitVec.ofNat 64 key ∧ sread y 2 = BitVec.ofNat 64 step)))
    ∧ (stepReady s x = true ↔ x.done = none ∧ (∀ w ∈ x.parts, w ∈ x.joined) ∧ x.made = x.routed ∧ x.loc = x.retired ∧ ∃ t, nominalEnd s x = some t ∧ t ≤ nowNs s)
    ∧ ((∀ p ∈ s.arrived, isStepMsg p = false) → lfindN (stepReady s) s.steps n = some (i, x) → (∀ w ∈ x.parts, partNode w = myNode s) → x.parts ≠ [] →
        jobNode s (myNode s) = true → nominalEnd s x = some nominal → ∃ t, exec (.stepBarrierComplete n) s = .next t ∧ sameBytes s t
          ∧ queued s t 5 (.stepDone x.parts x.step x.lost (nowNs s) nominal) ∧ (getStep t x.parts x.step).done = some (nowNs s))
    ∧ (s.arrived = [pk] → s.steps = [] → pk.body = .stepDone g step lost time nominal → myNode s * 2 ^ 13 + coreId k ∈ g → k < 4608 → m ∈ (getQ s k .cre).cmds → (∀ z ∈ (getQ s k .cre).cmds, z.uid = m.uid → z = m) →
        isStepCmd g step m = true → let st := min (time - nominal) (2 ^ 32 - 1); ∃ t y, exec (.stepBarrierComplete n) s = .next t ∧ y ∈ (getQ t k .cre).cmds
          ∧ y.uid = m.uid ∧ y.out = 0 ∧ y.status = (if lost = 0 then 0 else 3) ∧ y.word2 = min lost (2 ^ 32 - 1) * 2 ^ 32 + st
          ∧ y.traps = if F 86 32 < time - nominal then [{ cause := 0x0A, tval := BitVec.ofNat 64 (F 224 32 * 2 ^ 32 + st) }] else [])
    ∧ ((cur s).acks ≠ [] → blocks .retire s .acks)
    ∧ ((cur s).acks = [] → (getCore s (curCore s)).spill = [] → (getCore s (curCore s)).refused = [] →
        let freed := fun (t : State) => let c := getCtx t s.turn; c.st = .free ∧ c.t = false ∧ c.mkr = false ∧ c.leave = 0 ∧ c.gens = Vector.replicate 4 none
          ∧ c.qb = [] ∧ c.held = [] ∧ (∀ x, x ≠ s.turn → getCtx t x = getCtx s x) ∧ sameBytes s t
          ∧ (getClus t (clusOf (curCore s))).held = (getClus s (clusOf (curCore s))).held - (cur s).leave
        ((cur s).origin = .plain → ∃ t, exec .retire s = .next t ∧ freed t ∧ { t with ctxs := s.ctxs, clus := s.clus } = s)
        ∧ ((cur s).origin = .spike g step → groupRoot g = myNode s → jobNode s (myNode s) = true → ∃ t, exec .retire s = .next t ∧ freed t
            ∧ queued s t 5 (.stepCount g step 0 0 0 0 0 1)))

/-! ## Remote accesses and tokens -/

/-- R29, R61, R65, R71, R72, R139: an access that another module sends is performed once its data have come: a peer's on local DRAM, one of a region in the
backing of each byte's holder; it is answered with the bytes before it, on MC1 where they are data that were read, the acknowledgement of a store, the token trap at
the lowest address under DUP, or an uncorrectable error; a part of a store over several tokens is kept in its place at the home until the end of the store is
told. The answer reaches the context or command that asked, which goes on when every byte has come. -/
def Obligations.RemoteAccessesArePerformedAndAnswered : Prop :=
  ∀ (s s1 : State) (n ix tag x start node : Nat) (acc acc0 : FarAcc) (pk : Packet) (f : FarReq) (r : Region) (bs : List (Nat × Byte)) (i : Nat) (places : List Nat)
    (hold go : Bool) (lk : Lock),
    let old := fun (keys : List Nat) => keys.map (mget s.mem); let ixs := List.range acc.addrs.length; let came := { s with arrived := ldel s.arrived ix }
    let clean := fun (keys : List Nat) => ∀ y ∈ keys, poisoned s y = false; let stores := acc.kind = .store ∨ acc.kind = .engWrite
    let after := fun (keys : List Nat) (u : State) => (∀ a, mget u.mem a = if stores then written s (keys.zip acc.data) a
        else if acc.kind = .amo then ((rmwNew acc.amo acc.cas acc.data (old keys)).map (fun b => written s (keys.zip b) a)).getD (mget s.mem a)
        else mget s.mem a) ∧ u.arrived = s1.arrived ∧ ∀ y, getCtx u y = getCtx s y
    let answer := fun (u : State) (w : Nat) (body : Body) =>
      exec (if isPeerReq pk then .peerRequest n else .noneStateAccess n) s
        = .next (sendPacket u none (if stores then mkPacket u 3 w 0 body else { mkPacket u 1 w 0 body with ord := acc.ob }))
    let c := getCtx s x; let mine := s.fars.find? (fun f => f.tag == tag) = some f ∧ f.tag = tag ∧ f.who = .ctx x start ∧ c.st ≠ .free ∧ c.start = start ∧ c.holds = []
    let gone := fun (t : State) => t.fars = s.fars.filter (fun f => f.tag != tag)
    (nthAt s (peerMay s) n = some (ix, pk) → pk.body = .peerReq tag acc0 → withData came pk.src tag acc0 = some (acc, s1) → let keys := acc.addrs.map dramKey
      (clean keys → ∃ u, after keys u ∧ answer u pk.src (if acc.kind = .store then .peerAck tag else .peerAns tag (.bytes (ixs.zip (old keys)))))
      ∧ (¬stores → i < acc.addrs.length → (∀ a ∈ acc.addrs, a < 2 ^ 39) → (∀ j < i, poisoned s (keys.getD j 0) = false) → poisoned s (keys.getD i 0) = true →
          ∃ u, countsOne s1 u (0x041008 + 16 * dramStack (keys.getD i 0)) ∧ { u with regs := s1.regs } = s1
            ∧ exec (.peerRequest n) s = .next (sendPacket u none (mkPacket u 3 pk.src 0 (.peerAns tag (.ecc i))))))
    ∧ (nthAt s (noneMay s) n = some (ix, pk) → regionOf s (acc.addrs.headD 0) = some r → acc.addrs ≠ [] → (stores → acc.data.length = acc.addrs.length) →
        let dir := fun (i : Nat) => r.dir[tokenIx r (acc.addrs.getD i 0)]; let forbids := stores ∨ acc.kind = .amo; let keys := acc.addrs.map (backKey s r)
        let here := ∀ j < acc.addrs.length, (dir j).excl = none ∨ (dir j).excl = some (myNode s)
        (pk.body = .noneReq tag acc0 hold → withData came pk.src tag acc0 = some (acc, s1) →
          (forbids → i < acc.addrs.length → (dir i).dups ≠ [] → (∀ j < acc.addrs.length, (dir j).dups ≠ [] → acc.addrs.getD i 0 ≤ acc.addrs.getD j 0) →
            (∀ j < i, (dir j).dups = [] ∨ acc.addrs.getD i 0 < acc.addrs.getD j 0) → exec (.noneStateAccess n) s
              = .next (sendPacket s1 none (mkPacket s1 3 pk.src 0 (.noneAns tag (if acc.kind = .engWrite then .prot i else .trap i)))))
          ∧ ((forbids → ∀ j < acc.addrs.length, (dir j).dups = []) →
            (hold = true → ∃ t, exec (.noneStateAccess n) s = .next t ∧ sameBytes s t
              ∧ t.regions = s.regions.map (fun q => if q.base = r.base then { r with lock := some { node := pk.src, tag := tag, acc := acc } } else q)
              ∧ { t with regions := s.regions } = sendPacket s1 none (mkPacket s1 3 pk.src 0 (.noneAns tag .held)))
            ∧ (hold = false → here → clean keys → ∃ u, after keys u ∧ answer u pk.src (.noneAns tag (.bytes (ixs.zip (old keys)))))
            ∧ (hold = false → (∀ j < acc.addrs.length, (dir j).excl = some node) → node ≠ myNode s →
                let sent := sendPacket s1 none (mkPacket s1 3 node 0 (.noneFwd tag pk.src ixs { acc with data := [], cas := acc.cas.map (fun _ => []) }))
                exec (.noneStateAccess n) s = .next (if forbids then
                  sendPacket sent none { mkPacket sent 1 node 0 (.accData pk.src tag acc.data acc.cas) with ord := acc.ob } else sent))))
        ∧ (pk.body = .noneFwd tag node places acc0 → withData came node tag acc0 = some (acc, s1) → places.length = acc.addrs.length → clean keys →
            ∃ u, after keys u ∧ answer u node (.noneAns tag (.bytes (places.zip (old keys)))))
        ∧ (pk.body = .noneEnd tag go → s.regions.find? (fun q => (q.lock.map (fun l => l.node == pk.src && l.tag == tag)).getD false) = some r → r.lock = some lk →
            lk.acc = acc → s1 = came →
            (go = true → here → clean keys → ∃ u, after keys u ∧ answer u pk.src (.noneAns tag (.bytes (ixs.zip (old keys)))))
            ∧ (go = false → ∃ t, exec (.noneStateAccess n) s = .next t ∧ { t with regions := s.regions } = came
              ∧ t.regions = s.regions.map (fun q => if q.base = r.base then { r with lock := none } else q))))
    ∧ (takeOrdered s (strictly isPeerAns) isPeerAns n = some (pk, s1) → mine → c.farTag = some tag →
        ((pk.body = .peerAns tag (.bytes bs) ∨ pk.body = .noneAns tag (.bytes bs)) → let held := c.answers ++ bs.map (fun p => (BitVec.ofNat 64 (f.vas.getD p.1 0), p.2))
          (f.vas.length ≤ f.got.length + bs.length → ∃ t, exec (.peerAnswer n) s = .next t ∧ gone t ∧ sameBytes s t ∧ (∀ y, y ≠ x → getCtx t y = getCtx s y)
            ∧ getCtx t x = { c with answers := held, farTag := none, st := if c.st = .blocked then .ready else c.st })
          ∧ (f.got.length + bs.length < f.vas.length → ∃ t, exec (.peerAnswer n) s = .next t ∧ sameBytes s t ∧ getCtx t x = { c with answers := held }
            ∧ { f with got := f.got ++ bs.map (·.1) } ∈ t.fars))
        ∧ ((pk.body = .peerAns tag (.trap i) ∨ pk.body = .noneAns tag (.trap i)) → exec (.peerAnswer n) s
            = .next (takeTrap (dropFar s1 tag) x c.pc 0x08 (BitVec.ofNat 64 (f.vas.getD i 0)))))
    ∧ (takeOrdered s (strictly isPeerAck) isPeerAck n = some (pk, s1) → pk.body = .peerAck tag → mine → c.farTag ≠ some tag → ∃ t, exec (.peerStoreAck n) s = .next t
        ∧ gone t ∧ sameBytes s t ∧ getCtx t x = { c with acks := c.acks.filter (fun y => y != tag) } ∧ ∀ y, y ≠ x → getCtx t y = getCtx s y)

/-- R75-R81: a token instruction on an address that is not translated, or not permitted, faults; else it waits, as a full fence, for the
acknowledgements of its context's peer stores; then on an untracked page it answers 5; with NB = 1 while a transition of
the token is pending at its module it answers 1; else its request goes to the home and only its context waits. TKQRY reads the module's state. -/
def Obligations.TokenInstructionsAsk : Prop :=
  ∀ (s : State) (d a : Reg) (nb : Bool) (r : Region) (cause key : Nat), let va := sreg s a; let v := va.toNat
    let bad := fun (i : Instr) => exec i s = .next (raiseFault (noteDouble s key) s.turn (eccOf key) va)
    let code := fun (st : TokSt) => if st = .none then 0 else if st = .dup then 1 else 2
    let pend := fun (sub : Option Nat) => r.pend.any (fun q => q.2.isNone || sub.isNone || q.2 == sub)
    let ask := fun (i : Instr) (op : TokOp) => let acq := decide (op = .acq)
      ((v < 2 ^ 40 ∨ 2 ^ 47 ≤ v) → faults i s 0x20 va) ∧ (tokCheck s va acq = .fault cause → faults i s cause va) ∧ (tokCheck s va acq = .bad key → bad i)
      ∧ (tokCheck s va acq = .untracked → ((cur s).acks ≠ [] → blocks i s .acks) ∧ ((cur s).acks = [] → loads i s d 5))
      ∧ (tokCheck s va acq = .region r → let sub := if op = .split ∨ op = .merge ∨ r.split = false then none else some ((v - r.base) / 2 ^ 16 % 32)
          ((cur s).acks ≠ [] → blocks i s .acks)
          ∧ ((cur s).acks = [] → nb = true → pend sub = true → loads i s d (BitVec.ofNat 64 (16 * code (ownTok r v) + 1)))
          ∧ ((nb = false ∨ pend sub = false) →
            ((cur s).acks = [] → r.home = myNode s → ∃ t, asks i s t (.token d) ∧ queued s t 3 (.tokReq s.uid op v nb)
              ∧ t.regions = s.regions.map (fun q => if q.base = r.base then { r with pend := (s.uid, sub) :: r.pend } else q)
              ∧ ∃ f, t.fars = s.fars ++ [f] ∧ f.tag = s.uid ∧ f.who = .ctx s.turn (cur s).start)))
    ask (.tkacq d a nb) .acq ∧ ask (.tkdup d a nb) .dup ∧ ask (.tkrel d a nb) .rel ∧ ask (.tksplit d a nb) .split ∧ ask (.tkmerge d a nb) .merge
    ∧ ((v < 2 ^ 40 ∨ 2 ^ 47 ≤ v) → faults (.tkqry d a) s 0x20 va) ∧ (tokCheck s va false = .fault cause → faults (.tkqry d a) s cause va)
    ∧ (tokCheck s va false = .bad key → bad (.tkqry d a))
    ∧ ((tokCheck s va false = .untracked ∨ tokCheck s va false = .region r) → (cur s).acks ≠ [] → blocks (.tkqry d a) s .acks)
    ∧ (tokCheck s va false = .untracked → (cur s).acks = [] → loads (.tkqry d a) s d 0)
    ∧ (tokCheck s va false = .region r → (cur s).acks = [] → let sub := if r.split then some ((v - r.base) / 2 ^ 16 % 32) else none
        loads (.tkqry d a) s d (BitVec.ofNat 64 (r.home * 2 ^ 16 + sub.getD 0 * 2 ^ 8 + 32 + (if r.split then 16 else 0) + (if pend sub then 8 else 0)
          + code (ownTok r v))))

/-- R68-R70, R73, R74, R78, R79, R84: the home serves one request of a region at a time: it answers at once one that needs no change, BUSY to one that may not wait,
2 to a split or merge without the whole, and else tells every party the state it comes to hold and grants when all have acknowledged, with the bytes of the token in
ordered packets of 4 KiB where the module has none; one that has lost a party answers 3. A holder that loses EXCL writes back the lines it wrote before it acknowledges;
a grant is taken once its copy has come; the answer reaches the context. -/
def Obligations.TokenTransitions : Prop :=
  ∀ (s s1 : State) (n ix tag va base node status x start : Nat) (op : TokOp) (nb : Bool) (pk : Packet) (r : Region) (sub : Option Nat) (st prev : TokSt) (copy : Bool)
    (cells : List (Nat × Byte)) (j : TokJob) (d : Reg) (f : FarReq) (e : DirEnt), let h := myNode s
    let lo := match sub with | some i => r.base + i * 2 ^ 16 | none => r.base; let len := match sub with | some _ => 2 ^ 16 | none => r.size
    let at_ := backKey s r; let one := base = r.base ∧ regionOf s base = some r ∧ (∀ q ∈ s.regions, q.base = r.base → q = r)
    let region := fun (t : State) (q : Region) => t.regions = s.regions.map (fun y => if y.base = r.base then q else y)
    let lands := fun (t : State) => ∀ a, mget t.mem a = written s (cells.map (fun c => (at_ c.1, c.2))) a
    let sends := fun (s0 t : State) (cls w : Nat) (body : Body) => { t with regions := s.regions } = sendPacket s0 none (mkPacket s0 cls w 0 body)
    (nthAt s (fun i p => isTokReq p && mayServe s i p) n = some (ix, pk) → pk.body = .tokReq tag op va nb → s1 = { s with arrived := ldel s.arrived ix } →
        let answers := fun (status : Nat) (prev : TokSt) => ∃ t, exec (.tokenRequest n) s = .next t ∧ t.regions = s.regions ∧ sends s1 t 3 pk.src (.tokAnswer tag status prev)
        (regionOf s va = none → answers 3 .none)
        ∧ (regionOf s va = some r → e = r.dir[tokenIx r va] → sub = (if op = .split ∨ op = .merge ∨ r.split = false then none else some ((va - r.base) / 2 ^ 16 % 32)) →
          let w := pk.src; prev = (if e.excl = some w then .excl else if w ∈ e.dups then .dup else .none) →
          (r.job = some j → nb = true → (j.sub = none ∨ sub = none ∨ j.sub = sub) → answers 1 prev)
          ∧ (r.job = none → reachable s h w = true →
            ((op = .acq ∧ prev = .excl ∨ op = .dup ∧ prev = .dup ∨ op = .rel ∧ prev = .none) → answers 0 prev)
            ∧ ((op = .split ∧ (r.split = true ∨ (r.dir[0]).excl ≠ some w) ∨ op = .merge ∧ (r.split = false ∨ ∃ i : Fin 32, (r.dir[i]).excl ≠ some w)) → answers 2 prev)
            ∧ (((op = .acq ∧ prev = .dup ∧ e.excl = none ∧ e.dups = [w] ∧ st = .excl) ∨ (op = .rel ∧ prev ≠ .none ∧ st = .none)
                ∨ (op = .dup ∧ prev = .excl ∧ st = .dup)) → ∃ t k, exec (.tokenRequest n) s = .next t ∧ region t { r with job := some k } ∧ k.tag = tag ∧ k.node = w
                ∧ k.op = op ∧ k.sub = sub ∧ k.prev = prev ∧ k.waiting = [(w, st)] ∧ k.grant = none ∧ k.lost = false
                ∧ sends s1 t 3 w (if op = .acq then .tokGrant r.base sub st false tag else .tokRevoke r.base sub st))
            ∧ (op = .acq → prev = .none → e.excl = some node → e.dups = [] → node ≠ w → reachable s h node = true → ∃ t k, exec (.tokenRequest n) s = .next t
                ∧ region t { r with job := some k } ∧ k.tag = tag ∧ k.node = w ∧ k.op = op ∧ k.sub = sub ∧ k.prev = prev ∧ k.waiting = [(node, .none)]
                ∧ k.grant = some (.excl, decide (w ≠ h)) ∧ k.lost = false ∧ sends s1 t 3 node (.tokRevoke r.base sub .none))
            ∧ (op = .acq → prev = .none → e.excl = some node → e.dups = [] → node ≠ w → reachable s h node = false → answers 3 prev))))
    ∧ (takeOrdered s (fun a b => isRevoke a && revokeBase a.body == revokeBase b.body) isRevoke n = some (pk, s1) → busyHolder s base = false → one →
        (pk.body = .tokRevoke base sub st → (∀ i, sub = some i → i < 32) → let s2 := { s1 with arrived := s1.arrived.filter (fun p => !isGrantOf r.base sub p) }
          let q := { r with own := r.own.set (subIx sub) st, copied := 0, lines := r.lines.filter (fun l => !decide (lo ≤ 256 * l ∧ 256 * l < lo + len)) }
          ((r.home = h ∨ r.own[subIx sub] ≠ .excl) → ∃ t, exec (.tokenRevoke n) s = .next t ∧ region t q ∧ sends s2 t 3 r.home (.tokRevokeAck r.base sub st))
          ∧ (r.home ≠ h → r.own[subIx sub] = .excl → ∃ t, exec (.tokenRevoke n) s = .next t ∧ sameBytes s t ∧ region t q
            ∧ (∀ l ∈ r.lines, lo ≤ 256 * l → 256 * l < lo + len → ∀ i < 256, ∃ p ∈ t.sent, ∃ back, p.pkt.cls = 3 ∧ p.pkt.dst = r.home
                ∧ p.pkt.body = .tokWriteBack r.base back ∧ (256 * l + i, mget s.mem (at_ (256 * l + i))) ∈ back)
            ∧ ∃ s3, exec (.tokenRevoke n) s = .next (sendPacket s3 none (mkPacket s3 3 r.home 0 (.tokRevokeAck r.base sub st)))))
        ∧ (pk.body = .tokSplit base copy st → ∃ t, exec (.tokenRevoke n) s = .next t ∧ region t { r with split := copy, own := Vector.replicate 32 st }
          ∧ sends s1 t 3 r.home (.tokRevokeAck base none st)))
    ∧ (takeOrdered s (strictly isRevokeAck) isRevokeAck n = some (pk, s1) → one →
        (pk.body = .tokWriteBack base cells → ∃ t, exec (.tokenRevokeAck n) s = .next t ∧ lands t ∧ t.arrived = s1.arrived ∧ t.regions = s.regions)
        ∧ (pk.body = .tokRevokeAck base sub st → let moved := { r with dir := r.dir.set (subIx sub) (dirSet r.dir[subIx sub] pk.src st) }
          let whole := j.op = .split ∨ j.op = .merge; let s2 := dropCopy s1 pk.src r.base
          (r.job = none → ∃ t, exec (.tokenRevokeAck n) s = .next t ∧ region t moved ∧ t.arrived = s1.arrived ∧ sameBytes s t)
          ∧ (r.job = some j → j.waiting = [(pk.src, st)] → (whole → sub = none) → (¬whole → j.sub = sub) →
            ((j.grant = none ∨ j.lost = true) → ∃ t, exec (.tokenRevokeAck n) s = .next t ∧ sends s2 t 3 j.node (.tokAnswer j.tag (if j.lost then 3 else 0) j.prev)
              ∧ region t { (if whole then { r with dir := Vector.replicate 32 { excl := some j.node, dups := [] } } else moved) with job := none })
            ∧ (j.grant = some (prev, copy) → j.lost = false → ¬whole → let q := { moved with job := some { j with grant := none, waiting := [(j.node, prev)] } }
              (copy = false → ∃ t, exec (.tokenRevokeAck n) s = .next t ∧ region t q ∧ sends s2 t 3 j.node (.tokGrant r.base sub prev false j.tag))
              ∧ (copy = true → j.node ≠ h → ∃ t, exec (.tokenRevokeAck n) s = .next t ∧ region t q ∧ sameBytes s t
                ∧ (∀ i < len / 4096, ∃ p ∈ t.sent, p.pkt.cls = 1 ∧ p.pkt.ord = true ∧ p.pkt.dst = j.node ∧ p.pkt.body = .grantCopy r.base j.tag
                    ((List.range 4096).map (fun y => (lo + i * 4096 + y, mget s.mem (at_ (lo + i * 4096 + y))))))
                ∧ ∃ p ∈ t.sent, p.pkt.cls = 3 ∧ p.pkt.dst = j.node ∧ p.pkt.body = .tokGrant r.base sub prev true j.tag)))))
    ∧ (takeOrdered s (strictly isGrant) (fun p => isGrant p && grantMay s p) n = some (pk, s1) → one →
        (pk.body = .grantCopy base tag cells → ∃ t, exec (.tokenGrant n) s = .next t ∧ lands t ∧ region t { r with copied := r.copied + cells.length } ∧ t.arrived = s1.arrived)
        ∧ (pk.body = .tokGrant base sub st copy tag → (copy = true → len ≤ r.copied) ∧ ∃ t, exec (.tokenGrant n) s = .next t
            ∧ region t { r with own := r.own.set (subIx sub) st, copied := 0 } ∧ sends s1 t 3 r.home (.tokRevokeAck base sub st)))
    ∧ (takeOrdered s (strictly isTokAns) isTokAns n = some (pk, s1) → pk.body = .tokAnswer tag status prev → s.fars.find? (fun f => f.tag == tag) = some f →
        f.who = .ctx x start → (getCtx s x).wait = some (.token d) → (getCtx s x).start = start → ∃ t, exec (.tokenAnswer n) s = .next t ∧ sameBytes s t
          ∧ answered s t x d (BitVec.ofNat 64 (16 * (if prev = .none then 0 else if prev = .dup then 1 else 2) + status))
          ∧ t.regions = s.regions.map (fun q => { q with pend := q.pend.filter (fun p => p.1 != tag) }) ∧ ∀ f ∈ t.fars, f.tag ≠ tag)

/-! ## The fabric -/

/-- R53, R56, R82: the flit in its turn brings acknowledgements, which empty the retry buffer as far as they go, and credits, by which what waits at the port leaves;
one that asks for a replay sends again what is not acknowledged; one out of its turn is dropped; a bad one is a failed replay. A port goes down after eight failed replays in
a row, of flits received or sent, 2 µs without FEC block lock, or 10 µs with flits outstanding and no acknowledgement or credit, and tells every module of the job; it
comes up again only while no job runs here. -/
def Obligations.PortsFailAndComeBack : Prop :=
  ∀ (s : State) (i : Nat) (f : LinkFlit) (w : Packet), i < 8 → let p := getPort s i; let same := fun (e : Instr) => exec e s = .next s
    let becomes := fun (e : Instr) (q : Port) => ∃ t, exec e s = .next t ∧ { t with ports := s.ports } = s ∧ getPort t i = q ∧ ∀ j, j ≠ i → getPort t j = getPort s j
    let note := fun (b : Nat) => Body.linkDown (myNode s) b (i / 2)
    let tells := fun (t : State) (b n : Nat) => if n = myNode s then ∃ q ∈ t.arrived, q.body = note b else ∃ q ∈ t.sent, q.pkt.dst = n ∧ q.pkt.cls = 2 ∧ q.pkt.body = note b
    let falls := fun (e : Instr) => ∃ t, exec e s = .next t ∧ (getPort t i).up = false ∧ (getPort t i).lossAt = none ∧ (∀ j, j ≠ i → (getPort t j).up = (getPort s j).up)
      ∧ sameBytes s t ∧ t.launches = s.launches ∧ ∀ b, portPeer s i = some b → ∀ n ∈ jobNodes s, tells t b n
    let lost := (∃ t, p.lossAt = some t ∧ t + 2000 ≤ nowNs s); let late := p.up = true ∧ p.retry ≠ [] ∧ p.ackAt + 10000 ≤ nowNs s
    let turn := f.good = true ∧ p.fails < 8 ∧ f.seq = p.rseq; let e : Instr := .flitReceive i f
    let left := if ∃ x ∈ p.retry, x.1 = f.ack then (p.retry.dropWhile (fun x => x.1 != f.ack)).drop 1 else p.retry
    let q : Port := { p with
      rseq := p.rseq + 1, fails := 0, retry := left, naks := if f.nak then p.naks + 1 else if left.length < p.retry.length then 0 else p.naks
      credit := (List.range 6).map (fun c => p.credit.getD c 0 + f.cred.getD c 0)
      ackAt := if left.length < p.retry.length ∨ ∃ n ∈ f.cred, n ≠ 0 then nowNs s else p.ackAt }
    let runs := s.launches ≠ [] ∨ ∃ j < 256, (bar s (0x010100 + 8 * j)).toNat / 2 ^ 63 % 2 = 1
    (p.up = false → same e)
    ∧ (p.up = true → (f.good = false → becomes e { p with fails := p.fails + 1 }) ∧ (f.good = true → 8 ≤ p.fails → falls e)
        ∧ (f.good = true → p.fails < 8 → f.seq ≠ p.rseq → same e) ∧ (turn → f.nak = false → p.naks < 8 → p.queue = [] → becomes e q)
        ∧ (turn → f.nak = true → 7 ≤ p.naks → falls e)
        ∧ (turn → f.nak = true → p.naks < 7 → p.queue = [] → ∃ t, exec e s = .next t ∧ { t with ports := s.ports, outbox := s.outbox } = s ∧ getPort t i = q
            ∧ t.outbox = s.outbox ++ (flitPackets left).map (fun k => (i, k)))
        ∧ (turn → f.nak = false → p.naks < 8 → p.queue = [w] → w.cls < 6 → (1 + w.ndf ≤ p.credit.getD w.cls 0 + f.cred.getD w.cls 0 →
              ∃ t, exec e s = .next t ∧ t.outbox = s.outbox ++ [(i, w)] ∧ (getPort t i).queue = [] ∧ (getPort t i).seq = p.seq + BitVec.ofNat 12 (1 + w.ndf)
                ∧ (getPort t i).retry = left ++ (List.range (1 + w.ndf)).map (fun j => (p.seq + BitVec.ofNat 12 j, w)))
            ∧ (p.credit.getD w.cls 0 + f.cred.getD w.cls 0 < 1 + w.ndf → becomes e q))
        ∧ (8 ≤ p.fails → falls (.replayLimit i)) ∧ (p.lossAt = none → becomes (.fecBlockLockLoss i) { p with lossAt := some (nowNs s) })
        ∧ (lost → falls (.fecBlockLockRegain i) ∧ falls (.fecLockLossTimeout i)) ∧ (late → falls (.ackCreditTimeout i)))
    ∧ (p.fails < 8 → same (.replayLimit i)) ∧ (p.lossAt ≠ none → same (.fecBlockLockLoss i)) ∧ (¬late → same (.ackCreditTimeout i))
    ∧ (¬lost → becomes (.fecBlockLockRegain i) { p with lossAt := none } ∧ same (.fecLockLossTimeout i))
    ∧ ((portPeer s i = none ∨ p.up = true ∨ runs) → same (.portRetrain i))
    ∧ (∀ b, portPeer s i = some b → p.up = false → ¬runs → ∃ t, exec (.portRetrain i) s = .next t
        ∧ getPort t i = { up := true, ackAt := nowNs s, credit := freshCredit } ∧ (∀ j, j ≠ i → getPort t j = getPort s j)
        ∧ { t with ports := s.ports, notices := s.notices } = s
        ∧ ∀ x ∈ t.notices, ¬(x.dim = i / 2 ∧ ((x.a = myNode s ∧ x.b = b) ∨ (x.a = b ∧ x.b = myNode s))))

/-- R55, R58-R60, R62, R63, R82, R83, R114: a packet that comes by a port is counted and discarded when its header breaks R55, passed on when it is not for this module, written
or handed to its unit when it is, a reliable one in the order of its SEQ and once, with an acknowledgement; what is not acknowledged for 5 µs leaves again, and is lost
after 100 µs when its destination cannot be reached; a link-down notice is kept, and its link is down at this end too; after 100 µs what was pushed over the link is lost: the
command ends LOST, and the owner of its booking is told. -/
def Obligations.PacketsArriveAreResentOrLost : Prop :=
  ∀ (s s1 : State) (pk : Packet) (n i a b dim core tag uid l seq cls total first peg part : Nat) (p : Sent) (x : LinkDown) (m : EngCmd) (id : BookId) (la : Option Nat)
    (arrive begun : Bool) (cells : List (Nat × Byte)) (msg : Msg) (eng : Engine) (fr : FarReq),
    let e : Instr := .packetArrival { port := i, pkt := pk }; let up := (getPort s i).up = true; let pk' := notePort pk i
    let counted := fun (t : State) (off : Nat) => countsOne s t off
    let bad := 6 ≤ pk.cls ∨ pk.resv ≠ 0 ∨ 16 < pk.ndf ∨ (pk.mcast = true ∧ pk.cls ≠ 4) ∨ 24 ≤ pk.clus ∨ 48 ≤ pk.core; let mine := up ∧ ¬bad ∧ pk.dst = myNode s
    let rel := pk.cls = 0 ∨ pk.cls = 2 ∨ pk.cls = 3 ∨ pk.cls = 5; let unit := pk.body ≠ .other ∧ (∀ c q, pk.body ≠ .ack c q) ∧ ∀ c u k n o l, pk.body ≠ .pushMem c u k n o l
    let f := flowOf s pk.src pk.cls; let lostNow := fun (t : State) => t.sent = s.sent.eraseIdx i
    (¬up → exec e s = .next s) ∧ (up → bad → ∃ t, exec e s = .next t ∧ { t with regs := s.regs } = s ∧ counted t 0x042000)
    ∧ (up → ¬bad → pk.dst ≠ myNode s → exec e s = .next (emitPacket s pk (some i)))
    ∧ ((∀ g key step hops job port, pk.body ≠ .spike g key step hops job port) → pk' = pk)
    ∧ (∀ g key step hops job port, pk.body = .spike g key step hops job port → pk' = { pk with body := .spike g key step hops job (some i) })
    ∧ (mine → unit → (¬rel → exec e s = .next { s with arrived := s.arrived ++ [pk'] })
        ∧ (rel → pk.seq = f.rx → ∃ t, exec e s = .next t ∧ t.arrived = s.arrived ++ [pk'] ∧ (flowOf t pk.src pk.cls).rx = (f.rx + 1) % 2 ^ 16 ∧ sameBytes s t
            ∧ ∀ port, leavePort s (myNode s) pk.src = some port → clearPort s port pk.cls 1 → ∃ q, t.outbox = s.outbox ++ [(port, q)] ∧ q.body = .ack pk.cls pk.seq ∧ q.dst = pk.src)
        ∧ (rel → pk.seq ≠ f.rx → ∃ t, exec e s = .next t ∧ t.arrived = s.arrived ∧ sameBytes s t ∧ flowOf t pk.src pk.cls = f))
    ∧ (mine → pk.cls = 1 → pk.body = .pushMem core tag la total first cells → (∀ c ∈ cells, poisoned s (dramKey c.1) = false) → ∃ t, exec e s = .next t ∧ t.arrived = s.arrived
        ∧ (∀ a, mget t.mem a = written s (cells.map (fun c => (dramKey c.1, c.2))) a)
        ∧ let y := getXfer s pk.src core tag la
          getXfer t pk.src core tag la = { y with got := y.got + cells.length, total := max y.total total, bytes := y.bytes + cells.length, place := if y.status = 0 then 0 else y.place })
    ∧ (mine → pk.body = .ack cls seq → ∃ t, exec e s = .next t ∧ { t with sent := s.sent } = s
        ∧ ∀ q, q ∈ t.sent ↔ q ∈ s.sent ∧ ¬(q.pkt.dst = pk.src ∧ q.pkt.cls = cls ∧ (seq + 2 ^ 16 - q.pkt.seq) % 2 ^ 16 < 2 ^ 15))
    ∧ (lfindN (fun p : Sent => reliable p.pkt.cls && decide (p.last + 5000 ≤ nowNs s)) s.sent n = some (i, p) → exec (.resendTimeout n) s
        = .next (emitPacket { s with sent := s.sent.set i { p with last := nowNs s, port := packetPort s (myNode s) p.pkt none } } p.pkt))
    ∧ (lfindN (fun p : Sent => reliable p.pkt.cls && decide (p.first + 100000 ≤ nowNs s) && !reachable s (myNode s) p.pkt.dst) s.sent n = some (i, p) →
        (p.pkt.body = .msg msg → p.launch = some l → kmem s.launches l = true → (getLaunch s l).first = none → p.pkt.cls = 0 → ∃ t q, exec (.deliveryTimeout n) s = .next t
          ∧ (getLaunch t l).first = some q ∧ q.cause = 0x23 ∧ q.time = nowNs s ∧ (p.who = none → q.ctx = 0)
          ∧ ∀ x, p.who = some x → q.core = coreId (x / 16) ∧ q.ctx = x % 16)
        ∧ (p.pkt.body = .bookRel id → ∃ t, exec (.deliveryTimeout n) s = .next t ∧ lostNow t ∧ { t with sent := s.sent } = s))
    ∧ (takeOrdered s (strictly isLinkDown) isLinkDown n = some (pk, s1) → pk.body = .linkDown a b dim → linkNoticed s.notices a b dim = false →
        ∃ t, exec (.linkDownNotice n) s = .next t ∧ t.notices = s.notices ++ [{ a := a, b := b, dim := dim, time := nowNs s }]
        ∧ (∀ j ∈ portsOf s a b dim, (getPort t j).up = false) ∧ (∀ j, j ∉ portsOf s a b dim → (getPort t j).up = (getPort s j).up)
        ∧ ((∀ j ∈ portsOf s a b dim, (getPort s j).up = false) → counted t 0x042020 ∧ { t with regs := s.regs, notices := s.notices } = s1))
    ∧ (lfindN (fun x : LinkDown => !x.swept && decide (x.time + 100000 ≤ nowNs s)) s.notices n = some (i, x) → s.fars = [fr] → fr.push = true → fr.tag = tag →
        fr.who = .cmd core eng uid → s.grems = [] → s.sent = [p] → p.pkt.cls = 1 → p.pkt.ord = true → p.first ≤ x.time → wentOver s x (myNode s) p.pkt.dst = true →
        p.pkt.body = .pushPeg core tag la id peg part total arrive begun cells → findCmd s core eng uid = some m → m.status = 0 → idNode id ≠ myNode s →
        ∃ t y, exec (.mc1LossTimeout n) s = .next t ∧ sameBytes s t ∧ p ∉ t.sent ∧ findCmd t core eng uid = some y ∧ y.status = 3 ∧ y.out = m.out - 1 ∧ y.moved = m.moved
          ∧ (∀ b ∈ (getCore t core).books, b.id ≠ id) ∧ (∃ q ∈ t.sent, q.pkt.body = .bookLost id ∧ q.pkt.dst = idNode id)
          ∧ t.notices = s.notices.map (fun z => if z = x then { z with swept := true } else z))

/-! ## Launches -/

/-- R385-R387, R390: a stage with room takes a forwarded part, else its oldest class-19 message with its overrides, else the locator of its lowest
FIRING entry, which becomes IDLE; a record that passes the checks enters the queue with the time, another is counted, and with KIND 2
signalled with status 2. R383, R384, R388, R389, R392: the head of the queue, by LPRI and then by arrival, is placed on free cores that the record allows,
or waits; each core is ranked and set up, its contexts start as the record says, every register dirty (R437), and a forwarded part goes to every other module;
a host-queue entry that waited for its handler image is reported then (R460): accepted, or rejected with REASON 5. -/
def Obligations.LaunchesAreQueuedAndStarted : Prop :=
  ∀ (s : State) (die key base : Nat) (m : Msg) (rest : List Msg) (p : Pending) (nodes cores : List Nat) (hand : Nat → List Word) (en : Nat) (x : Dep)
    (pk : Packet) (s2 : State) (id root rank time : Nat) (recd image : List Word), let d := getDie s die; let room := bootState s = 4 ∧ d.pend.length < 256; let take : Instr := .launchRecordArrival die
    let ws := (List.range 32).map (fun i => BitVec.ofNat 64 (cellsNat s (fun y => key + 8 * i + y) 8))
    let names := fun (loc : Nat) => loc % 256 = 0 ∧ ((loc < 2 ^ 39 ∧ key = dramKey loc) ∨ (loc / 2 ^ 52 = 8 ∧ loc % 2 ^ 52 < 2 ^ 31
      ∧ ∃ k, coreOfId (loc / 2 ^ 18 % 2 ^ 13) = some k ∧ key = sliceKey k (loc % 2 ^ 18)))
    let clean := ∀ i < 32, poisoned s (key + 8 * i) = false ∧ eccBase (key + 8 * i) ∉ s.soft; let same := fun (t s0 : State) => { t with dies := s0.dies, uid := s0.uid } = s0 ∧ ∀ e, e ≠ die → getDie t e = getDie s0 e
    let queues := fun (s0 : State) (w : List Word) (job : Nat) => let r : Launch := { words := w, die := die, job := recJob s0 { words := w, die := die } }
      (recReason s0 r die (some job) = 0 → ∃ t q, exec take s = .next t ∧ same t s0 ∧ getDie t die = { getDie s0 die with pend := d.pend ++ [q] } ∧ q.words = w
        ∧ q.tacc = nowNs s ∧ q.root = myNode s ∧ q.rank = 0 ∧ q.restore = false)
      ∧ (recReason s0 r die (some job) ≠ 0 → (recKind r ≠ 2 → exec take s = .next (countUp s0 0x042010 1))
        ∧ (recKind r = 2 → recScls r < 16 → idNode (recSigd r) = myNode s → jobNode s (myNode s) = true → (idCore (recSigd r)).isSome → ∃ t q y, exec take s = .next t
          ∧ countsOne s0 t 0x042010 ∧ { t with regs := s.regs, arrived := s.arrived } = { s0 with regs := s.regs } ∧ t.arrived = s.arrived ++ [q] ∧ q.body = .msg y ∧ y.cls = recScls r ∧ y.rel = true
          ∧ y.a0 = BitVec.ofNat 64 (recLid r) ∧ y.a1 = 2 ∧ y.a2 = recCrec r ∧ y.a3 = BitVec.ofNat 64 (nowNs s)))
    let s0 := setDie s die { d with inbox := rest }; let s1 := setDep s die en { x with st := .idle }
    let l : Launch := { words := p.words }
    let first := p ∈ d.pend ∧ (∀ q ∈ d.pend, q = p ∨ recLpri { words := q.words } < recLpri l ∨ (recLpri { words := q.words } = recLpri l ∧ p.seq < q.seq))
    let table := fun (k : Nat) => (recHtab l = 0 ∧ hand k = List.replicate 20 0) ∨ (htabFar l = true ∧ hand k = p.image)
      ∨ (recHtab l ≠ 0 ∧ recHtab l + 160 ≤ 2 ^ 18 ∧ (∀ y < 160, poisoned s (sliceKey k (recHtab l + y)) = false)
        ∧ hand k = (List.range 20).map (fun i => BitVec.ofNat 64 (cellsNat s (fun y => sliceKey k (recHtab l + 8 * i + y)) 8)))
    let below := fun (n : Nat) => (List.range n).foldl (fun acc q => acc * (if q = 0 ∧ recDom l 0 = 0 then 1 else recCount l q)) 1
    (¬room → exec take s = .next s)
    ∧ (room → die = 0 → takeArrived s isPart 0 = some (pk, s2) → pk.body = .launchPart id recd image root rank time → ∃ t q, exec take s = .next t ∧ same t s2
        ∧ getDie t die = { d with pend := d.pend ++ [q] } ∧ q.key = id ∧ q.words = recd ∧ q.image = image ∧ q.tacc = time ∧ q.root = root ∧ q.rank = rank ∧ q.restore = false)
    ∧ (room → (die ≠ 0 ∨ ∀ q ∈ s.arrived, isPart q = false) → d.inbox = m :: rest →
        ((bits m.a3 2 62 ≠ 0 ∨ m.a0.toNat % 256 ≠ 0) → exec take s = .next (countUp s0 0x042010 1))
        ∧ (bits m.a3 2 62 = 0 → names m.a0.toNat → clean → queues s0 ((List.range 32).map (fun i => if i = 2 ∧ bits m.a3 0 1 = 1 then m.a1
            else if i = 0 ∧ bits m.a3 1 1 = 1 then BitVec.ofNat 64 (m.a2.toNat % 2 ^ 32 * 2 ^ 32 + (ws.getD 0 0).toNat % 2 ^ 32) else ws.getD i 0)) m.job))
    ∧ (room → (die ≠ 0 ∨ ∀ q ∈ s.arrived, isPart q = false) → d.inbox = [] → d.dep.find? (fun e => e.2.st == .firing) = some (en, x) → names x.loc.toNat → clean → queues s1 ws x.job)
    ∧ (bootState s = 4 → first → p.restore = false → neverPlaced s p = false → (placement s die p = none → exec (.launchAdmit die) s = .next s)
        ∧ (placement s die p = some (nodes, base, cores) → (∀ k ∈ cores, table k ∧ handOk (hand k) = true) →
          (∀ k ∈ cores, launchOf s k = none ∧ recAllows l k = true) ∧ ∃ t, exec (.launchAdmit die) s = .next t
            ∧ (∀ a, mget t.mem a = written s (match p.host with | some h => [(hostKey ((h + 0x10) % 2 ^ 64), 1)] | none => []) a)
            ∧ (getDie t die).pend = d.pend.filter (fun q => q.key != p.key) ∧ kmem t.launches p.key = true ∧ (getLaunch t p.key).cores = cores
            ∧ (∀ k, k ∉ cores → getCore t k = getCore s k ∧ ∀ i < 11, getCtx t (ctxNo k i) = getCtx s (ctxNo k i))
            ∧ (∀ n ∈ nodes, p.root = myNode s → 1 < nodes.length → n ≠ myNode s → ∃ q ∈ t.sent, q.pkt.dst = n ∧ q.pkt.cls = 0
                ∧ q.pkt.body = .launchPart p.key p.words p.image (myNode s) (nodes.idxOf n) p.tacc)
            ∧ (cores.Nodup → ∀ j k, cores[j]? = some k → let c := getCore t k; c.launch = some p.key ∧ c.lcore = BitVec.ofNat 64 (base + j) ∧ c.sp = recSp l
              ∧ (∀ n : Fin 20, c.hand[n] = (hand k).getD n 0) ∧ (∀ q < 4, (getPitch t k q).state = 0) ∧ c.books = [] ∧ c.spill = [] ∧ ∀ i < 11, let y := getCtx t (ctxNo k i)
                if i < (if recDom l 0 = 0 then recCount l 0 else 1) then y.st = .ready ∧ y.pc = recEntry l ∧ y.prio = recCpri l ∧ y.prioMax = recCmax l
                  ∧ y.sd = BitVec.allOnes 32 ∧ y.vd = BitVec.allOnes 32 ∧ y.pd = BitVec.allOnes 8 ∧ y.kd = BitVec.allOnes 32 ∧ y.sm = false ∧ y.t = false ∧ y.tvec = 0 ∧ y.fcsr = 0
                  ∧ (∀ r, sread y r = if r = 30 then BitVec.ofNat 64 (0x40000 - recSp l) - BitVec.ofNat 64 (i * stackBytes l) else 0) ∧ (∀ r, vfile y r = 0)
                  ∧ y.rng = rngSeed (recWord l 4) (BitVec.ofNat 64 (base + j)) i
                  ∧ ∀ n : Fin 8, y.wid[n] = if n.val = 0 ∧ recDom l 0 = 0 then BitVec.ofNat 64 i
                      else if n.val < recLev l then BitVec.ofNat 64 ((base + j) / below n.val % recCount l n.val) else 0
                else y.st = .free))
        ∧ (placement s die p = some (nodes, base, cores) → (∀ k ∈ cores, table k) → (∃ k ∈ cores, handOk (hand k) = false) → recHtab l ≠ 0 → ∀ h, p.host = some h → ∃ t, exec (.launchAdmit die) s = .next t
            ∧ (∀ a, mget t.mem a = written s [(hostKey ((h + 0x10) % 2 ^ 64), 2), (hostKey ((h + 0x11) % 2 ^ 64), 5)] a) ∧ (getDie t die).pend = d.pend.filter (fun q => q.key != p.key)
            ∧ t.launches = s.launches ∧ t.ctxs = s.ctxs ∧ t.cores = s.cores ∧ bar t 0x042010 = BitVec.ofNat 64 (min ((bar s 0x042010).toNat + 1) (2 ^ 64 - 1))
            ∧ bar t 0x001020 = BitVec.ofNat 64 (((bar s 0x001020).toNat + 1) % 2 ^ bits (bar s 0x001010) 0 4)))

/-- R390, R391: DEPDEC asks the table of a die and waits, or writes status 3 at once for an operand with bits that must be zero; the table applies requests in the order of
arrival: an ARMED entry loses the amount and FIRES at zero, a decrement of another is counted, `.arm` sets an IDLE entry; the answer word reaches the context. -/
def Obligations.DependenceTable : Prop :=
  ∀ (s s1 : State) (d a b : Reg) (pk : Packet) (rest : List Packet) (die e n x start : Nat) (w : Word), let c := cur s; let v := sreg s a; let y := getDep s die e
    let word := fun (status : Nat) => BitVec.ofNat 64 (status * 2 ^ 20 + (if y.st = .idle then 0 else if y.st = .armed then 1 else 2) * 2 ^ 16 + y.count)
    let run := exec (.dependenceDecrement 0) s; let less := fun (k : Nat) => { y with count := y.count - k, st := if y.count - k = 0 then .firing else .armed }
    let only := fun (t : State) (z : Dep) => getDep t die e = z ∧ (∀ f g, (f ≠ die ∨ g ≠ e) → getDep t f g = getDep s f g)
    let goes := fun (i : Instr) (arm bad : Bool) => (c.acks ≠ [] → blocks i s .acks) ∧ (c.acks = [] → if bad then writesS i s 4 d (3 * 2 ^ 20)
        else ∃ t, asks i s t (.dep d) ∧ queued s t 5 (.depOp s.turn c.start (v.toNat / 2 ^ 10 % 4) (v.toNat % 2 ^ 10) arm (sreg s b)))
    goes (.depdecDec d a b) false (decide (2 ^ 12 ≤ v.toNat ∨ 2 ^ 16 ≤ (sreg s b).toNat)) ∧ goes (.depdecArm d a b) true (decide (2 ^ 12 ≤ v.toNat))
    ∧ (s.arrived = pk :: rest →
        (pk.body = .depDec die e n → (y.st = .armed → ∃ t, run = .next t ∧ only t (less n) ∧ { t with dies := s.dies } = { s with arrived := rest })
          ∧ (y.st ≠ .armed → ∃ t, run = .next t ∧ countsOne s t 0x042018 ∧ { t with regs := s.regs } = { s with arrived := rest }))
        ∧ (pk.body = .depOp x start die e false w → let k := w.toNat % 2 ^ 16
          (y.st = .armed → ∃ t, run = .next t ∧ only t (less k) ∧ sameBytes s t ∧ queued { s with arrived := rest } t 5 (.depAns x start (word 0)))
          ∧ (y.st ≠ .armed → ∃ t, run = .next t ∧ t.dies = s.dies ∧ sameBytes s t ∧ (k ≠ 0 → countsOne s t 0x042018) ∧ (k = 0 → t.regs = s.regs)
              ∧ queued { s with arrived := rest } t 5 (.depAns x start (word 1))))
        ∧ (pk.body = .depOp x start die e true w →
          (y.st = .idle → ∃ t, run = .next t ∧ only t { loc := BitVec.ofNat 64 (w.toNat / 2 ^ 16 * 2 ^ 8), count := w.toNat % 2 ^ 16, st := if w.toNat % 2 ^ 16 = 0 then .firing else .armed, job := (launchRec s (coreOf x)).job } ∧ sameBytes s t
              ∧ queued { s with arrived := rest } t 5 (.depAns x start (word 0)))
          ∧ (y.st ≠ .idle → ∃ t, run = .next t ∧ { t with arrived := s.arrived } = s ∧ queued { s with arrived := rest } t 5 (.depAns x start (word 2)))))
    ∧ (takeArrived s isDepAns n = some (pk, s1) → pk.body = .depAns x start w → (getCtx s x).wait = some (.dep d) → (getCtx s x).start = start →
        ∃ t, exec (.dependenceTableAnswer n) s = .next t ∧ { t with ctxs := s.ctxs } = s1 ∧ answered s t x d w)

/-- R393, R394, R429, R430: a part ends at a core when its contexts are FREE, its queues empty and no message waits; at the root, when every part has ended or the fault has stopped them, the
launch's cores are freed, its record is written and its signal given, and it is gone; another module's part tells its root. A fault makes
every context of the launch FREE, discards its work and its place in the queues, and is told from the root to every part. With several modules, the root has each free what
it holds, hears that it has, and only then writes the record, signals and has the translations flushed, of every ASID that the launch has named. -/
def Obligations.LaunchesEnd : Prop :=
  ∀ (s s1 : State) (k l n : Nat) (ky : Nat → Nat) (f g : FaultRec) (pk : Packet) (p : Pending) (die : Nat), let c := getCore s k; let x := getLaunch s l; let k0 := x.cores.headD 0
    let idle := (∀ i < 11, (getCtx s (ctxNo k i)).st = .free) ∧ (∀ e : Fin 4, c.eng[e].cmds = []) ∧ (∀ e ∈ c.spill, e.compl = true) ∧ ∀ m ∈ c.refused, m.cls = 16
    let quiet := ∀ q ∈ s.arrived, isEnd q = false; let finished := x.pre = .no ∧ ((x.first = none ∧ ∀ k ∈ x.cores, (getCore s k).ended = true) ∨ (x.first ≠ none ∧ x.stopped = true))
    let status := if x.first = none then 0 else 1; let w1 := match x.first with | some f => f.core % 2 ^ 13 * 2 ^ 20 + f.ctx % 16 * 2 ^ 16 + f.cause % 2 ^ 16 | none => 0
    let rcd := bits (recWord x 0) 32 32 * 2 ^ 32 + x.fcnt % 2 ^ 16 * 2 ^ 16 + status + w1 * 2 ^ 64 + (match x.first with | some f => f.fva.toNat | none => 0) * 2 ^ 128
      + x.tacc % 2 ^ 64 * 2 ^ 192 + x.tstart % 2 ^ 64 * 2 ^ 256 + x.tend % 2 ^ 64 * 2 ^ 320 + x.npre % 2 ^ 32 * 2 ^ 384
    let freed := fun (t : State) => ∀ k ∈ x.cores, (∀ i < 11, getCtx t (ctxNo k i) = {}) ∧ (∀ e : Fin 4, (getCore t k).eng[e].cmds = []) ∧ ∀ q < 4, (getPitch t k q).state = 0
    let me := myNode s; let many := ∃ n ∈ x.nodes, n ≠ me; let due := finished ∧ x.root = me ∧ x.partsLeft = []; let run := exec (.launchCompletion l) s
    let told := fun (t : State) (last : Bool) => ∀ n ∈ x.nodes, n ≠ me → ∃ q ∈ t.sent, q.pkt.dst = n ∧ q.pkt.cls = 0 ∧ q.pkt.body = .launchEnd l last
    let flushed := fun (t : State) => kmem t.launches l = false ∧ (∀ k ∈ x.cores, launchOf t k = none) ∧ (∀ b ∈ t.bars, b.launch ≠ l)
      ∧ (∀ e ∈ t.tlb, e.asid ≠ x.asid ∧ e.asid ∉ x.asids) ∧ ∀ e ∈ t.walks, e.asid ≠ x.asid ∧ e.asid ∉ x.asids
    let written_ := recCrec x = 0 ∨ ((recCrec x).toNat + 64 ≤ 2 ^ 18 ∧ launchOf s k0 = some l ∧ ∀ i < 64, ky i = sliceKey k0 ((recCrec x).toNat + i) ∧ poisoned s (ky i) = false)
    let one := takeArrived s isEnd 0 = some (pk, s1) ∧ (∀ q ∈ s1.arrived, isEnd q = false) ∧ kmem s.launches l = true
    (c.launch = some l → x.first = none → x.pre = .no → c.ended = false → (idle → ∃ t, exec (.corePartEnd k) s = .next t
          ∧ getCore t k = { c with ended := true, spill := [], heldMsg := [], refused := [] } ∧ (∀ j, j ≠ k → getCore t j = getCore s j)
          ∧ getLaunch t l = { x with tend := nowNs s } ∧ { t with cores := s.cores, launches := s.launches } = s)
        ∧ (¬idle → exec (.corePartEnd k) s = .next s))
    ∧ (kmem s.launches l = true → quiet → (¬finished → exec (.launchCompletion l) s = .next s)
        ∧ (finished → x.root ≠ myNode s → x.reported = false → ∃ t, exec (.launchCompletion l) s = .next t ∧ getLaunch t l = { x with reported := true } ∧ sameBytes s t
            ∧ ∃ q ∈ t.sent, q.pkt.dst = x.root ∧ q.pkt.cls = 0 ∧ q.pkt.body = .partEnd l x.fcnt x.first x.tstart x.tend)
        ∧ (finished → x.root = me → x.partsLeft ≠ [] → run = .next s)
        ∧ (due → x.localEnd = false → many → ∃ t, run = .next t ∧ freed t ∧ told t false ∧ sameBytes s t ∧ t.irqs = s.irqs
            ∧ kmem t.launches l = true ∧ (getLaunch t l).localEnd = true ∧ (getLaunch t l).freeLeft = x.nodes.filter (fun n => n != me))
        ∧ (due → x.localEnd = true → x.freeLeft ≠ [] → run = .next s)
        ∧ (due → ((x.localEnd = false ∧ ¬many) ∨ (x.localEnd = true ∧ x.freeLeft = [])) → x.recSent = false → x.recTag = none → written_ →
            ∃ t, run = .next t ∧ (x.localEnd = false → freed t) ∧ flushed t ∧ told t true
              ∧ (∀ a, mget t.mem a = if recCrec x = 0 then mget s.mem a else written s ((List.range 64).map (fun i => (ky i, byteOf rcd i))) a)
              ∧ (recKind x = 1 → bits (bar s (0x100008 + 16 * recSval x)) 32 1 = 0 → t.irqs = s.irqs ++ [recSval x]) ∧ (recKind x = 0 → t.irqs = s.irqs)
              ∧ (recKind x = 3 → x.first = none → ∃ q ∈ t.arrived, q.body = .depDec (recSdie x) (recSval x % 1024) 1)
              ∧ (recKind x = 2 → recScls x < 16 → idNode (recSigd x) = myNode s → jobNode s (myNode s) = true → (idCore (recSigd x)).isSome →
                  ∃ q ∈ t.arrived, ∃ m, q.body = .msg m ∧ m.cls = recScls x ∧ m.rel = true ∧ m.a0 = BitVec.ofNat 64 (recLid x)
                    ∧ m.a1 = BitVec.ofNat 64 (status + x.fcnt * 2 ^ 16) ∧ m.a2 = recCrec x ∧ m.a3 = BitVec.ofNat 64 x.tend)))
    ∧ (one → (pk.body = .launchEnd l false → x.root ≠ me → x.reported = true → pk.src ≠ me → ∃ t, run = .next t ∧ freed t ∧ sameBytes s t ∧ (getLaunch t l).localEnd = true
            ∧ ∃ q ∈ t.sent, q.pkt.dst = pk.src ∧ q.pkt.cls = 0 ∧ q.pkt.body = .partFreed l)
        ∧ (pk.body = .launchEnd l true → ∃ t, run = .next t ∧ flushed t ∧ sameBytes s t)
        ∧ (pk.body = .partFreed l → x.root = me → x.localEnd = true → (∃ n ∈ x.freeLeft, n ≠ pk.src) → ∃ t, run = .next t ∧ { t with launches := s.launches } = s1
            ∧ getLaunch t l = { x with freeLeft := x.freeLeft.filter (fun n => n != pk.src) })
        ∧ (∀ n0 f0 t0 t1, pk.body = .partEnd l n0 f0 t0 t1 → x.root = me → (∃ n ∈ x.partsLeft, n ≠ pk.src) → ∃ t, run = .next t ∧ { t with launches := s.launches } = s1
            ∧ (getLaunch t l).partsLeft = x.partsLeft.filter (fun n => n != pk.src) ∧ (getLaunch t l).fcnt = min (x.fcnt + n0) 0xFFFF ∧ (getLaunch t l).tend = max x.tend t1
            ∧ (x.first = none → (getLaunch t l).first = f0) ∧ (getLaunch t l).tstart = (if x.tstart = 0 then t0 else if t0 = 0 then x.tstart else min x.tstart t0))
        ∧ (∀ on, pk.body = .qrunNote l on → ¬finished → ∃ t, run = .next t ∧ { t with launches := s.launches } = s1
            ∧ getLaunch t l = if on then { x with qruns := x.qruns + 1 } else { x with qruns := x.qruns - 1, wdBase := nowNs s }))
    ∧ ((kmem s.launches l = false ∨ x.first = none ∨ x.stopped = true) → exec (.launchFault l) s = .next s)
    ∧ (kmem s.launches l = true → x.first = some f → x.stopped = false → (∀ k ∈ x.cores, launchOf s k = some l) → ∃ t, exec (.launchFault l) s = .next t ∧ freed t ∧ (getLaunch t l).stopped = true
        ∧ (getLaunch t l).first = some f ∧ (getLaunch t l).tend = nowNs s ∧ (∀ d < 4, ∀ q ∈ (getDie t d).pend, q.key ≠ l)
        ∧ (x.pre = .saved → ∀ im ∈ newestImages x, ∀ b ∈ im.core.books, idNode b.id ≠ me → ∃ q ∈ t.sent, q.pkt.dst = idNode b.id ∧ q.pkt.cls = 3 ∧ q.pkt.body = .bookLost b.id)
        ∧ (x.pre ≠ .saved → (∀ k ∈ x.cores, (getCore s k).books = []) → sameBytes s t ∧ ∀ k, k ∉ x.cores → launchOf t k = launchOf s k ∧ ∀ i < 11, getCtx t (ctxNo k i) = getCtx s (ctxNo k i)))
    ∧ (takeArrived s isFaultNote n = some (pk, s1) → pk.body = .faultNotice l g →
        (kmem s.launches l = true → ∃ t, exec (.faultNotice n) s = .next t ∧ sameBytes s t ∧ (getLaunch t l).fcnt = x.fcnt
          ∧ (x.first = none → (getLaunch t l).first = some g)
          ∧ (∀ f, x.first = some f → (getLaunch t l).first = some (if g.time < f.time ∨ (g.time = f.time ∧ g.core < f.core) then g else f))
          ∧ (x.root = myNode s → x.first = none → ∀ m ∈ x.nodes, m ≠ myNode s → m ≠ pk.src → ∃ q ∈ t.sent, q.pkt.dst = m ∧ q.pkt.body = .faultNotice l g))
        ∧ (kmem s.launches l = false → die < 4 → p ∈ (getDie s die).pend → p.key = l → p.root ≠ myNode s → (∀ d < 4, ∀ q ∈ (getDie s d).pend, q.key = l → q = p) →
          ∃ t, exec (.faultNotice n) s = .next t ∧ (∀ d < 4, ∀ q ∈ (getDie t d).pend, q.key ≠ l)
            ∧ ∃ q ∈ t.sent, q.pkt.dst = p.root ∧ q.pkt.body = .partEnd l 0 none 0 (nowNs s)))

/-! ## Watchdogs, the debugger, pre-emption -/

/-- R440-R442, R445, R446: a launch that has run for longer than its limit faults with cause 0x124; a context blocked for longer than the progress limit, but in SLEEPU, with no
command of its core running and no QRUN of its launch active on any module, with 0x224; every launch of a job whose watchdog has run out with 0x324; none counts during a hold of its job, and a halted core is noted in its launch. -/
def Obligations.WatchdogsFault : Prop :=
  ∀ (s s1 : State) (l x j n : Nat) (slot : BitVec 4) (pk : Packet), let y := getLaunch s l; let c := getCtx s x; let k := coreOf x; let now := nowNs s; let js := slot.toNat
    let same := fun (i : Instr) => exec i s = .next s; let b := getJob s j; let bs := getJob s js; let z := launchRec s k
    let doomed := fun (t : State) (l cause : Nat) => ∃ q, (getLaunch t l).first = some q ∧ q.cause = cause ∧ q.time = now
    let limit := 1000 * (if bits (recWord y 18) 0 32 = 0 then bits (bar s 0x090008) 0 32 else bits (recWord y 18) 0 32)
    let ran := fun (y : Launch) => y.ran + (if y.began = true ∧ y.pre ≠ .saved ∧ y.pre ≠ .back then now - y.mark else 0)
    let late := kmem s.launches l = true ∧ y.first = none ∧ y.began = true ∧ y.pre ≠ .saved ∧ y.pre ≠ .back ∧ (getJob s y.job).holds = 0 ∧ limit < ran y
    let stuck := c.st = .blocked ∧ (∀ t d, c.wait ≠ some (.sleep t d)) ∧ (getJob s z.job).holds = 0 ∧ z.qruns = 0
      ∧ (∀ e : Fin 4, ∀ m ∈ (getCore s k).eng[e].cmds, m.phase < 2) ∧ (∀ k1 ∈ z.cores, ∀ m ∈ (getQ s k1 .cre).cmds, ¬(m.word.toNat % 2 ^ 8 = 0x42 ∧ 2 ≤ m.phase))
      ∧ max c.blockedAt (max (getCore s k).wdBase z.wdBase) + bits (bar s 0x090000) 0 32 * 1000000 < now
    let out := bs.holds = 0 ∧ bits (bar s (0x090100 + 8 * js)) 0 32 * 1000000 < bs.count + (now - bs.since); let shift := fun (t : Nat) => t + (now - max b.heldAt t)
    (¬late → same (.launchWatchdog l))
    ∧ (late → ∃ t, exec (.launchWatchdog l) s = .next t ∧ doomed t l 0x124 ∧ (getLaunch t l).fcnt = min (y.fcnt + 1) 0xFFFF ∧ sameBytes s t ∧ t.ctxs = s.ctxs)
    ∧ ((launchRuns s k = false ∨ ¬stuck) → same (.progressWatchdog x))
    ∧ (launchOf s k = some l → launchRuns s k = true → stuck → ∃ t q, exec (.progressWatchdog x) s = .next t ∧ (getLaunch t l).first = some q ∧ q.cause = 0x224 ∧ q.time = now
        ∧ q.core = coreId k ∧ q.ctx = idxOf x ∧ q.fva = 0 ∧ sameBytes s t ∧ t.ctxs = s.ctxs)
    ∧ (¬out → same (.jobWatchdog slot))
    ∧ (out → ∃ t, exec (.jobWatchdog slot) s = .next t ∧ (∀ l, kmem s.launches l = true → (getLaunch s l).job = js → (getLaunch s l).first = none → (getLaunch s l).pre ≠ .saved →
        doomed t l 0x324) ∧ sameBytes s t ∧ t.ctxs = s.ctxs ∧ t.jobs = s.jobs)
    ∧ (takeOrdered s (strictly isHold) isHold n = some (pk, s1) → let done := fun (t : State) => exec (.debugHoldNotice n) s = .next t
        let notes := fun (m : Nat) (v w : Launch) => w = if m = l then { v with halts := w.halts } else v
        (pk.body = .debugHold j l true → (0 < b.holds → ∃ t, done t ∧ getJob t j = { b with holds := b.holds + 1 } ∧ { t with jobs := s.jobs, launches := s.launches } = s1
            ∧ ∀ m, kmem s.launches m = true → notes m (getLaunch s m) (getLaunch t m))
          ∧ (kmem s.launches l = true → ∃ t, done t ∧ (getLaunch t l).halts = y.halts + 1)
          ∧ (b.holds = 0 → ∃ t, done t ∧ getJob t j = { b with holds := 1, heldAt := now, count := b.count + (now - b.since) } ∧ { t with jobs := s.jobs, launches := s.launches } = s1
            ∧ ∀ m, kmem s.launches m = true → let v := getLaunch s m; notes m (if v.job = j then { v with ran := ran v } else v) (getLaunch t m)))
        ∧ (pk.body = .debugHold j l false → (b.holds ≠ 1 → ∃ t, done t ∧ getJob t j = { b with holds := b.holds - 1 } ∧ { t with jobs := s.jobs, launches := s.launches } = s1
            ∧ ∀ m, kmem s.launches m = true → notes m (getLaunch s m) (getLaunch t m))
          ∧ (kmem s.launches l = true → ∃ t, done t ∧ (getLaunch t l).halts = y.halts - 1)
          ∧ (b.holds = 1 → ∃ t, done t ∧ getJob t j = { b with holds := 0, since := now } ∧ { t with jobs := s.jobs, launches := s.launches, cores := s.cores, ctxs := s.ctxs } = s1
            ∧ (∀ m, kmem s.launches m = true → let v := getLaunch s m; notes m (if v.job = j then { v with mark := now, wdBase := shift v.wdBase } else v) (getLaunch t m))
            ∧ ∀ x, (getCtx s x).st = .blocked → getCtx t x = if (launchOf s (coreOf x)).isSome ∧ (launchRec s (coreOf x)).job = j
                then { getCtx s x with blockedAt := shift (getCtx s x).blockedAt } else getCtx s x)))

/-- R443-R446, R459: halting a core makes its live contexts HALTED, withdraws what waits at the octet's units and the governor, and tells every module of the job, whose watchdogs
hold; a step runs one instruction of one of them; a resume lets each go on as it was and tells the end of the hold; both are counted for a core without a launch, a halt for a core that
is being saved (log 53). A debugger writes the registers of a halted context and the slice of its core. -/
def Obligations.DebuggerHaltsStepsAndResumes : Prop :=
  ∀ (s : State) (k i off : Nat) (r : Reg) (w : Vec) (b : Byte), let c := getCore s k; let job := (launchRec s k).job; let l := c.launch.getD 0; let same := fun (e : Instr) => exec e s = .next s
    let tells := fun (t : State) (on : Bool) => ∀ n ∈ jobNodes s, if n = myNode s then ∃ q ∈ t.arrived, q.body = .debugHold job l on
      else ∃ q ∈ t.sent, q.pkt.dst = n ∧ q.pkt.cls = 2 ∧ q.pkt.body = .debugHold job l on
    let gone := fun (w : Option Wait) => w = some .sfu ∨ w = some .vxchg ∨ ∃ u d, w = some (.leave u d)
    let others := fun (t : State) => (∀ x, (∀ j < 11, x ≠ ctxNo k j) → getCtx t x = getCtx s x) ∧ ∀ j, j ≠ k → getCore t j = getCore s j
    let x := ctxNo k i; let y := getCtx s x
    let steps := c.halted = true ∧ y.st = .halted ∧ y.farTag = none ∧ ∀ d, y.wait ≠ some (.token d) ∧ y.wait ≠ some (.book d)
      ∧ y.wait ≠ some (.slope d) ∧ y.wait ≠ some (.dep d) ∧ y.wait ≠ some (.gen d)
    let saved := (launchRec s k).pre ≠ .no ∧ (launchRec s k).pre ≠ .back
    let kept := fun (e : QEntry) => (List.range 11).all (fun j => let a := getCtx s (ctxNo k j)
      !(decide (a.st = .blocked) && (a.wait.map withdrawn).getD false && e.owed == some (ctxNo k j)))
    let poked := takeInput (.debugReg x (.s r) w) s; let filled := takeInput (.debugByte k off b) s
    (i < 11 → c.halted = true → y.st = .halted → (∀ q, sread (getCtx poked x) q = if q = r ∧ r ≠ 0 then w.setWidth 64 else sread y q) ∧ sameRegs y { getCtx poked x with s := y.s }
      ∧ { poked with ctxs := s.ctxs } = s ∧ ∀ z, z ≠ x → getCtx poked z = getCtx s z)
    ∧ (i < 11 → (c.halted = false ∨ y.st ≠ .halted) → poked = s)
    ∧ (c.halted = true → off < 2 ^ 18 → ∀ a, mget filled.mem a = written s [(sliceKey k off, b)] a) ∧ (c.halted = false → filled = s)
    ∧ (c.launch ≠ none → saved → ∃ t, exec (.debugHalt k) s = .next t ∧ countsOne s t 0x042048 ∧ { t with regs := s.regs } = s)
    ∧ (c.launch = none → ∀ e ∈ [Instr.debugHalt k, .debugResume k], ∃ t, exec e s = .next t ∧ countsOne s t 0x042048 ∧ { t with regs := s.regs } = s)
    ∧ (c.launch ≠ none → ¬saved → c.halted = true → same (.debugHalt k)) ∧ (c.launch ≠ none → c.halted = false → same (.debugResume k))
    ∧ (c.launch ≠ none → ¬saved → c.halted = false → ∃ t, exec (.debugHalt k) s = .next t ∧ tells t true ∧ (∀ z, (∀ j < 11, z ≠ ctxNo k j) → getCtx t z = getCtx s z) ∧ sameBytes s t
        ∧ (∀ j, let z := getCore s j; getCore t j = { z with halted := if j = k then true else z.halted, ql := z.ql.filter kept, qh := z.qh.filter kept })
        ∧ ∀ j < 11, let a := getCtx s (ctxNo k j); let z := getCtx t (ctxNo k j)
          if a.st = .free then z = a else z.st = .halted ∧ (gone a.wait → a.st = .blocked → z.wait = none) ∧ ((¬gone a.wait ∨ a.st ≠ .blocked) → z = { a with st := .halted })
            ∧ { z with st := a.st, wait := a.wait, answers := a.answers, farTag := a.farTag, holds := a.holds } = a)
    ∧ (c.launch ≠ none → c.halted = true → ∃ t, exec (.debugResume k) s = .next t ∧ (getCore t k).halted = false ∧ (getCore t k).stepOf = none ∧ tells t false ∧ others t
        ∧ (c.spill = [] → c.refused = [] → sameBytes s t ∧ ∀ j < 11, let a := getCtx s (ctxNo k j); let z := getCtx t (ctxNo k j)
          if a.st = .halted then z = { a with st := if a.wait = none ∨ (a.wait = some .far ∧ a.farTag = none) then .ready else .blocked } else z = a))
    ∧ (¬steps → same (.debugStep k i))
    ∧ (steps → ∃ t, exec (.debugStep k i) s = .next t ∧ t.agenda = .issue x :: s.agenda ∧ getCtx t x = { y with st := .ready } ∧ (getCore t k).stepOf = some i
        ∧ (∀ z, z ≠ x → getCtx t z = getCtx s z) ∧ { t with ctxs := s.ctxs, cores := s.cores, agenda := s.agenda } = s)

/-- R388, R401, R433-R437: a stage whose head does not fit pre-empts the running launch of the lowest LPRI below the head's, the most recently admitted among equals. The root orders
each step of every part once the step before has ended everywhere: STOP, once no core of the launch is halted and its engines are at their boundary, halts contexts at their instructions,
withdraws what waits and returns leave and grants, commands keep their phase, and a pitch with bookings is SAVING; DRAIN ends when nothing is pending, and tokens held by a store go back;
WRITE keeps an image of each core, the dirty registers of its live contexts and its dirty lines, and of banks and models, within the DRAM reserved, and the lines are clean; an error there is a fault;
RELEASE frees all of it, and the launch waits in its stage's queue again. -/
def Obligations.PreemptionSavesALaunch : Prop :=
  ∀ (s : State) (l d : Nat) (p : Pending), let x := getLaunch s l; let me := myNode s; let stop : Instr := .preemptionStop l
    let head := p ∈ (getDie s d).pend ∧ ∀ q ∈ (getDie s d).pend, q = p ∨ recLpri { words := q.words } < recLpri { words := p.words }
      ∨ (recLpri { words := q.words } = recLpri { words := p.words } ∧ p.seq < q.seq)
    let runs := fun (y : Launch) => y.pre = .no ∧ y.first = none ∧ y.cores ≠ []; let free := ∀ q ∈ s.launches, q.2.pre = .no ∨ q.2.pre = .saved ∨ q.2.pre = .back
    let chosen := bootState s = 4 ∧ free ∧ d < 4 ∧ head ∧ fitsNow s d p = false ∧ recLpri x < recLpri { words := p.words }
      ∧ ∀ q ∈ s.launches, q.1 ≠ l → runs q.2 → recLpri x < recLpri q.2 ∨ (recLpri x = recLpri q.2 ∧ q.2.admitted < x.admitted)
    let stops := runs x ∧ (∀ k ∈ x.cores, (getCore s k).halted = false) ∧ x.halts = 0 ∧ ∀ c ∈ s.clus, c.2.cre.owner = some l → c.2.cre.phase = .idle ∨ c.2.cre.phase = .choose
    let mayOpen := fun (n : Nat) => if x.root = me then ∀ m ∈ x.nodes, m = me ∨ 8 * m + (n - 1) ∈ x.preDone else n ≤ x.preOrder
    let tells := fun (t : State) (n : Nat) => (x.root = me → x.preOrder < n → ∀ m ∈ x.nodes, m ≠ me → ∃ q ∈ t.sent, q.pkt.dst = m ∧ q.pkt.cls = 0 ∧ q.pkt.body = .preempt l n false)
      ∧ (x.root ≠ me → ∃ q ∈ t.sent, q.pkt.dst = x.root ∧ q.pkt.cls = 0 ∧ q.pkt.body = .preempt l n true)
    let lasts := fun (y : Ctx) => ∃ w, y.wait = some w ∧ answerWait w = true; let dirty := fun (k i : Nat) => lineOf (sliceKey k 0) + i ∉ s.clean
    let pends := (∃ q ∈ s.sent, q.launch = some l ∧ (q.pkt.cls = 0 ∨ q.pkt.cls = 2)) ∨ ∃ k ∈ x.cores, (∃ i < 11, let y := getCtx s (ctxNo k i); (y.st = .blocked ∧ lasts y) ∨ y.acks ≠ [])
      ∨ (∃ m ∈ (getQ s k .mxu).cmds, 2 < m.phase) ∨ (∃ e ∈ [Engine.cpe, .gte], ∃ m ∈ (getQ s k e).cmds, 1 < m.phase) ∨ (getCore s k).lzres ≠ none ∨ ∃ q < 4, (getPitch s k q).books ≠ []
    let others := fun (t : State) => (∀ y, coreOf y ∉ x.cores → getCtx t y = getCtx s y) ∧ ∀ k, k ∉ x.cores → getCore t k = getCore s k
    let hit := fun (k g : Nat) => k ∈ x.cores ∧ g ∈ s.poison ∧ sliceKey k 0 ≤ g ∧ g < sliceKey k 0 + 2 ^ 18 ∧ lineOf g ∉ s.clean; let bad := ∃ k g, hit k g
    let kept := fun (e : QEntry) => match e.owed with
      | some y => !(x.cores.contains (coreOf y) && decide (idxOf y < 11 ∧ (getCtx s y).st = .blocked) && !((getCtx s y).wait.map answerWait).getD false)
      | none => true
    kmem s.launches l = true → (∀ q ∈ s.arrived, isPre q = false) →
    ((x.root = me → (∀ n ∈ x.preDone, n % 8 ≠ 0) → (∀ d < 4, headOf_ (getDie s d).pend = none) → exec stop s = .next s)
    ∧ (¬stops → (x.root = me ∨ x.preOrder ≠ 0) → exec stop s = .next s)
    ∧ (x.root ≠ me → x.preOrder = 0 → chosen → runs x → 0 ∉ x.preDone → ∃ t, exec stop s = .next t ∧ (∀ y, getCtx t y = getCtx s y) ∧ sameBytes s t
        ∧ ∃ q ∈ t.sent, q.pkt.dst = x.root ∧ q.pkt.cls = 0 ∧ q.pkt.body = .preempt l 0 false)
    ∧ (((x.root = me ∧ (chosen ∨ ∃ n ∈ x.preDone, n % 8 = 0)) ∨ (x.root ≠ me ∧ 0 < x.preOrder)) → stops → ∃ t, exec stop s = .next t ∧ (getLaunch t l).pre = .stop ∧ tells t 1
        ∧ sameBytes s t ∧ (∀ y, coreOf y ∉ x.cores → getCtx t y = getCtx s y)
        ∧ (∀ k, k ∉ x.cores → let c := getCore s k; getCore t k = { c with ql := c.ql.filter kept, qh := c.qh.filter kept }) ∧ ∀ k ∈ x.cores, (∀ i < 11, let a := getCtx s (ctxNo k i); let z := getCtx t (ctxNo k i)
            (a.st = .free → z = a) ∧ (a.st = .blocked → ¬lasts a → z = { a with st := .ready, wait := none, answers := [], farTag := none, holds := [], leave := 0, reask := max a.leave a.reask })
            ∧ (a.st ≠ .free → (a.st ≠ .blocked ∨ lasts a) → z = { a with leave := 0, reask := max a.leave a.reask }))
          ∧ (∀ m ∈ (getQ t k .mxu).cmds, m.phase ≤ 2 → m.grant = 0) ∧ (∀ e ∈ [Engine.cpe, .gte], ∀ m ∈ (getQ t k e).cmds, m.phase ≤ 1 → m.grant = 0)
          ∧ (∀ e, ∀ m ∈ (getQ t k e).cmds, ∃ m0 ∈ (getQ s k e).cmds, m.uid = m0.uid ∧ m.word = m0.word ∧ m.phase = m0.phase)
          ∧ ∀ q < 4, (getPitch t k q).state = (if (getPitch s k q).books = [] then (getPitch s k q).state else 5) ∧ (getPitch t k q).books = (getPitch s k q).books)
    ∧ (x.first = none → x.pre = .stop → mayOpen 2 → ∃ t, exec (.preemptionDrain l) s = .next t ∧ sameBytes s t ∧ t.cores = s.cores
        ∧ (pends → (getLaunch t l).pre = .stop ∧ t.ctxs = s.ctxs)
        ∧ (¬pends → (getLaunch t l).pre = .drain ∧ tells t 2 ∧ ∀ y, let c := getCtx s y; getCtx t y = if coreOf y ∈ x.cores ∧ idxOf y < 11 then { c with holds := [] } else c))
    ∧ (x.first = none → x.pre = .drain → mayOpen 3 → bad → (∀ k ∈ x.cores, launchOf s k = some l) → ∃ t q k g, exec (.preemptionWrite l) s = .next t ∧ hit k g ∧ (getLaunch t l).pre = .drain
        ∧ (getLaunch t l).first = some q ∧ q.cause = 0x22 ∧ q.core = coreId k ∧ q.ctx = 0 ∧ q.fva = BitVec.ofNat 64 (g - sliceKey k 0))
    ∧ (x.first = none → x.pre = .drain → mayOpen 3 → ¬bad → memInv s → s.saveArea.1 + s.saveArea.2 ≤ 2 ^ 39 → ∃ t, exec (.preemptionWrite l) s = .next t ∧ (getLaunch t l).pre = .write ∧ tells t 3
        ∧ (∀ a, (a < s.saveArea.1 ∨ s.saveArea.1 + s.saveArea.2 ≤ a) → mget t.mem a = mget s.mem a)
        ∧ t.ctxs = s.ctxs ∧ t.cores = s.cores ∧ (∀ k ∈ x.cores, (∀ i < 1024, lineOf (sliceKey k 0) + i ∈ t.clean) ∧ ∃ im ∈ (getLaunch t l).images, im.slot = k ∧ im.core = getCore s k
          ∧ (∀ i < 11, (i = 0 ∨ (getCtx s (ctxNo k i)).st ≠ .free) → (i, dirtyRegs (getCtx s (ctxNo k i))) ∈ im.ctxs) ∧ (∀ i < 1024, i ∈ im.lines ↔ dirty k i)
          ∧ ∀ o < 2 ^ 18, dirty k (o / 256) → ((im.bytes.find? (fun c => c.1 == o)).map (·.2)).getD 0 = mget s.mem (sliceKey k o))
        ∧ (∀ o b, b < 4 → kmem s.octs o = true → (getOct s o).banks.toList[b]?.any (fun y => y.owner == some l) = true → ∃ im ∈ (getLaunch t l).banks, im.oct = o ∧ im.bank = b
            ∧ (getOct s o).banks.toList[b]? = some im.data)
        ∧ ∀ c, kmem s.clus c = true → (getCre s c).owner = some l → (c, getCre s c) ∈ (getLaunch t l).cres)
    ∧ (x.first = none → x.pre = .write → mayOpen 4 → ∃ t q, exec (.preemptionRelease l) s = .next t ∧ (getLaunch t l).pre = .saved ∧ (getLaunch t l).npre = x.npre + 1
        ∧ (getLaunch t l).cores = [] ∧ (getLaunch t l).images = x.images ∧ tells t 4 ∧ sameBytes s t ∧ others t ∧ (∀ k ∈ x.cores, launchOf t k = none ∧ ∀ i < 11, getCtx t (ctxNo k i) = {})
        ∧ (∀ b ∈ x.banks, ∀ y ∈ (getOct t b.oct).banks.toList, y.owner ≠ some l) ∧ (∀ c ∈ x.cres, (getCre t c.1).owner = none)
        ∧ (getDie t x.die).pend = (getDie s x.die).pend ++ [q] ∧ q.key = l ∧ q.words = x.words ∧ q.seq = x.seq ∧ q.restore = true))

/-- R118, R401, R431, R437, R438: a saved launch at the head of its stage's queue goes onto the cores it left, or, when nothing binds it to them, onto the same core numbers of a free cluster:
each register and each line from the newest image that has it, queues as they were saved, its pitches resume, one that held leave asks for it again, its translations are flushed. It waits while
nothing is free; an error in an image is a fault. The parts of a launch of several modules wait until the root knows that all are back, and then go on together (log 54). -/
def Obligations.SavedLaunchesAreRestored : Prop :=
  ∀ (s : State) (l : Nat) (p : Pending) (m : List (Nat × Nat)), let x := getLaunch s l; let me := myNode s; let ims := newestImages x; let run := exec (.restore l) s
    let head := p ∈ (getDie s x.die).pend ∧ p.key = l ∧ p.restore = true ∧ ∀ q ∈ (getDie s x.die).pend, q = p ∨ recLpri { words := q.words } < recLpri { words := p.words }
      ∨ (recLpri { words := q.words } = recLpri { words := p.words } ∧ p.seq < q.seq)
    let dest := fun (im : CoreImage) => moved m im.slot; let bound := x.modWin = true ∨ x.cres ≠ [] ∨ ∃ im ∈ x.images, ∃ q : Fin 4, im.core.pitch[q].state ≠ 0
    let plain := (ims.map dest).Nodup ∧ ∀ im ∈ ims, dest im < 4608 ∧ (im.ctxs.map (·.1)).Nodup ∧ ∀ c ∈ im.ctxs, c.1 < 11
    let quiet := ∀ im ∈ ims, im.core.spill = [] ∧ im.core.refused = [] ∧ (getCore s (dest im)).refused = []; let mine := fun (im : CoreImage) => x.images.filter (fun j => j.slot == im.slot)
    let chain := fun (im : CoreImage) (n : Nat) => (mine im).filterMap (fun j => (j.ctxs.find? (fun q => q.1 == n)).map (·.2))
    let newest := fun (ds : List Ctx) (has : Ctx → Bool) (d : Ctx) => ∃ a b, ds = a ++ d :: b ∧ has d = true ∧ ∀ e ∈ a, has e = false
    let line := fun (im : CoreImage) (n : Nat) (j : CoreImage) => ∃ a b, mine im = a ++ j :: b ∧ n ∈ j.lines ∧ ∀ e ∈ a, n ∉ e.lines
    let inImage := fun (g : Nat) => ∃ im ∈ x.images, im.addr ≤ g ∧ g < im.addr + im.len; let still := ∀ k ∈ x.cores, (getCore s k).spill = [] ∧ (getCore s k).refused = []
    kmem s.launches l = true → (∀ q ∈ s.arrived, isPre q = false) →
    ((x.pre = .saved → x.first = none → bootState s = 4 → head →
      (restorePlace s x = none → run = .next s) ∧ (restorePlace s x = some m → banksFree s x m = false → run = .next s)
      ∧ (restorePlace s x = some m → (bound → ∀ im ∈ ims, dest im = im.slot)
        ∧ (plain → ∀ im ∈ ims, dest im % 48 = im.slot % 48 ∧ launchOf s (dest im) = none ∧ recAllows { words := x.words } (dest im) = true))
      ∧ (restorePlace s x = some m → banksFree s x m = true → (∃ g ∈ s.poison, inImage g) → ∃ t q, run = .next t ∧ (getLaunch t l).first = some q ∧ q.cause = 0x122 ∧ q.ctx = 0 ∧ q.time = nowNs s
          ∧ (getLaunch t l).pre = .saved ∧ sameBytes s t ∧ t.ctxs = s.ctxs ∧ t.cores = s.cores)
      ∧ (restorePlace s x = some m → banksFree s x m = true → plain → (∀ g ∈ s.poison, ¬inImage g) → ∃ t, run = .next t ∧ (∀ k, k ∈ (getLaunch t l).cores ↔ ∃ im ∈ ims, k = dest im)
        ∧ (x.nodes.length ≤ 1 → (getLaunch t l).pre = .no)
        ∧ (1 < x.nodes.length → (getLaunch t l).pre = .back ∧ (x.root ≠ me → ∃ q ∈ t.sent, q.pkt.dst = x.root ∧ q.pkt.cls = 0 ∧ q.pkt.body = .preempt l 5 true))
        ∧ (∀ q ∈ (getDie t x.die).pend, q.key ≠ l) ∧ (∀ e ∈ t.tlb, e.asid ≠ x.asid ∧ e.asid ∉ x.asids) ∧ (∀ e ∈ t.walks, e.asid ≠ x.asid ∧ e.asid ∉ x.asids)
        ∧ (quiet → (∀ im ∈ ims, let c := getCore t (dest im); c.launch = some l ∧ c.hand = im.core.hand ∧ c.lcore = im.core.lcore ∧ c.books = im.core.books ∧ c.spill = [] ∧ c.halted = false
            ∧ (∀ e : Fin 4, c.eng[e].cmds.map (·.word) = im.core.eng[e].cmds.map (·.word) ∧ c.eng[e].cmds.map (·.phase) = im.core.eng[e].cmds.map (·.phase))
            ∧ (∀ y ∈ im.ctxs, let z := getCtx t (ctxNo (dest im) y.1); let ds := chain im y.1
              { z with s := y.2.s, v := y.2.v, p := y.2.p, k := y.2.k, sd := y.2.sd, vd := y.2.vd, pd := y.2.pd, kd := y.2.kd } = y.2 ∧ z.sd = 0 ∧ z.vd = 0 ∧ z.pd = 0 ∧ z.kd = 0
              ∧ (∀ (i : Fin 32) d, (newest ds (fun e => e.sd.getLsbD i) d → z.s[i] = d.s[i]) ∧ (newest ds (fun e => e.vd.getLsbD i) d → z.v[i] = d.v[i])
                ∧ (newest ds (fun e => e.kd.getLsbD i) d → z.k[i] = d.k[i]))
              ∧ (∀ (i : Fin 8) d, newest ds (fun e => e.pd.getLsbD i) d → z.p[i] = d.p[i])
              ∧ (0 < y.2.reask → ∃ r ∈ (getClus t (clusOf (dest im))).waits, r.who = .ctx (ctxNo (dest im) y.1) ∧ r.units = y.2.reask))
            ∧ (∀ q : Fin 4, c.pitch[q].state = (if im.core.pitch[q].state = 5 then im.core.pitch[q].back else im.core.pitch[q].state) ∧ c.pitch[q].pegs = im.core.pitch[q].pegs
              ∧ c.pitch[q].gen = im.core.pitch[q].gen)
            ∧ ∀ o < 2 ^ 18, (∀ j, line im (o / 256) j → mget t.mem (sliceKey (dest im) o) = ((j.bytes.find? (fun c => c.1 == o)).map (·.2)).getD 0)
              ∧ ((∀ j ∈ mine im, o / 256 ∉ j.lines) → mget t.mem (sliceKey (dest im) o) = mget s.mem (sliceKey (dest im) o)))
          ∧ (∀ a, (∀ im ∈ ims, ∀ o < 2 ^ 18, a ≠ sliceKey (dest im) o) → mget t.mem a = mget s.mem a)
          ∧ ∀ y, (∀ im ∈ ims, coreOf y ≠ dest im) → getCtx t y = getCtx s y)))
    ∧ (x.pre = .back → x.root = me → (∃ n ∈ x.nodes, n ≠ me ∧ 8 * n + 5 ∉ x.preDone) → run = .next s)
    ∧ (x.pre = .back → x.root ≠ me → x.preOrder ≠ 5 → run = .next s)
    ∧ (x.pre = .back → still → ((x.root = me ∧ ∀ n ∈ x.nodes, n = me ∨ 8 * n + 5 ∈ x.preDone) ∨ (x.root ≠ me ∧ x.preOrder = 5)) → ∃ t, run = .next t ∧ (getLaunch t l).pre = .no
        ∧ (getLaunch t l).cores = x.cores ∧ (getLaunch t l).mark = nowNs s ∧ t.ctxs = s.ctxs ∧ t.cores = s.cores ∧ sameBytes s t
        ∧ (x.root = me → x.preOrder < 5 → ∀ n ∈ x.nodes, n ≠ me → ∃ q ∈ t.sent, q.pkt.dst = n ∧ q.pkt.cls = 0 ∧ q.pkt.body = .preempt l 5 false)))

/-! ## The host, boot, power -/

/-- R442, R451-R459, R462, R469: the host's and firmware's writes to the registers of BAR0. HQEN, HQBASE, HQSIZE (4 to 12, else QERR), HQTAIL (below the ring's size, else QERR), BSTAT.QERR and ACMD.DONE by
writing 1, NONCE, counters cleared, watchdogs refreshed, cores halted and resumed, MSI-X vectors unmasked with what was pending sent; HWBASE, NODE, SPKOWN, which clears the router when it changes, ASIDs, PCAP and
budgets clamped, limits. A half goes with the other half as it reads; a malformed write or read, or a write of the host to a register of firmware's, is counted; other offsets ignore it. A debug register tells whether
every live context of its core is HALTED. -/
def Obligations.RegistersAreWritten : Prop :=
  ∀ (s : State) (v : Word) (off : BitVec 24) (n o vec k clus : Nat) (slot : BitVec 4) (c16 : BitVec 16),
    let sets := fun (e : Instr) (r : Nat) (w : Word) => ∃ t, exec e s = .next t ∧ setsReg s t r w; let same := fun (e : Instr) => exec e s = .next s
    let host := fun (r : Nat) => Instr.hostRegisterWrite (BitVec.ofNat 24 r) 8 true v; let firm := fun (r : Nat) => Instr.hostRegisterWrite (BitVec.ofNat 24 r) 8 false v
    let counted := fun (e : Instr) => ∃ t, exec e s = .next t ∧ countsOne s t 0x042048 ∧ { t with regs := s.regs } = s; let on := fun (i : Nat) => v.toNat / 2 ^ i % 2 = 1
    let qerr := fun (e : Instr) => sets e 0 (bar s 0 ||| 0x80); let acts := fun (a : Instr) (es : List Instr) => ∀ e ∈ es, exec e s = exec a s
    let r8 := off.toNat / 8 * 8; let clamp := fun (lo hi : Nat) => BitVec.ofNat 64 (min hi (max lo (v.toNat % 2 ^ 12)))
    let mine := r8 = 0x010000 ∨ r8 = 0x010008 ∨ r8 = 0x010010 ∨ (0x010100 ≤ r8 ∧ r8 < 0x010900) ∨ r8 = 0x020000 ∨ (0x020100 ≤ r8 ∧ r8 < 0x020400) ∨ r8 = 0x090000 ∨ r8 = 0x090008
      ∨ (0x090100 ≤ r8 ∧ r8 < 0x090180)
    let whole := if off.toNat % 8 = 4 then BitVec.ofNat 64 ((bar s r8).toNat % 2 ^ 32 + v.toNat % 2 ^ 32 * 2 ^ 32)
      else BitVec.ofNat 64 ((bar s r8).toNat / 2 ^ 32 * 2 ^ 32 + v.toNat % 2 ^ 32)
    let fresh := fun (e : Instr) (j : Nat) => ∃ t, exec e s = .next t ∧ getJob t j = { getJob s j with since := nowNs s, count := 0 } ∧ (∀ i, i ≠ j → getJob t i = getJob s i) ∧ { t with jobs := s.jobs } = s
    let mb := 0x100008 + 16 * vec; let pb := 0x108000 + 8 * (vec / 64); let pend := bits (bar s pb) (vec % 64) 1 = 1
    let read := takeInput (.hostRead off.toNat n) s
    (((n ≠ 4 ∧ n ≠ 8) ∨ off.toNat % n ≠ 0) → counted (.hostRegisterWrite off n true v) ∧ same (.hostRegisterWrite off n false v) ∧ countsOne s read 0x042048 ∧ { read with regs := s.regs } = s)
    ∧ ((n = 4 ∨ n = 8) → off.toNat % n = 0 → read = s)
    ∧ (k < 4608 → let w := regRead s (0x080000 + 8 * k); (w = 0 ∨ w = 4) ∧ (w = 4 ↔ (getCore s k).halted = true ∧ ∀ i < 11, (getCtx s (ctxNo k i)).st = .free ∨ (getCtx s (ctxNo k i)).st = .halted))
    ∧ ((o < 0x080000 ∨ 0x089000 ≤ o) → regRead s o = bar s o)
    ∧ ((n = 4 ∨ n = 8) → off.toNat % n = 0 → mine → counted (.hostRegisterWrite off n true v))
    ∧ (off.toNat % 4 = 0 → r8 ≠ 0 → r8 ≠ 0x002000 → ∀ h, exec (.hostRegisterWrite off 4 h v) s = exec (.hostRegisterWrite (BitVec.ofNat 24 r8) 8 h whole) s)
    ∧ (∀ e ∈ [Instr.hqenWrite v, host 0x001000], sets e 0x001000 (masked s 0x001000 1 v)) ∧ sets (host 0x001008) 0x001008 (masked s 0x001008 (2 ^ 64 - 2 ^ 12) v)
    ∧ (∀ e ∈ [Instr.hqsizeWrite v, host 0x001010], if 4 ≤ v.toNat % 16 ∧ v.toNat % 16 ≤ 12 then sets e 0x001010 (masked s 0x001010 0xF v) else qerr e)
    ∧ (∀ e ∈ [Instr.hqtailWrite v, host 0x001018], if v.toNat % 2 ^ 12 < 2 ^ bits (bar s 0x001010) 0 4 then sets e 0x001018 (masked s 0x001018 0xFFF v) else qerr e)
    ∧ (if on 7 then sets (host 0) 0 (bar s 0 &&& ~~~0x80) else same (host 0)) ∧ sets .attestationRequest 0x002000 (bar s 0x002000 ||| 1)
    ∧ sets (host 0x002000) 0x002000 ((if on 1 then bar s 0x002000 &&& ~~~2 else bar s 0x002000) ||| (if on 0 then 1 else 0))
    ∧ (o < 4 → sets (host (0x002020 + 8 * o)) (0x002020 + 8 * o) v)
    ∧ (c16.toNat < 0x2050 → c16.toNat % 8 = 0 → ∀ e ∈ [Instr.counterClear c16, host (0x040000 + c16.toNat)], sets e (0x040000 + c16.toNat) 0)
    ∧ (∀ e ∈ [Instr.jobWatchdogRefresh slot, host (0x091000 + 8 * slot.toNat)], fresh e slot.toNat)
    ∧ (k < 4608 → v.toNat % 4 = 1 → acts (.debugHalt k) [host (0x080000 + 8 * k)]) ∧ (k < 4608 → v.toNat % 4 = 2 → acts (.debugResume k) [host (0x080000 + 8 * k)])
    ∧ (k < 4608 → v.toNat % 4 = 0 → same (host (0x080000 + 8 * k)))
    ∧ (vec < 2048 → sets (host (0x100000 + 16 * vec)) (0x100000 + 16 * vec) (masked s (0x100000 + 16 * vec) (2 ^ 64 - 4) v)
        ∧ (on 32 → sets (host mb) mb (masked s mb (2 ^ 33 - 1) v))
        ∧ (¬pend → sets (.msixUnmask vec) mb (bar s mb &&& ~~~0x100000000))
        ∧ (pend → ∃ t, exec (.msixUnmask vec) s = .next t ∧ t.irqs = s.irqs ++ [vec] ∧ bits (bar t pb) (vec % 64) 1 = 0 ∧ bar t mb = (bar s mb &&& ~~~0x100000000)
          ∧ (∀ o, o ≠ mb → o ≠ pb → bar t o = bar s o) ∧ { t with regs := s.regs, irqs := s.irqs } = s))
    ∧ (∀ e ∈ [Instr.spkownWrite v, firm 0x010010], let w := masked s 0x010010 0x1F v
        if w = bar s 0x010010 then ∃ t, exec e s = .next t ∧ setsReg s t 0x010010 w else ∃ t, exec e s = .next t ∧ t.spk = {} ∧ t.steps = [] ∧ setsReg s { t with spk := s.spk, steps := s.steps } 0x010010 w)
    ∧ (∀ e ∈ [Instr.pcapWrite v, firm 0x020000], sets e 0x020000 (clamp 1600 3200))
    ∧ (clus < 96 → ∀ e ∈ [Instr.lbudgetWrite clus v, firm (0x020100 + 8 * clus)], sets e (0x020100 + 8 * clus) (clamp 64 4095))
    ∧ (∃ t, exec (firm 0x010000) s = .next t ∧ t.hwOld = (if s.launches = [] then none else some (bar s 0x010000)) ∧ setsReg s { t with hwOld := s.hwOld } 0x010000 v)
    ∧ sets (firm 0x010008) 0x010008 (masked s 0x010008 0xFFF v)
    ∧ (o < 256 → ∃ t, exec (firm (0x010100 + 8 * o)) s = .next t ∧ setsReg s { t with jobs := s.jobs } (0x010100 + 8 * o) (masked s (0x010100 + 8 * o) (2 ^ 63 + 0xF000000000000 + 0xFFF) v))
    ∧ ((o = 0x090000 ∨ o = 0x090008 ∨ ∃ j < 16, o = 0x090100 + 8 * j) → sets (firm o) o (masked s o 0xFFFFFFFF v))
    ∧ ((o = 0x001020 ∨ o = 0x002008 ∨ (0x002200 ≤ o ∧ o < 0x002320) ∨ (0x002800 ≤ o ∧ o < 0x003000) ∨ (0x020800 ≤ o ∧ o < 0x020920) ∨ (0x042050 ≤ o ∧ o < 0x080000) ∨ (0x108000 ≤ o ∧ o < 2 ^ 24)) →
        o % 8 = 0 → same (host o))

/-- R387, R460, R461: while the device is READY and the queue enabled, the entry at HQHEAD and its record are read from host memory; a record that passes the checks enters D0's queue and RSTAT is 1, once there is
room; another is counted, and RSTAT is 2 with the REASON; then HQHEAD goes on round the ring. One whose cores must read the handler image first is reported only then (log 51), and the next entry waits. -/
def Obligations.HostQueueIsServed : Prop :=
  ∀ (s : State), let head := (bar s 0x001020).toNat; let ready := bootState s = 4 ∧ bits (bar s 0x001000) 0 1 = 1 ∧ head ≠ (bar s 0x001018).toNat % 2 ^ 12
      ∧ ∀ q ∈ (getDie s 0).pend, q.host = none
    let addr := (bar s 0x001008).toNat + 64 * head; let at_ := fun (a : Nat) => hostKey (a % 2 ^ 64); let rec_ := cellsNat s (fun i => at_ (addr + i)) 8
    let l : Launch := { words := (List.range 32).map (fun i => BitVec.ofNat 64 (cellsNat s (fun y => at_ (rec_ + 8 * i + y)) 8)) }
    let next := BitVec.ofNat 64 ((head + 1) % 2 ^ bits (bar s 0x001010) 0 4); let d := getDie s 0; let reason := recReason s l 0 none
    (¬ready → exec .hostQueueEntry s = .next s)
    ∧ (ready → reason ≠ 0 → ∃ t, exec .hostQueueEntry s = .next t ∧ (∀ a, mget t.mem a = written s [(at_ (addr + 0x10), 2), (at_ (addr + 0x11), BitVec.ofNat 8 reason)] a) ∧ t.dies = s.dies
        ∧ bar t 0x001020 = next ∧ bar t 0x042010 = BitVec.ofNat 64 (min ((bar s 0x042010).toNat + 1) (2 ^ 64 - 1)) ∧ ∀ o, o ≠ 0x001020 → o ≠ 0x042010 → bar t o = bar s o)
    ∧ (ready → reason = 0 → 256 ≤ d.pend.length → exec .hostQueueEntry s = .next s)
    ∧ (ready → reason = 0 → d.pend.length < 256 → ∃ t q, exec .hostQueueEntry s = .next t
        ∧ (if recHtab l ≠ 0 ∧ htabFar l = false then q.host = some addr ∧ t.mem = s.mem ∧ ∀ o, bar t o = bar s o
          else q.host = none ∧ (∀ a, mget t.mem a = written s [(at_ (addr + 0x10), 1)] a) ∧ bar t 0x001020 = next ∧ ∀ o, o ≠ 0x001020 → bar t o = bar s o)
        ∧ (getDie t 0).pend = d.pend ++ [q] ∧ q.words = l.words ∧ q.tacc = nowNs s ∧ q.root = myNode s ∧ q.rank = 0 ∧ q.restore = false
        ∧ { t with regs := s.regs, mem := s.mem, poison := s.poison, clean := s.clean, soft := s.soft, dies := s.dies, uid := s.uid } = s)

/-- R463-R469, R473: an image is verified by its magic and zero fields, length, digest, signature and version, in that order, and the first failure is ERR's code. From RESET the ROM runs, reads the flash image and verifies it: it runs in LOAD, memory is
zero with valid check bits, the banks are +0, joined ports come up and the state is READY; or the state is RECOVERY. There GO reads an image of the host's, which then runs in LOAD, replacing the flash image with PERSIST,
or leaves RECOVERY with ERR; elsewhere RCMD, REC_ADDR and REC_LEN are not written, and the write is counted. A report holds the serial number, SVN, the three measurements, the nonce and their signature. -/
def Obligations.ImagesAreVerifiedAndRun : Prop :=
  ∀ (s : State) (img : List Byte) (v : Word), let byte := fun (i : Nat) => img.getD i 0; let num := fun (o n : Nat) => natOfBytes ((img.drop o).take n); let len := num 8 4
    let bad1 := (∃ i < 8, byte i ≠ magic.getD i 0) ∨ ∃ i, ((0xD ≤ i ∧ i < 0x100) ∨ (0x190 ≤ i ∧ i < 0x200)) ∧ byte i ≠ 0; let h := Config.sha384 (img.take 256 ++ (img.drop 512).take len)
    let digest := BitVec.ofNat 384 (num 0x100 48); let signed := Config.rootVerify h (BitVec.ofNat 384 (num 0x130 48)) (BitVec.ofNat 384 (num 0x160 48)) = true
    let fails := fun (n : Nat) => (n = 1 ∧ bad1) ∨ (¬bad1 ∧ ((n = 2 ∧ (2 ^ 25 < len ∨ img.length < 512 + len)) ∨ (len ≤ 2 ^ 25 ∧ 512 + len ≤ img.length ∧ ((n = 3 ∧ h ≠ digest)
      ∨ (h = digest ∧ ((n = 4 ∧ ¬signed) ∨ (signed ∧ n = 5 ∧ num 0xC 1 < bits (bar s 0) 24 8)))))))
    let good := ∀ n, ¬fails n; let st := bootState s; let err := fun (t : State) (n state : Nat) => bits (bar t 0) 16 8 = n ∧ bootState t = state ∧ (∀ o, o ≠ 0 → bar t o = bar s o) ∧ bits (bar t 0) 24 8 = bits (bar s 0) 24 8
    let starts := fun (t : State) => bootState t = 4 ∧ (∀ a, mget t.mem a = if a < 2 ^ 40 then 0 else mget s.mem a) ∧ t.poison = [] ∧ t.soft = [] ∧ (∀ o b, mxBank t o b = {})
      ∧ (∀ i < 8, (portPeer s i).isSome → (getPort t i).up = true) ∧ ∀ o, o ≠ 0 → bar t o = bar s o
    let rd := fun (a : Nat) => mget s.mem (hostKey (a % 2 ^ 64)); let ra := (bar s 0x000010).toNat; let rl := bits (bar s 0x000018) 0 32; let idle := st = 5 ∧ s.recov = none
    let write := fun (r : Nat) => Instr.hostRegisterWrite (BitVec.ofNat 24 r) 8 true v; let counted := fun (e : Instr) => ∃ t, exec e s = .next t ∧ countsOne s t 0x042048 ∧ { t with regs := s.regs } = s
    let reads := fun (e : Instr) (m : Word) => ∃ t l, exec e s = .next t ∧ t.recov = some l ∧ l.length = min rl (513 + 2 ^ 25) ∧ (∀ i < l.length, l.getD i 0 = rd (ra + i)) ∧ setsReg s { t with recov := s.recov } 8 m
    let go := fun (w : Word) => w ||| 1; let config := Config.sha384 ((bar s 0x010008 :: (List.range 256).map (fun i => bar s (0x010100 + 8 * i)) ++ [bar s 0x010000, bar s 0x020000]
      ++ (List.range 96).map (fun i => bar s (0x020100 + 8 * i))).flatMap (fun w => bytesOfNat 8 w.toNat))
    let report := bytesOfNat 8 Config.serialNumber.toNat ++ [BitVec.ofNat 8 (bits (bar s 0) 24 8)] ++ List.replicate 7 0 ++ bytesOfNat 48 Config.romMeasurement.toNat ++ bytesOfNat 48 s.measured.toNat
      ++ bytesOfNat 48 config.toNat ++ (List.range 4).flatMap (fun i => bytesOfNat 8 (bar s (0x002020 + 8 * i)).toNat)
    (4 ≤ st → exec .boot s = .next s) ∧ (memInv s → st = 3 → ∃ t, exec .boot s = .next t ∧ starts t ∧ t.measured = s.measured)
    ∧ (st < 2 → ∃ t, exec .boot s = .next t ∧ bootState t = st + 1 ∧ (∀ o, o ≠ 0 → bar t o = bar s o) ∧ { t with regs := s.regs } = s)
    ∧ (st = 2 → s.flash = img → good → ∃ t, exec .boot s = .next t ∧ bootState t = 3 ∧ t.measured = digest ∧ (∀ o, o ≠ 0 → bar t o = bar s o) ∧ { t with regs := s.regs, measured := s.measured } = s)
    ∧ (st = 2 → s.flash = img → ∀ n, fails n → ∃ t, exec .boot s = .next t ∧ err t n 5 ∧ sameBytes s t)
    ∧ (¬idle → ∀ e ∈ [Instr.recoveryGo, write 8, write 0x10, write 0x18], counted e)
    ∧ (idle → reads .recoveryGo (go (bar s 8)) ∧ (v.toNat % 2 = 1 → reads (write 8) (go (masked s 8 2 v))) ∧ (v.toNat % 2 = 0 → ∃ t, exec (write 8) s = .next t ∧ setsReg s t 8 (masked s 8 2 v))
      ∧ (∃ t, exec (write 0x10) s = .next t ∧ setsReg s t 0x10 (masked s 0x10 (2 ^ 64 - 2 ^ 12) v)) ∧ ∃ t, exec (write 0x18) s = .next t ∧ setsReg s t 0x18 (masked s 0x18 0xFFFFFFFF v))
    ∧ (s.recov = none → exec .recoveryVerifyDone s = .next s)
    ∧ (s.recov = some img → good → img.length = 512 + len → ∃ t, exec .recoveryVerifyDone s = .next t ∧ bootState t = 3 ∧ t.measured = digest ∧ t.recov = none
        ∧ t.flash = (if bits (bar s 8) 1 1 = 1 then img else s.flash) ∧ bits (bar t 8) 0 1 = 0 ∧ sameBytes s t)
    ∧ (s.recov = some img → ∀ n, ((fails n ∧ (n = 1 ∨ img.length = 512 + len)) ∨ (n = 2 ∧ ¬bad1 ∧ img.length ≠ 512 + len)) → ∃ t, exec .recoveryVerifyDone s = .next t ∧ t.recov = none ∧ bootState t = st
        ∧ bits (bar t 0) 16 8 = n ∧ t.flash = s.flash ∧ t.measured = s.measured ∧ bits (bar t 8) 0 1 = 0 ∧ sameBytes s t)
    ∧ (bits (bar s 0x002000) 0 1 = 0 → exec .attestationReport s = .next s)
    ∧ (bits (bar s 0x002000) 0 1 = 1 → ∃ t, ∃ sig : BitVec 768, exec .attestationReport s = .next t ∧ sig = Config.identitySign s.nonce (Config.sha384 report) ∧ bar t 0x002000 = 2
        ∧ (∀ i < 36, bar t (0x002200 + 8 * i) = BitVec.ofNat 64 (natOfBytes (((report ++ bytesOfNat 96 sig.toNat).drop (8 * i)).take 8)))
        ∧ (∀ o, o ≠ 0x002000 → (∀ i < 36, o ≠ 0x002200 + 8 * i) → bar t o = bar s o) ∧ { t with regs := s.regs, nonce := s.nonce } = s)

/-- R10, R29, R42, R45, R49, R139, R140, R299, R432, R455, R463, R470-R473: a reset puts every register but the temperatures, context, core and unit at its reset value and keeps memory's bytes; CERT holds the certificate.
An error in memory is kept, correctable or not; one found in a context, an engine or an event heap is counted, and one that cannot be corrected is a fault; the patrol scrubber corrects and counts what it finds, and an
uncorrectable granule stays bad. A walk puts its translation into the caches, or nothing where it ends in no page; a sample sets the temperatures and each die's row, up at once, down a row after 10 ms that stay 5 °C below, and at 115 °C everything stops. -/
def Obligations.ResetPowerScrubsAndWalks : Prop :=
  ∀ (s : State) (k g x l : Nat) (va : Word) (temp : Vector (BitVec 16) 16) (d : Nat) (p : Page) (dbl : Bool) (e : Engine) (ac : Fin 4) (pair : Nat), let c := clusOf k
    let hk := if (getCre s c).owner.isSome then (getCre s c).core else 48 * c; let heapOf := ((getQ s hk .cre).cmds.head?.map (·.ctx)).getD (ctxNo hk 0); let b8 := sliceKey k (8 * g); let root := (launchRec s (coreOf x)).ptroot; let v := va.toNat
    let asid := root.toNat % 2 ^ 12; let found := walkBy s { core := coreOf x, priv := true, kind := .load } root v; let walks := (launchOf s (coreOf x)).isSome = true ∧ 2 ^ 40 ≤ v ∧ v < 2 ^ 47
    let hot := fun (d : Nat) (n : Int) => ∃ i < 4, n ≤ (temp.toList.getD (4 * d + i) 0).toInt; let trip := ∃ d < 4, hot d 1840; let b := getDie s d
    let row := if hot d 1680 then 2 else if hot d 1520 then 1 else 0; let warm := hot d (if b.row = 1 then 1441 else 1601)
    let now := nowNs s; let y := fun (t : State) (r : Nat) (q : Option Nat) => getDie t d = { b with row := r, cool := q } ∧ bar t (0x020900 + 8 * d) = BitVec.ofNat 64 r
    (∃ t, exec .deviceReset s = .next t ∧ bootState t = 0 ∧ (∀ o, bar t o = if 0x020800 ≤ o ∧ o < 0x020880 then bar s o else barReset o) ∧ t.tlb = [] ∧ t.walks = [] ∧ (∀ y, getCtx t y = {}) ∧ (∀ k, getCore t k = {}) ∧ t.launches = [] ∧ (∀ d, getDie t d = {}) ∧ (∀ o, getOct t o = {})
        ∧ (∀ n, getClus t n = {}) ∧ t.spk = {} ∧ t.arrived = [] ∧ t.sent = [] ∧ t.recov = none ∧ (∀ i < 8, (getPort t i).up = false) ∧ sameBytes s t)
    ∧ (∀ i < 2048, bits (barReset (0x002800 + i / 8 * 8)) (8 * (i % 8)) 8 = if i < Config.certLen.toNat then (Config.certByte i).toNat else 0)
    ∧ (let t := takeInput (.softError (.mem g) dbl) s; let u := eccBase g; if 2 ^ 40 ≤ g ∨ u ∈ s.poison then t = s
        else { t with poison := s.poison, soft := s.soft } = s ∧ if dbl = true ∨ u ∈ s.soft then (∀ w, (w ∈ t.poison ↔ w = u ∨ w ∈ s.poison) ∧ (w ∈ t.soft ↔ w ∈ s.soft ∧ w ≠ u))
          else t.poison = s.poison ∧ ∀ w, w ∈ t.soft ↔ w = u ∨ w ∈ s.soft)
    ∧ (let t := takeInput (.softError (.acc g ac.val pair) dbl) s; (∀ q z, (q, z) ∈ (mxBank t g ac).errs ↔ if q = pair then z = (dbl || (mxBank s g ac).errs.any (fun y => y.1 == pair)) else (q, z) ∈ (mxBank s g ac).errs)
        ∧ { mxBank t g ac with errs := (mxBank s g ac).errs } = mxBank s g ac ∧ (∀ o q, (o ≠ g ∨ q ≠ ac) → mxBank t o q = mxBank s o q) ∧ { t with octs := s.octs } = s)
    ∧ (∀ m rest, (getQ s k e).cmds = m :: rest → ∀ q ∈ [(EccSite.ctx x, x, 0x322), (.engine k e, m.ctx, 0x422), (.heap c, heapOf, 0x422)], let at_ := 0x040000 + 16 * clusOf (coreOf q.2.1)
        countsOne s (takeInput (.softError q.1 false) s) at_ ∧ { takeInput (.softError q.1 false) s with regs := s.regs } = s
        ∧ (let t := takeInput (.softError q.1 true) s; countsOne s t (at_ + 8) ∧ sameBytes s t ∧ t.ctxs = s.ctxs ∧ (launchOf s (coreOf q.2.1) = none → { t with regs := s.regs } = s)
          ∧ (launchOf s (coreOf q.2.1) = some l → (getLaunch s l).first = none →
              (getLaunch t l).first = some { core := coreId (coreOf q.2.1), ctx := idxOf q.2.1, cause := q.2.2, fva := 0, time := now })))
    ∧ (k < 4608 → g < 2 ^ 15 → ∀ f, let bad := b8 ∈ s.poison ∨ f = .double; let soft := b8 ∈ s.soft ∨ f = .single; let e : Instr := .patrolScrub k g f
        (¬bad → ¬soft → exec e s = .next s)
        ∧ ((bad ∨ soft) → ∃ t, exec e s = .next t ∧ countsOne s t (0x040000 + 16 * c + if bad then 8 else 0) ∧ (∀ w, w ∈ t.soft ↔ w ∈ s.soft ∧ w ≠ b8)
          ∧ (∀ w, w ∈ t.poison ↔ (bad ∧ w = b8) ∨ w ∈ s.poison) ∧ { t with regs := s.regs, poison := s.poison, soft := s.soft } = s))
    ∧ ((¬walks ∨ ∀ p, found ≠ .page p) → exec (.pageTableWalk x va) s = .next s)
    ∧ (walks → found = .page p → let base := v / p.size * p.size; let k := coreOf x; ∃ t, exec (.pageTableWalk x va) s = .next t ∧ (∃ e ∈ t.tlb, e.tlb = .clus (clusOf k) ∧ e.asid = asid ∧ e.va = base)
        ∧ (∀ e ∈ t.tlb, e ∈ s.tlb ∨ (e.asid = asid ∧ e.va = base ∧ e.size = p.size ∧ e.pa = p.pa ∧ e.ent = p.ent ∧ e.tlb ∈ [.clus (clusOf k), .inst k, .data k, .cpe (octOf k)]))
        ∧ (∀ e ∈ t.walks, e ∈ s.walks ∨ (e.die = dieOf k ∧ e.asid = asid ∧ 1 ≤ e.lvl ∧ e.lvl ≤ 3 ∧ e.hi = v / 2 ^ (48 - 9 * e.lvl))) ∧ onlyCorrected s t
        ∧ { t with tlb := s.tlb, walks := s.walks, nonce := s.nonce, soft := s.soft, regs := s.regs } = s)
    ∧ (bootState s ≠ 4 → exec (.thermalSample temp) s = .next s)
    ∧ (bootState s = 4 → ∃ t, exec (.thermalSample temp) s = .next t ∧ sameBytes s t ∧ (∀ i < 16, bar t (0x020800 + 8 * i) = (temp.toList.getD i 0).setWidth 64)
        ∧ (trip → bootState t = 6 ∧ (∀ y, getCtx t y = {}) ∧ t.launches = [] ∧ t.irqs = s.irqs ∧ (∀ k, (∀ e : Fin 4, (getCore t k).eng[e].cmds = []) ∧ launchOf t k = none) ∧ (∀ i < 8, (getPort t i).up = false)
          ∧ ∀ o, (o < 0x020800 ∨ 0x020880 ≤ o) → o ≠ 0 → bar t o = bar s o)
        ∧ (¬trip → { t with regs := s.regs, dies := s.dies } = s ∧ (d < 4 → (b.row ≤ row → y t row none)
          ∧ (row < b.row → warm → y t b.row none) ∧ (row < b.row → ¬warm → b.cool = none → y t b.row (some now))
          ∧ (∀ q, row < b.row → ¬warm → b.cool = some q → if q + 10000000 ≤ now then y t (b.row - 1) (some now) else y t b.row (some q)))))
end

