-- ==== Sys2Proof/Laws/KMap.lean ====
section
/-!
SUPPORT. The laws of maps by key and of memory: a read after a write, and that every memory operation keeps the canonical
form.
-/
namespace Sys2Proof.Machine

/-! ## Maps -/

@[simp] theorem kget_kset_same {α : Type} (d : α) (m : KMap α) (k : Nat) (v : α) : kget d (kset m k v) k = v := by
  induction m with
  | nil => simp [kset, kget]
  | cons p t ih =>
    obtain ⟨j, w⟩ := p
    unfold kset
    split
    · simp [kget]
    · split
      · simp [kget]
      · rename_i h; simp [kget, ih, Ne.symm h]

theorem kget_kset_ne {α : Type} (d : α) (m : KMap α) {k j : Nat} (v : α) (h : j ≠ k) :
    kget d (kset m k v) j = kget d m j := by
  induction m with
  | nil => simp [kset, kget, Ne.symm h]
  | cons p t ih =>
    obtain ⟨i, w⟩ := p
    unfold kset
    split
    · simp [kget, Ne.symm h]
    · split
      · rename_i h2; subst h2; simp [kget, Ne.symm h]
      · simp [kget, ih]

/-- A read after one write, at any key. -/
theorem kget_kset {α : Type} (d : α) (m : KMap α) (k j : Nat) (v : α) :
    kget d (kset m k v) j = if j = k then v else kget d m j := by
  split
  · rename_i h; simp [h]
  · rename_i h; exact kget_kset_ne d m v h

theorem kset_kset {α : Type} (m : KMap α) (k : Nat) (v w : α) : kset (kset m k v) k w = kset m k w := by
  induction m with
  | nil => simp [kset]
  | cons p t ih =>
    obtain ⟨i, u⟩ := p
    by_cases h1 : k < i
    · simp [kset, h1]
    · by_cases h2 : k = i
      · simp [kset, h2]
      · simp [kset, h1, h2, ih]

theorem kget_kdel {α : Type} (d : α) (m : KMap α) (k j : Nat) :
    kget d (kdel m k) j = if j = k then d else kget d m j := by
  induction m with
  | nil => simp [kdel, kget]
  | cons p t ih =>
    obtain ⟨i, w⟩ := p
    have hd : kdel ((i, w) :: t) k = if i = k then kdel t k else (i, w) :: kdel t k := by
      by_cases h : i = k <;> simp [kdel, h]
    rw [hd]
    by_cases h : i = k
    · rw [if_pos h, ih]
      by_cases h2 : j = k
      · simp [h2]
      · have h3 : ¬ i = j := fun e => h2 (by omega)
        simp [h2, kget, h3]
    · rw [if_neg h]
      simp only [kget, ih]
      by_cases h2 : i = j
      · have h3 : ¬ j = k := fun e => h (by omega)
        simp [h2, h3]
      · simp [h2]

/-! ## Canonical form -/

theorem mem_kset {α : Type} {m : KMap α} {k : Nat} {v : α} {p : Nat × α} (h : p ∈ kset m k v) : p = (k, v) ∨ p ∈ m := by
  induction m with
  | nil => simp [kset] at h; exact .inl h
  | cons q t ih =>
    obtain ⟨i, w⟩ := q
    unfold kset at h
    split at h
    · simpa using h
    · split at h
      · rename_i h2; subst h2
        rcases List.mem_cons.mp h with h | h
        · exact .inl h
        · exact .inr (List.mem_cons_of_mem _ h)
      · rcases List.mem_cons.mp h with h | h
        · exact .inr (by simp [h])
        · rcases ih h with h | h
          · exact .inl h
          · exact .inr (List.mem_cons_of_mem _ h)

theorem ksorted_kset {α : Type} {m : KMap α} (k : Nat) (v : α) (h : ksorted m = true) : ksorted (kset m k v) = true := by
  induction m with
  | nil => simp [kset, ksorted]
  | cons q t ih =>
    obtain ⟨i, w⟩ := q
    simp only [ksorted, Bool.and_eq_true, List.all_eq_true, decide_eq_true_eq] at h
    unfold kset
    split
    · rename_i hk
      simp only [ksorted, Bool.and_eq_true, List.all_eq_true, decide_eq_true_eq, List.mem_cons]
      refine ⟨?_, h⟩
      rintro p (rfl | hp)
      · exact hk
      · exact lt_trans hk (h.1 p hp)
    · split
      · rename_i hk; subst hk
        simp only [ksorted, Bool.and_eq_true, List.all_eq_true, decide_eq_true_eq]
        exact h
      · rename_i h1 h2
        simp only [ksorted, Bool.and_eq_true, List.all_eq_true, decide_eq_true_eq]
        refine ⟨fun p hp => ?_, ih h.2⟩
        rcases mem_kset hp with rfl | hp
        · omega
        · exact h.1 p hp

theorem ksorted_filter {α : Type} {m : KMap α} (f : Nat × α → Bool) (h : ksorted m = true) : ksorted (m.filter f) = true := by
  induction m with
  | nil => simp [ksorted]
  | cons q t ih =>
    obtain ⟨i, w⟩ := q
    simp only [ksorted, Bool.and_eq_true, List.all_eq_true, decide_eq_true_eq] at h
    rw [List.filter_cons]
    split
    · simp only [ksorted, Bool.and_eq_true, List.all_eq_true, decide_eq_true_eq]
      exact ⟨fun p hp => h.1 p (List.mem_of_mem_filter hp), ih h.2⟩
    · exact ih h.2

/-! ## Memory -/

/-- A byte read after a byte written. -/
theorem mget_mset (m : Memory) (a j : Nat) (b : Byte) : mget (mset m a b) j = if j = a then b else mget m j := by
  unfold mget mset
  split
  · rename_i hb
    show kget emptyByte (kdel m a) j = _
    rw [kget_kdel, hb]
  · exact kget_kset _ _ _ _ _

theorem memoryWf_mset {m : Memory} (a : Nat) (b : Byte) (h : memoryWf m = true) : memoryWf (mset m a b) = true := by
  unfold memoryWf at *
  simp only [Bool.and_eq_true, List.all_eq_true, decide_eq_true_eq] at h ⊢
  unfold mset
  split
  · exact ⟨ksorted_filter _ h.1, fun p hp => h.2 p (List.mem_of_mem_filter hp)⟩
  · rename_i hb
    refine ⟨ksorted_kset a b h.1, fun p hp => ?_⟩
    rcases mem_kset hp with rfl | hp
    · exact hb
    · exact h.2 p hp

theorem memoryWf_msetAll {m : Memory} (cells : List (Nat × Byte)) (h : memoryWf m = true) :
    memoryWf (msetAll m cells) = true := by
  unfold msetAll
  induction cells generalizing m with
  | nil => exact h
  | cons c t ih => exact ih (memoryWf_mset c.1 c.2 h)

theorem memoryWf_filter {m : Memory} (f : Host.Cell → Bool) (h : memoryWf m = true) : memoryWf (m.filter f) = true := by
  unfold memoryWf at *
  simp only [Bool.and_eq_true, List.all_eq_true, decide_eq_true_eq] at h ⊢
  exact ⟨ksorted_filter _ h.1, fun p hp => h.2 p (List.mem_of_mem_filter hp)⟩

/-- Bytes outside the cells written read as before. -/
theorem mget_msetAll_of_notMem (m : Memory) (cells : List (Nat × Byte)) (a : Nat) (h : ∀ c ∈ cells, c.1 ≠ a) :
    mget (msetAll m cells) a = mget m a := by
  unfold msetAll
  induction cells generalizing m with
  | nil => rfl
  | cons c t ih =>
    rw [List.foldl_cons, ih _ (fun c hc => h c (List.mem_cons_of_mem _ hc)), mget_mset]
    simp [Ne.symm (h c (List.mem_cons_self ..))]

end Sys2Proof.Machine
end

