-- ==== Sys2Proof/Laws/State.lean ====
section
/-!
SUPPORT. What each update of the state leaves in each field: one lemma per field and update, each true by unfolding.
-/
namespace Sys2Proof.Machine

/-! ## setCtx -/

@[simp] theorem setCtx_turn (s : State) (x : Nat) (c : Ctx) : (setCtx s x c).turn = s.turn := rfl
@[simp] theorem setCtx_agenda (s : State) (x : Nat) (c : Ctx) : (setCtx s x c).agenda = s.agenda := rfl
@[simp] theorem setCtx_nonce (s : State) (x : Nat) (c : Ctx) : (setCtx s x c).nonce = s.nonce := rfl
@[simp] theorem setCtx_flip (s : State) (x : Nat) (c : Ctx) : (setCtx s x c).flip = s.flip := rfl
@[simp] theorem setCtx_uid (s : State) (x : Nat) (c : Ctx) : (setCtx s x c).uid = s.uid := rfl
@[simp] theorem setCtx_cycle (s : State) (x : Nat) (c : Ctx) : (setCtx s x c).cycle = s.cycle := rfl
@[simp] theorem setCtx_mem (s : State) (x : Nat) (c : Ctx) : (setCtx s x c).mem = s.mem := rfl
@[simp] theorem setCtx_poison (s : State) (x : Nat) (c : Ctx) : (setCtx s x c).poison = s.poison := rfl
@[simp] theorem setCtx_soft (s : State) (x : Nat) (c : Ctx) : (setCtx s x c).soft = s.soft := rfl
@[simp] theorem setCtx_clean (s : State) (x : Nat) (c : Ctx) : (setCtx s x c).clean = s.clean := rfl
@[simp] theorem setCtx_tlb (s : State) (x : Nat) (c : Ctx) : (setCtx s x c).tlb = s.tlb := rfl
@[simp] theorem setCtx_walks (s : State) (x : Nat) (c : Ctx) : (setCtx s x c).walks = s.walks := rfl
@[simp] theorem setCtx_cores (s : State) (x : Nat) (c : Ctx) : (setCtx s x c).cores = s.cores := rfl
@[simp] theorem setCtx_octs (s : State) (x : Nat) (c : Ctx) : (setCtx s x c).octs = s.octs := rfl
@[simp] theorem setCtx_clus (s : State) (x : Nat) (c : Ctx) : (setCtx s x c).clus = s.clus := rfl
@[simp] theorem setCtx_dies (s : State) (x : Nat) (c : Ctx) : (setCtx s x c).dies = s.dies := rfl
@[simp] theorem setCtx_launches (s : State) (x : Nat) (c : Ctx) : (setCtx s x c).launches = s.launches := rfl
@[simp] theorem setCtx_bars (s : State) (x : Nat) (c : Ctx) : (setCtx s x c).bars = s.bars := rfl
@[simp] theorem setCtx_regions (s : State) (x : Nat) (c : Ctx) : (setCtx s x c).regions = s.regions := rfl
@[simp] theorem setCtx_ports (s : State) (x : Nat) (c : Ctx) : (setCtx s x c).ports = s.ports := rfl
@[simp] theorem setCtx_flows (s : State) (x : Nat) (c : Ctx) : (setCtx s x c).flows = s.flows := rfl
@[simp] theorem setCtx_sent (s : State) (x : Nat) (c : Ctx) : (setCtx s x c).sent = s.sent := rfl
@[simp] theorem setCtx_arrived (s : State) (x : Nat) (c : Ctx) : (setCtx s x c).arrived = s.arrived := rfl
@[simp] theorem setCtx_fars (s : State) (x : Nat) (c : Ctx) : (setCtx s x c).fars = s.fars := rfl
@[simp] theorem setCtx_notices (s : State) (x : Nat) (c : Ctx) : (setCtx s x c).notices = s.notices := rfl
@[simp] theorem setCtx_xfers (s : State) (x : Nat) (c : Ctx) : (setCtx s x c).xfers = s.xfers := rfl
@[simp] theorem setCtx_grems (s : State) (x : Nat) (c : Ctx) : (setCtx s x c).grems = s.grems := rfl
@[simp] theorem setCtx_spk (s : State) (x : Nat) (c : Ctx) : (setCtx s x c).spk = s.spk := rfl
@[simp] theorem setCtx_steps (s : State) (x : Nat) (c : Ctx) : (setCtx s x c).steps = s.steps := rfl
@[simp] theorem setCtx_regs (s : State) (x : Nat) (c : Ctx) : (setCtx s x c).regs = s.regs := rfl
@[simp] theorem setCtx_jobs (s : State) (x : Nat) (c : Ctx) : (setCtx s x c).jobs = s.jobs := rfl
@[simp] theorem setCtx_dims (s : State) (x : Nat) (c : Ctx) : (setCtx s x c).dims = s.dims := rfl
@[simp] theorem setCtx_flash (s : State) (x : Nat) (c : Ctx) : (setCtx s x c).flash = s.flash := rfl
@[simp] theorem setCtx_recov (s : State) (x : Nat) (c : Ctx) : (setCtx s x c).recov = s.recov := rfl
@[simp] theorem setCtx_measured (s : State) (x : Nat) (c : Ctx) : (setCtx s x c).measured = s.measured := rfl
@[simp] theorem setCtx_irqs (s : State) (x : Nat) (c : Ctx) : (setCtx s x c).irqs = s.irqs := rfl
@[simp] theorem setCtx_outbox (s : State) (x : Nat) (c : Ctx) : (setCtx s x c).outbox = s.outbox := rfl
@[simp] theorem setCtx_saveArea (s : State) (x : Nat) (c : Ctx) : (setCtx s x c).saveArea = s.saveArea := rfl
@[simp] theorem setCtx_hwOld (s : State) (x : Nat) (c : Ctx) : (setCtx s x c).hwOld = s.hwOld := rfl

/-! ## setCore -/

@[simp] theorem setCore_turn (s : State) (k : Nat) (c : Core) : (setCore s k c).turn = s.turn := rfl
@[simp] theorem setCore_agenda (s : State) (k : Nat) (c : Core) : (setCore s k c).agenda = s.agenda := rfl
@[simp] theorem setCore_nonce (s : State) (k : Nat) (c : Core) : (setCore s k c).nonce = s.nonce := rfl
@[simp] theorem setCore_flip (s : State) (k : Nat) (c : Core) : (setCore s k c).flip = s.flip := rfl
@[simp] theorem setCore_uid (s : State) (k : Nat) (c : Core) : (setCore s k c).uid = s.uid := rfl
@[simp] theorem setCore_cycle (s : State) (k : Nat) (c : Core) : (setCore s k c).cycle = s.cycle := rfl
@[simp] theorem setCore_mem (s : State) (k : Nat) (c : Core) : (setCore s k c).mem = s.mem := rfl
@[simp] theorem setCore_poison (s : State) (k : Nat) (c : Core) : (setCore s k c).poison = s.poison := rfl
@[simp] theorem setCore_soft (s : State) (k : Nat) (c : Core) : (setCore s k c).soft = s.soft := rfl
@[simp] theorem setCore_clean (s : State) (k : Nat) (c : Core) : (setCore s k c).clean = s.clean := rfl
@[simp] theorem setCore_tlb (s : State) (k : Nat) (c : Core) : (setCore s k c).tlb = s.tlb := rfl
@[simp] theorem setCore_walks (s : State) (k : Nat) (c : Core) : (setCore s k c).walks = s.walks := rfl
@[simp] theorem setCore_ctxs (s : State) (k : Nat) (c : Core) : (setCore s k c).ctxs = s.ctxs := rfl
@[simp] theorem setCore_octs (s : State) (k : Nat) (c : Core) : (setCore s k c).octs = s.octs := rfl
@[simp] theorem setCore_clus (s : State) (k : Nat) (c : Core) : (setCore s k c).clus = s.clus := rfl
@[simp] theorem setCore_dies (s : State) (k : Nat) (c : Core) : (setCore s k c).dies = s.dies := rfl
@[simp] theorem setCore_launches (s : State) (k : Nat) (c : Core) : (setCore s k c).launches = s.launches := rfl
@[simp] theorem setCore_bars (s : State) (k : Nat) (c : Core) : (setCore s k c).bars = s.bars := rfl
@[simp] theorem setCore_regions (s : State) (k : Nat) (c : Core) : (setCore s k c).regions = s.regions := rfl
@[simp] theorem setCore_ports (s : State) (k : Nat) (c : Core) : (setCore s k c).ports = s.ports := rfl
@[simp] theorem setCore_flows (s : State) (k : Nat) (c : Core) : (setCore s k c).flows = s.flows := rfl
@[simp] theorem setCore_sent (s : State) (k : Nat) (c : Core) : (setCore s k c).sent = s.sent := rfl
@[simp] theorem setCore_arrived (s : State) (k : Nat) (c : Core) : (setCore s k c).arrived = s.arrived := rfl
@[simp] theorem setCore_fars (s : State) (k : Nat) (c : Core) : (setCore s k c).fars = s.fars := rfl
@[simp] theorem setCore_notices (s : State) (k : Nat) (c : Core) : (setCore s k c).notices = s.notices := rfl
@[simp] theorem setCore_xfers (s : State) (k : Nat) (c : Core) : (setCore s k c).xfers = s.xfers := rfl
@[simp] theorem setCore_grems (s : State) (k : Nat) (c : Core) : (setCore s k c).grems = s.grems := rfl
@[simp] theorem setCore_spk (s : State) (k : Nat) (c : Core) : (setCore s k c).spk = s.spk := rfl
@[simp] theorem setCore_steps (s : State) (k : Nat) (c : Core) : (setCore s k c).steps = s.steps := rfl
@[simp] theorem setCore_regs (s : State) (k : Nat) (c : Core) : (setCore s k c).regs = s.regs := rfl
@[simp] theorem setCore_jobs (s : State) (k : Nat) (c : Core) : (setCore s k c).jobs = s.jobs := rfl
@[simp] theorem setCore_dims (s : State) (k : Nat) (c : Core) : (setCore s k c).dims = s.dims := rfl
@[simp] theorem setCore_flash (s : State) (k : Nat) (c : Core) : (setCore s k c).flash = s.flash := rfl
@[simp] theorem setCore_recov (s : State) (k : Nat) (c : Core) : (setCore s k c).recov = s.recov := rfl
@[simp] theorem setCore_measured (s : State) (k : Nat) (c : Core) : (setCore s k c).measured = s.measured := rfl
@[simp] theorem setCore_irqs (s : State) (k : Nat) (c : Core) : (setCore s k c).irqs = s.irqs := rfl
@[simp] theorem setCore_outbox (s : State) (k : Nat) (c : Core) : (setCore s k c).outbox = s.outbox := rfl
@[simp] theorem setCore_saveArea (s : State) (k : Nat) (c : Core) : (setCore s k c).saveArea = s.saveArea := rfl
@[simp] theorem setCore_hwOld (s : State) (k : Nat) (c : Core) : (setCore s k c).hwOld = s.hwOld := rfl

/-! ## setOct -/

@[simp] theorem setOct_turn (s : State) (o : Nat) (c : Octet) : (setOct s o c).turn = s.turn := rfl
@[simp] theorem setOct_agenda (s : State) (o : Nat) (c : Octet) : (setOct s o c).agenda = s.agenda := rfl
@[simp] theorem setOct_nonce (s : State) (o : Nat) (c : Octet) : (setOct s o c).nonce = s.nonce := rfl
@[simp] theorem setOct_flip (s : State) (o : Nat) (c : Octet) : (setOct s o c).flip = s.flip := rfl
@[simp] theorem setOct_uid (s : State) (o : Nat) (c : Octet) : (setOct s o c).uid = s.uid := rfl
@[simp] theorem setOct_cycle (s : State) (o : Nat) (c : Octet) : (setOct s o c).cycle = s.cycle := rfl
@[simp] theorem setOct_mem (s : State) (o : Nat) (c : Octet) : (setOct s o c).mem = s.mem := rfl
@[simp] theorem setOct_poison (s : State) (o : Nat) (c : Octet) : (setOct s o c).poison = s.poison := rfl
@[simp] theorem setOct_soft (s : State) (o : Nat) (c : Octet) : (setOct s o c).soft = s.soft := rfl
@[simp] theorem setOct_clean (s : State) (o : Nat) (c : Octet) : (setOct s o c).clean = s.clean := rfl
@[simp] theorem setOct_tlb (s : State) (o : Nat) (c : Octet) : (setOct s o c).tlb = s.tlb := rfl
@[simp] theorem setOct_walks (s : State) (o : Nat) (c : Octet) : (setOct s o c).walks = s.walks := rfl
@[simp] theorem setOct_ctxs (s : State) (o : Nat) (c : Octet) : (setOct s o c).ctxs = s.ctxs := rfl
@[simp] theorem setOct_cores (s : State) (o : Nat) (c : Octet) : (setOct s o c).cores = s.cores := rfl
@[simp] theorem setOct_clus (s : State) (o : Nat) (c : Octet) : (setOct s o c).clus = s.clus := rfl
@[simp] theorem setOct_dies (s : State) (o : Nat) (c : Octet) : (setOct s o c).dies = s.dies := rfl
@[simp] theorem setOct_launches (s : State) (o : Nat) (c : Octet) : (setOct s o c).launches = s.launches := rfl
@[simp] theorem setOct_bars (s : State) (o : Nat) (c : Octet) : (setOct s o c).bars = s.bars := rfl
@[simp] theorem setOct_regions (s : State) (o : Nat) (c : Octet) : (setOct s o c).regions = s.regions := rfl
@[simp] theorem setOct_ports (s : State) (o : Nat) (c : Octet) : (setOct s o c).ports = s.ports := rfl
@[simp] theorem setOct_flows (s : State) (o : Nat) (c : Octet) : (setOct s o c).flows = s.flows := rfl
@[simp] theorem setOct_sent (s : State) (o : Nat) (c : Octet) : (setOct s o c).sent = s.sent := rfl
@[simp] theorem setOct_arrived (s : State) (o : Nat) (c : Octet) : (setOct s o c).arrived = s.arrived := rfl
@[simp] theorem setOct_fars (s : State) (o : Nat) (c : Octet) : (setOct s o c).fars = s.fars := rfl
@[simp] theorem setOct_notices (s : State) (o : Nat) (c : Octet) : (setOct s o c).notices = s.notices := rfl
@[simp] theorem setOct_xfers (s : State) (o : Nat) (c : Octet) : (setOct s o c).xfers = s.xfers := rfl
@[simp] theorem setOct_grems (s : State) (o : Nat) (c : Octet) : (setOct s o c).grems = s.grems := rfl
@[simp] theorem setOct_spk (s : State) (o : Nat) (c : Octet) : (setOct s o c).spk = s.spk := rfl
@[simp] theorem setOct_steps (s : State) (o : Nat) (c : Octet) : (setOct s o c).steps = s.steps := rfl
@[simp] theorem setOct_regs (s : State) (o : Nat) (c : Octet) : (setOct s o c).regs = s.regs := rfl
@[simp] theorem setOct_jobs (s : State) (o : Nat) (c : Octet) : (setOct s o c).jobs = s.jobs := rfl
@[simp] theorem setOct_dims (s : State) (o : Nat) (c : Octet) : (setOct s o c).dims = s.dims := rfl
@[simp] theorem setOct_flash (s : State) (o : Nat) (c : Octet) : (setOct s o c).flash = s.flash := rfl
@[simp] theorem setOct_recov (s : State) (o : Nat) (c : Octet) : (setOct s o c).recov = s.recov := rfl
@[simp] theorem setOct_measured (s : State) (o : Nat) (c : Octet) : (setOct s o c).measured = s.measured := rfl
@[simp] theorem setOct_irqs (s : State) (o : Nat) (c : Octet) : (setOct s o c).irqs = s.irqs := rfl
@[simp] theorem setOct_outbox (s : State) (o : Nat) (c : Octet) : (setOct s o c).outbox = s.outbox := rfl
@[simp] theorem setOct_saveArea (s : State) (o : Nat) (c : Octet) : (setOct s o c).saveArea = s.saveArea := rfl
@[simp] theorem setOct_hwOld (s : State) (o : Nat) (c : Octet) : (setOct s o c).hwOld = s.hwOld := rfl

/-! ## setClus -/

@[simp] theorem setClus_turn (s : State) (k : Nat) (c : Cluster) : (setClus s k c).turn = s.turn := rfl
@[simp] theorem setClus_agenda (s : State) (k : Nat) (c : Cluster) : (setClus s k c).agenda = s.agenda := rfl
@[simp] theorem setClus_nonce (s : State) (k : Nat) (c : Cluster) : (setClus s k c).nonce = s.nonce := rfl
@[simp] theorem setClus_flip (s : State) (k : Nat) (c : Cluster) : (setClus s k c).flip = s.flip := rfl
@[simp] theorem setClus_uid (s : State) (k : Nat) (c : Cluster) : (setClus s k c).uid = s.uid := rfl
@[simp] theorem setClus_cycle (s : State) (k : Nat) (c : Cluster) : (setClus s k c).cycle = s.cycle := rfl
@[simp] theorem setClus_mem (s : State) (k : Nat) (c : Cluster) : (setClus s k c).mem = s.mem := rfl
@[simp] theorem setClus_poison (s : State) (k : Nat) (c : Cluster) : (setClus s k c).poison = s.poison := rfl
@[simp] theorem setClus_soft (s : State) (k : Nat) (c : Cluster) : (setClus s k c).soft = s.soft := rfl
@[simp] theorem setClus_clean (s : State) (k : Nat) (c : Cluster) : (setClus s k c).clean = s.clean := rfl
@[simp] theorem setClus_tlb (s : State) (k : Nat) (c : Cluster) : (setClus s k c).tlb = s.tlb := rfl
@[simp] theorem setClus_walks (s : State) (k : Nat) (c : Cluster) : (setClus s k c).walks = s.walks := rfl
@[simp] theorem setClus_ctxs (s : State) (k : Nat) (c : Cluster) : (setClus s k c).ctxs = s.ctxs := rfl
@[simp] theorem setClus_cores (s : State) (k : Nat) (c : Cluster) : (setClus s k c).cores = s.cores := rfl
@[simp] theorem setClus_octs (s : State) (k : Nat) (c : Cluster) : (setClus s k c).octs = s.octs := rfl
@[simp] theorem setClus_dies (s : State) (k : Nat) (c : Cluster) : (setClus s k c).dies = s.dies := rfl
@[simp] theorem setClus_launches (s : State) (k : Nat) (c : Cluster) : (setClus s k c).launches = s.launches := rfl
@[simp] theorem setClus_bars (s : State) (k : Nat) (c : Cluster) : (setClus s k c).bars = s.bars := rfl
@[simp] theorem setClus_regions (s : State) (k : Nat) (c : Cluster) : (setClus s k c).regions = s.regions := rfl
@[simp] theorem setClus_ports (s : State) (k : Nat) (c : Cluster) : (setClus s k c).ports = s.ports := rfl
@[simp] theorem setClus_flows (s : State) (k : Nat) (c : Cluster) : (setClus s k c).flows = s.flows := rfl
@[simp] theorem setClus_sent (s : State) (k : Nat) (c : Cluster) : (setClus s k c).sent = s.sent := rfl
@[simp] theorem setClus_arrived (s : State) (k : Nat) (c : Cluster) : (setClus s k c).arrived = s.arrived := rfl
@[simp] theorem setClus_fars (s : State) (k : Nat) (c : Cluster) : (setClus s k c).fars = s.fars := rfl
@[simp] theorem setClus_notices (s : State) (k : Nat) (c : Cluster) : (setClus s k c).notices = s.notices := rfl
@[simp] theorem setClus_xfers (s : State) (k : Nat) (c : Cluster) : (setClus s k c).xfers = s.xfers := rfl
@[simp] theorem setClus_grems (s : State) (k : Nat) (c : Cluster) : (setClus s k c).grems = s.grems := rfl
@[simp] theorem setClus_spk (s : State) (k : Nat) (c : Cluster) : (setClus s k c).spk = s.spk := rfl
@[simp] theorem setClus_steps (s : State) (k : Nat) (c : Cluster) : (setClus s k c).steps = s.steps := rfl
@[simp] theorem setClus_regs (s : State) (k : Nat) (c : Cluster) : (setClus s k c).regs = s.regs := rfl
@[simp] theorem setClus_jobs (s : State) (k : Nat) (c : Cluster) : (setClus s k c).jobs = s.jobs := rfl
@[simp] theorem setClus_dims (s : State) (k : Nat) (c : Cluster) : (setClus s k c).dims = s.dims := rfl
@[simp] theorem setClus_flash (s : State) (k : Nat) (c : Cluster) : (setClus s k c).flash = s.flash := rfl
@[simp] theorem setClus_recov (s : State) (k : Nat) (c : Cluster) : (setClus s k c).recov = s.recov := rfl
@[simp] theorem setClus_measured (s : State) (k : Nat) (c : Cluster) : (setClus s k c).measured = s.measured := rfl
@[simp] theorem setClus_irqs (s : State) (k : Nat) (c : Cluster) : (setClus s k c).irqs = s.irqs := rfl
@[simp] theorem setClus_outbox (s : State) (k : Nat) (c : Cluster) : (setClus s k c).outbox = s.outbox := rfl
@[simp] theorem setClus_saveArea (s : State) (k : Nat) (c : Cluster) : (setClus s k c).saveArea = s.saveArea := rfl
@[simp] theorem setClus_hwOld (s : State) (k : Nat) (c : Cluster) : (setClus s k c).hwOld = s.hwOld := rfl

/-! ## setDie -/

@[simp] theorem setDie_turn (s : State) (d : Nat) (c : Die) : (setDie s d c).turn = s.turn := rfl
@[simp] theorem setDie_agenda (s : State) (d : Nat) (c : Die) : (setDie s d c).agenda = s.agenda := rfl
@[simp] theorem setDie_nonce (s : State) (d : Nat) (c : Die) : (setDie s d c).nonce = s.nonce := rfl
@[simp] theorem setDie_flip (s : State) (d : Nat) (c : Die) : (setDie s d c).flip = s.flip := rfl
@[simp] theorem setDie_uid (s : State) (d : Nat) (c : Die) : (setDie s d c).uid = s.uid := rfl
@[simp] theorem setDie_cycle (s : State) (d : Nat) (c : Die) : (setDie s d c).cycle = s.cycle := rfl
@[simp] theorem setDie_mem (s : State) (d : Nat) (c : Die) : (setDie s d c).mem = s.mem := rfl
@[simp] theorem setDie_poison (s : State) (d : Nat) (c : Die) : (setDie s d c).poison = s.poison := rfl
@[simp] theorem setDie_soft (s : State) (d : Nat) (c : Die) : (setDie s d c).soft = s.soft := rfl
@[simp] theorem setDie_clean (s : State) (d : Nat) (c : Die) : (setDie s d c).clean = s.clean := rfl
@[simp] theorem setDie_tlb (s : State) (d : Nat) (c : Die) : (setDie s d c).tlb = s.tlb := rfl
@[simp] theorem setDie_walks (s : State) (d : Nat) (c : Die) : (setDie s d c).walks = s.walks := rfl
@[simp] theorem setDie_ctxs (s : State) (d : Nat) (c : Die) : (setDie s d c).ctxs = s.ctxs := rfl
@[simp] theorem setDie_cores (s : State) (d : Nat) (c : Die) : (setDie s d c).cores = s.cores := rfl
@[simp] theorem setDie_octs (s : State) (d : Nat) (c : Die) : (setDie s d c).octs = s.octs := rfl
@[simp] theorem setDie_clus (s : State) (d : Nat) (c : Die) : (setDie s d c).clus = s.clus := rfl
@[simp] theorem setDie_launches (s : State) (d : Nat) (c : Die) : (setDie s d c).launches = s.launches := rfl
@[simp] theorem setDie_bars (s : State) (d : Nat) (c : Die) : (setDie s d c).bars = s.bars := rfl
@[simp] theorem setDie_regions (s : State) (d : Nat) (c : Die) : (setDie s d c).regions = s.regions := rfl
@[simp] theorem setDie_ports (s : State) (d : Nat) (c : Die) : (setDie s d c).ports = s.ports := rfl
@[simp] theorem setDie_flows (s : State) (d : Nat) (c : Die) : (setDie s d c).flows = s.flows := rfl
@[simp] theorem setDie_sent (s : State) (d : Nat) (c : Die) : (setDie s d c).sent = s.sent := rfl
@[simp] theorem setDie_arrived (s : State) (d : Nat) (c : Die) : (setDie s d c).arrived = s.arrived := rfl
@[simp] theorem setDie_fars (s : State) (d : Nat) (c : Die) : (setDie s d c).fars = s.fars := rfl
@[simp] theorem setDie_notices (s : State) (d : Nat) (c : Die) : (setDie s d c).notices = s.notices := rfl
@[simp] theorem setDie_xfers (s : State) (d : Nat) (c : Die) : (setDie s d c).xfers = s.xfers := rfl
@[simp] theorem setDie_grems (s : State) (d : Nat) (c : Die) : (setDie s d c).grems = s.grems := rfl
@[simp] theorem setDie_spk (s : State) (d : Nat) (c : Die) : (setDie s d c).spk = s.spk := rfl
@[simp] theorem setDie_steps (s : State) (d : Nat) (c : Die) : (setDie s d c).steps = s.steps := rfl
@[simp] theorem setDie_regs (s : State) (d : Nat) (c : Die) : (setDie s d c).regs = s.regs := rfl
@[simp] theorem setDie_jobs (s : State) (d : Nat) (c : Die) : (setDie s d c).jobs = s.jobs := rfl
@[simp] theorem setDie_dims (s : State) (d : Nat) (c : Die) : (setDie s d c).dims = s.dims := rfl
@[simp] theorem setDie_flash (s : State) (d : Nat) (c : Die) : (setDie s d c).flash = s.flash := rfl
@[simp] theorem setDie_recov (s : State) (d : Nat) (c : Die) : (setDie s d c).recov = s.recov := rfl
@[simp] theorem setDie_measured (s : State) (d : Nat) (c : Die) : (setDie s d c).measured = s.measured := rfl
@[simp] theorem setDie_irqs (s : State) (d : Nat) (c : Die) : (setDie s d c).irqs = s.irqs := rfl
@[simp] theorem setDie_outbox (s : State) (d : Nat) (c : Die) : (setDie s d c).outbox = s.outbox := rfl
@[simp] theorem setDie_saveArea (s : State) (d : Nat) (c : Die) : (setDie s d c).saveArea = s.saveArea := rfl
@[simp] theorem setDie_hwOld (s : State) (d : Nat) (c : Die) : (setDie s d c).hwOld = s.hwOld := rfl

/-! ## setLaunch -/

@[simp] theorem setLaunch_turn (s : State) (l : Nat) (c : Launch) : (setLaunch s l c).turn = s.turn := rfl
@[simp] theorem setLaunch_agenda (s : State) (l : Nat) (c : Launch) : (setLaunch s l c).agenda = s.agenda := rfl
@[simp] theorem setLaunch_nonce (s : State) (l : Nat) (c : Launch) : (setLaunch s l c).nonce = s.nonce := rfl
@[simp] theorem setLaunch_flip (s : State) (l : Nat) (c : Launch) : (setLaunch s l c).flip = s.flip := rfl
@[simp] theorem setLaunch_uid (s : State) (l : Nat) (c : Launch) : (setLaunch s l c).uid = s.uid := rfl
@[simp] theorem setLaunch_cycle (s : State) (l : Nat) (c : Launch) : (setLaunch s l c).cycle = s.cycle := rfl
@[simp] theorem setLaunch_mem (s : State) (l : Nat) (c : Launch) : (setLaunch s l c).mem = s.mem := rfl
@[simp] theorem setLaunch_poison (s : State) (l : Nat) (c : Launch) : (setLaunch s l c).poison = s.poison := rfl
@[simp] theorem setLaunch_soft (s : State) (l : Nat) (c : Launch) : (setLaunch s l c).soft = s.soft := rfl
@[simp] theorem setLaunch_clean (s : State) (l : Nat) (c : Launch) : (setLaunch s l c).clean = s.clean := rfl
@[simp] theorem setLaunch_tlb (s : State) (l : Nat) (c : Launch) : (setLaunch s l c).tlb = s.tlb := rfl
@[simp] theorem setLaunch_walks (s : State) (l : Nat) (c : Launch) : (setLaunch s l c).walks = s.walks := rfl
@[simp] theorem setLaunch_ctxs (s : State) (l : Nat) (c : Launch) : (setLaunch s l c).ctxs = s.ctxs := rfl
@[simp] theorem setLaunch_cores (s : State) (l : Nat) (c : Launch) : (setLaunch s l c).cores = s.cores := rfl
@[simp] theorem setLaunch_octs (s : State) (l : Nat) (c : Launch) : (setLaunch s l c).octs = s.octs := rfl
@[simp] theorem setLaunch_clus (s : State) (l : Nat) (c : Launch) : (setLaunch s l c).clus = s.clus := rfl
@[simp] theorem setLaunch_dies (s : State) (l : Nat) (c : Launch) : (setLaunch s l c).dies = s.dies := rfl
@[simp] theorem setLaunch_bars (s : State) (l : Nat) (c : Launch) : (setLaunch s l c).bars = s.bars := rfl
@[simp] theorem setLaunch_regions (s : State) (l : Nat) (c : Launch) : (setLaunch s l c).regions = s.regions := rfl
@[simp] theorem setLaunch_ports (s : State) (l : Nat) (c : Launch) : (setLaunch s l c).ports = s.ports := rfl
@[simp] theorem setLaunch_flows (s : State) (l : Nat) (c : Launch) : (setLaunch s l c).flows = s.flows := rfl
@[simp] theorem setLaunch_sent (s : State) (l : Nat) (c : Launch) : (setLaunch s l c).sent = s.sent := rfl
@[simp] theorem setLaunch_arrived (s : State) (l : Nat) (c : Launch) : (setLaunch s l c).arrived = s.arrived := rfl
@[simp] theorem setLaunch_fars (s : State) (l : Nat) (c : Launch) : (setLaunch s l c).fars = s.fars := rfl
@[simp] theorem setLaunch_notices (s : State) (l : Nat) (c : Launch) : (setLaunch s l c).notices = s.notices := rfl
@[simp] theorem setLaunch_xfers (s : State) (l : Nat) (c : Launch) : (setLaunch s l c).xfers = s.xfers := rfl
@[simp] theorem setLaunch_grems (s : State) (l : Nat) (c : Launch) : (setLaunch s l c).grems = s.grems := rfl
@[simp] theorem setLaunch_spk (s : State) (l : Nat) (c : Launch) : (setLaunch s l c).spk = s.spk := rfl
@[simp] theorem setLaunch_steps (s : State) (l : Nat) (c : Launch) : (setLaunch s l c).steps = s.steps := rfl
@[simp] theorem setLaunch_regs (s : State) (l : Nat) (c : Launch) : (setLaunch s l c).regs = s.regs := rfl
@[simp] theorem setLaunch_jobs (s : State) (l : Nat) (c : Launch) : (setLaunch s l c).jobs = s.jobs := rfl
@[simp] theorem setLaunch_dims (s : State) (l : Nat) (c : Launch) : (setLaunch s l c).dims = s.dims := rfl
@[simp] theorem setLaunch_flash (s : State) (l : Nat) (c : Launch) : (setLaunch s l c).flash = s.flash := rfl
@[simp] theorem setLaunch_recov (s : State) (l : Nat) (c : Launch) : (setLaunch s l c).recov = s.recov := rfl
@[simp] theorem setLaunch_measured (s : State) (l : Nat) (c : Launch) : (setLaunch s l c).measured = s.measured := rfl
@[simp] theorem setLaunch_irqs (s : State) (l : Nat) (c : Launch) : (setLaunch s l c).irqs = s.irqs := rfl
@[simp] theorem setLaunch_outbox (s : State) (l : Nat) (c : Launch) : (setLaunch s l c).outbox = s.outbox := rfl
@[simp] theorem setLaunch_saveArea (s : State) (l : Nat) (c : Launch) : (setLaunch s l c).saveArea = s.saveArea := rfl
@[simp] theorem setLaunch_hwOld (s : State) (l : Nat) (c : Launch) : (setLaunch s l c).hwOld = s.hwOld := rfl

/-! ## setBar -/

@[simp] theorem setBar_turn (s : State) (o : Nat) (w : Word) : (setBar s o w).turn = s.turn := rfl
@[simp] theorem setBar_agenda (s : State) (o : Nat) (w : Word) : (setBar s o w).agenda = s.agenda := rfl
@[simp] theorem setBar_nonce (s : State) (o : Nat) (w : Word) : (setBar s o w).nonce = s.nonce := rfl
@[simp] theorem setBar_flip (s : State) (o : Nat) (w : Word) : (setBar s o w).flip = s.flip := rfl
@[simp] theorem setBar_uid (s : State) (o : Nat) (w : Word) : (setBar s o w).uid = s.uid := rfl
@[simp] theorem setBar_cycle (s : State) (o : Nat) (w : Word) : (setBar s o w).cycle = s.cycle := rfl
@[simp] theorem setBar_mem (s : State) (o : Nat) (w : Word) : (setBar s o w).mem = s.mem := rfl
@[simp] theorem setBar_poison (s : State) (o : Nat) (w : Word) : (setBar s o w).poison = s.poison := rfl
@[simp] theorem setBar_soft (s : State) (o : Nat) (w : Word) : (setBar s o w).soft = s.soft := rfl
@[simp] theorem setBar_clean (s : State) (o : Nat) (w : Word) : (setBar s o w).clean = s.clean := rfl
@[simp] theorem setBar_tlb (s : State) (o : Nat) (w : Word) : (setBar s o w).tlb = s.tlb := rfl
@[simp] theorem setBar_walks (s : State) (o : Nat) (w : Word) : (setBar s o w).walks = s.walks := rfl
@[simp] theorem setBar_ctxs (s : State) (o : Nat) (w : Word) : (setBar s o w).ctxs = s.ctxs := rfl
@[simp] theorem setBar_cores (s : State) (o : Nat) (w : Word) : (setBar s o w).cores = s.cores := rfl
@[simp] theorem setBar_octs (s : State) (o : Nat) (w : Word) : (setBar s o w).octs = s.octs := rfl
@[simp] theorem setBar_clus (s : State) (o : Nat) (w : Word) : (setBar s o w).clus = s.clus := rfl
@[simp] theorem setBar_dies (s : State) (o : Nat) (w : Word) : (setBar s o w).dies = s.dies := rfl
@[simp] theorem setBar_launches (s : State) (o : Nat) (w : Word) : (setBar s o w).launches = s.launches := rfl
@[simp] theorem setBar_bars (s : State) (o : Nat) (w : Word) : (setBar s o w).bars = s.bars := rfl
@[simp] theorem setBar_regions (s : State) (o : Nat) (w : Word) : (setBar s o w).regions = s.regions := rfl
@[simp] theorem setBar_ports (s : State) (o : Nat) (w : Word) : (setBar s o w).ports = s.ports := rfl
@[simp] theorem setBar_flows (s : State) (o : Nat) (w : Word) : (setBar s o w).flows = s.flows := rfl
@[simp] theorem setBar_sent (s : State) (o : Nat) (w : Word) : (setBar s o w).sent = s.sent := rfl
@[simp] theorem setBar_arrived (s : State) (o : Nat) (w : Word) : (setBar s o w).arrived = s.arrived := rfl
@[simp] theorem setBar_fars (s : State) (o : Nat) (w : Word) : (setBar s o w).fars = s.fars := rfl
@[simp] theorem setBar_notices (s : State) (o : Nat) (w : Word) : (setBar s o w).notices = s.notices := rfl
@[simp] theorem setBar_xfers (s : State) (o : Nat) (w : Word) : (setBar s o w).xfers = s.xfers := rfl
@[simp] theorem setBar_grems (s : State) (o : Nat) (w : Word) : (setBar s o w).grems = s.grems := rfl
@[simp] theorem setBar_spk (s : State) (o : Nat) (w : Word) : (setBar s o w).spk = s.spk := rfl
@[simp] theorem setBar_steps (s : State) (o : Nat) (w : Word) : (setBar s o w).steps = s.steps := rfl
@[simp] theorem setBar_jobs (s : State) (o : Nat) (w : Word) : (setBar s o w).jobs = s.jobs := rfl
@[simp] theorem setBar_dims (s : State) (o : Nat) (w : Word) : (setBar s o w).dims = s.dims := rfl
@[simp] theorem setBar_flash (s : State) (o : Nat) (w : Word) : (setBar s o w).flash = s.flash := rfl
@[simp] theorem setBar_recov (s : State) (o : Nat) (w : Word) : (setBar s o w).recov = s.recov := rfl
@[simp] theorem setBar_measured (s : State) (o : Nat) (w : Word) : (setBar s o w).measured = s.measured := rfl
@[simp] theorem setBar_irqs (s : State) (o : Nat) (w : Word) : (setBar s o w).irqs = s.irqs := rfl
@[simp] theorem setBar_outbox (s : State) (o : Nat) (w : Word) : (setBar s o w).outbox = s.outbox := rfl
@[simp] theorem setBar_saveArea (s : State) (o : Nat) (w : Word) : (setBar s o w).saveArea = s.saveArea := rfl
@[simp] theorem setBar_hwOld (s : State) (o : Nat) (w : Word) : (setBar s o w).hwOld = s.hwOld := rfl

/-! ## setFlow -/

@[simp] theorem setFlow_turn (s : State) (f : Flow) : (setFlow s f).turn = s.turn := rfl
@[simp] theorem setFlow_agenda (s : State) (f : Flow) : (setFlow s f).agenda = s.agenda := rfl
@[simp] theorem setFlow_nonce (s : State) (f : Flow) : (setFlow s f).nonce = s.nonce := rfl
@[simp] theorem setFlow_flip (s : State) (f : Flow) : (setFlow s f).flip = s.flip := rfl
@[simp] theorem setFlow_uid (s : State) (f : Flow) : (setFlow s f).uid = s.uid := rfl
@[simp] theorem setFlow_cycle (s : State) (f : Flow) : (setFlow s f).cycle = s.cycle := rfl
@[simp] theorem setFlow_mem (s : State) (f : Flow) : (setFlow s f).mem = s.mem := rfl
@[simp] theorem setFlow_poison (s : State) (f : Flow) : (setFlow s f).poison = s.poison := rfl
@[simp] theorem setFlow_soft (s : State) (f : Flow) : (setFlow s f).soft = s.soft := rfl
@[simp] theorem setFlow_clean (s : State) (f : Flow) : (setFlow s f).clean = s.clean := rfl
@[simp] theorem setFlow_tlb (s : State) (f : Flow) : (setFlow s f).tlb = s.tlb := rfl
@[simp] theorem setFlow_walks (s : State) (f : Flow) : (setFlow s f).walks = s.walks := rfl
@[simp] theorem setFlow_ctxs (s : State) (f : Flow) : (setFlow s f).ctxs = s.ctxs := rfl
@[simp] theorem setFlow_cores (s : State) (f : Flow) : (setFlow s f).cores = s.cores := rfl
@[simp] theorem setFlow_octs (s : State) (f : Flow) : (setFlow s f).octs = s.octs := rfl
@[simp] theorem setFlow_clus (s : State) (f : Flow) : (setFlow s f).clus = s.clus := rfl
@[simp] theorem setFlow_dies (s : State) (f : Flow) : (setFlow s f).dies = s.dies := rfl
@[simp] theorem setFlow_launches (s : State) (f : Flow) : (setFlow s f).launches = s.launches := rfl
@[simp] theorem setFlow_bars (s : State) (f : Flow) : (setFlow s f).bars = s.bars := rfl
@[simp] theorem setFlow_regions (s : State) (f : Flow) : (setFlow s f).regions = s.regions := rfl
@[simp] theorem setFlow_ports (s : State) (f : Flow) : (setFlow s f).ports = s.ports := rfl
@[simp] theorem setFlow_sent (s : State) (f : Flow) : (setFlow s f).sent = s.sent := rfl
@[simp] theorem setFlow_arrived (s : State) (f : Flow) : (setFlow s f).arrived = s.arrived := rfl
@[simp] theorem setFlow_fars (s : State) (f : Flow) : (setFlow s f).fars = s.fars := rfl
@[simp] theorem setFlow_notices (s : State) (f : Flow) : (setFlow s f).notices = s.notices := rfl
@[simp] theorem setFlow_xfers (s : State) (f : Flow) : (setFlow s f).xfers = s.xfers := rfl
@[simp] theorem setFlow_grems (s : State) (f : Flow) : (setFlow s f).grems = s.grems := rfl
@[simp] theorem setFlow_spk (s : State) (f : Flow) : (setFlow s f).spk = s.spk := rfl
@[simp] theorem setFlow_steps (s : State) (f : Flow) : (setFlow s f).steps = s.steps := rfl
@[simp] theorem setFlow_regs (s : State) (f : Flow) : (setFlow s f).regs = s.regs := rfl
@[simp] theorem setFlow_jobs (s : State) (f : Flow) : (setFlow s f).jobs = s.jobs := rfl
@[simp] theorem setFlow_dims (s : State) (f : Flow) : (setFlow s f).dims = s.dims := rfl
@[simp] theorem setFlow_flash (s : State) (f : Flow) : (setFlow s f).flash = s.flash := rfl
@[simp] theorem setFlow_recov (s : State) (f : Flow) : (setFlow s f).recov = s.recov := rfl
@[simp] theorem setFlow_measured (s : State) (f : Flow) : (setFlow s f).measured = s.measured := rfl
@[simp] theorem setFlow_irqs (s : State) (f : Flow) : (setFlow s f).irqs = s.irqs := rfl
@[simp] theorem setFlow_outbox (s : State) (f : Flow) : (setFlow s f).outbox = s.outbox := rfl
@[simp] theorem setFlow_saveArea (s : State) (f : Flow) : (setFlow s f).saveArea = s.saveArea := rfl
@[simp] theorem setFlow_hwOld (s : State) (f : Flow) : (setFlow s f).hwOld = s.hwOld := rfl

/-! ## setPort -/

@[simp] theorem setPort_turn (s : State) (i : Nat) (p : Port) : (setPort s i p).turn = s.turn := rfl
@[simp] theorem setPort_agenda (s : State) (i : Nat) (p : Port) : (setPort s i p).agenda = s.agenda := rfl
@[simp] theorem setPort_nonce (s : State) (i : Nat) (p : Port) : (setPort s i p).nonce = s.nonce := rfl
@[simp] theorem setPort_flip (s : State) (i : Nat) (p : Port) : (setPort s i p).flip = s.flip := rfl
@[simp] theorem setPort_uid (s : State) (i : Nat) (p : Port) : (setPort s i p).uid = s.uid := rfl
@[simp] theorem setPort_cycle (s : State) (i : Nat) (p : Port) : (setPort s i p).cycle = s.cycle := rfl
@[simp] theorem setPort_mem (s : State) (i : Nat) (p : Port) : (setPort s i p).mem = s.mem := rfl
@[simp] theorem setPort_poison (s : State) (i : Nat) (p : Port) : (setPort s i p).poison = s.poison := rfl
@[simp] theorem setPort_soft (s : State) (i : Nat) (p : Port) : (setPort s i p).soft = s.soft := rfl
@[simp] theorem setPort_clean (s : State) (i : Nat) (p : Port) : (setPort s i p).clean = s.clean := rfl
@[simp] theorem setPort_tlb (s : State) (i : Nat) (p : Port) : (setPort s i p).tlb = s.tlb := rfl
@[simp] theorem setPort_walks (s : State) (i : Nat) (p : Port) : (setPort s i p).walks = s.walks := rfl
@[simp] theorem setPort_ctxs (s : State) (i : Nat) (p : Port) : (setPort s i p).ctxs = s.ctxs := rfl
@[simp] theorem setPort_cores (s : State) (i : Nat) (p : Port) : (setPort s i p).cores = s.cores := rfl
@[simp] theorem setPort_octs (s : State) (i : Nat) (p : Port) : (setPort s i p).octs = s.octs := rfl
@[simp] theorem setPort_clus (s : State) (i : Nat) (p : Port) : (setPort s i p).clus = s.clus := rfl
@[simp] theorem setPort_dies (s : State) (i : Nat) (p : Port) : (setPort s i p).dies = s.dies := rfl
@[simp] theorem setPort_launches (s : State) (i : Nat) (p : Port) : (setPort s i p).launches = s.launches := rfl
@[simp] theorem setPort_bars (s : State) (i : Nat) (p : Port) : (setPort s i p).bars = s.bars := rfl
@[simp] theorem setPort_regions (s : State) (i : Nat) (p : Port) : (setPort s i p).regions = s.regions := rfl
@[simp] theorem setPort_flows (s : State) (i : Nat) (p : Port) : (setPort s i p).flows = s.flows := rfl
@[simp] theorem setPort_sent (s : State) (i : Nat) (p : Port) : (setPort s i p).sent = s.sent := rfl
@[simp] theorem setPort_arrived (s : State) (i : Nat) (p : Port) : (setPort s i p).arrived = s.arrived := rfl
@[simp] theorem setPort_fars (s : State) (i : Nat) (p : Port) : (setPort s i p).fars = s.fars := rfl
@[simp] theorem setPort_notices (s : State) (i : Nat) (p : Port) : (setPort s i p).notices = s.notices := rfl
@[simp] theorem setPort_xfers (s : State) (i : Nat) (p : Port) : (setPort s i p).xfers = s.xfers := rfl
@[simp] theorem setPort_grems (s : State) (i : Nat) (p : Port) : (setPort s i p).grems = s.grems := rfl
@[simp] theorem setPort_spk (s : State) (i : Nat) (p : Port) : (setPort s i p).spk = s.spk := rfl
@[simp] theorem setPort_steps (s : State) (i : Nat) (p : Port) : (setPort s i p).steps = s.steps := rfl
@[simp] theorem setPort_regs (s : State) (i : Nat) (p : Port) : (setPort s i p).regs = s.regs := rfl
@[simp] theorem setPort_jobs (s : State) (i : Nat) (p : Port) : (setPort s i p).jobs = s.jobs := rfl
@[simp] theorem setPort_dims (s : State) (i : Nat) (p : Port) : (setPort s i p).dims = s.dims := rfl
@[simp] theorem setPort_flash (s : State) (i : Nat) (p : Port) : (setPort s i p).flash = s.flash := rfl
@[simp] theorem setPort_recov (s : State) (i : Nat) (p : Port) : (setPort s i p).recov = s.recov := rfl
@[simp] theorem setPort_measured (s : State) (i : Nat) (p : Port) : (setPort s i p).measured = s.measured := rfl
@[simp] theorem setPort_irqs (s : State) (i : Nat) (p : Port) : (setPort s i p).irqs = s.irqs := rfl
@[simp] theorem setPort_outbox (s : State) (i : Nat) (p : Port) : (setPort s i p).outbox = s.outbox := rfl
@[simp] theorem setPort_saveArea (s : State) (i : Nat) (p : Port) : (setPort s i p).saveArea = s.saveArea := rfl
@[simp] theorem setPort_hwOld (s : State) (i : Nat) (p : Port) : (setPort s i p).hwOld = s.hwOld := rfl

/-! ## setCur -/

@[simp] theorem setCur_turn (s : State) (c : Ctx) : (setCur s c).turn = s.turn := rfl
@[simp] theorem setCur_agenda (s : State) (c : Ctx) : (setCur s c).agenda = s.agenda := rfl
@[simp] theorem setCur_nonce (s : State) (c : Ctx) : (setCur s c).nonce = s.nonce := rfl
@[simp] theorem setCur_flip (s : State) (c : Ctx) : (setCur s c).flip = s.flip := rfl
@[simp] theorem setCur_uid (s : State) (c : Ctx) : (setCur s c).uid = s.uid := rfl
@[simp] theorem setCur_cycle (s : State) (c : Ctx) : (setCur s c).cycle = s.cycle := rfl
@[simp] theorem setCur_mem (s : State) (c : Ctx) : (setCur s c).mem = s.mem := rfl
@[simp] theorem setCur_poison (s : State) (c : Ctx) : (setCur s c).poison = s.poison := rfl
@[simp] theorem setCur_soft (s : State) (c : Ctx) : (setCur s c).soft = s.soft := rfl
@[simp] theorem setCur_clean (s : State) (c : Ctx) : (setCur s c).clean = s.clean := rfl
@[simp] theorem setCur_tlb (s : State) (c : Ctx) : (setCur s c).tlb = s.tlb := rfl
@[simp] theorem setCur_walks (s : State) (c : Ctx) : (setCur s c).walks = s.walks := rfl
@[simp] theorem setCur_cores (s : State) (c : Ctx) : (setCur s c).cores = s.cores := rfl
@[simp] theorem setCur_octs (s : State) (c : Ctx) : (setCur s c).octs = s.octs := rfl
@[simp] theorem setCur_clus (s : State) (c : Ctx) : (setCur s c).clus = s.clus := rfl
@[simp] theorem setCur_dies (s : State) (c : Ctx) : (setCur s c).dies = s.dies := rfl
@[simp] theorem setCur_launches (s : State) (c : Ctx) : (setCur s c).launches = s.launches := rfl
@[simp] theorem setCur_bars (s : State) (c : Ctx) : (setCur s c).bars = s.bars := rfl
@[simp] theorem setCur_regions (s : State) (c : Ctx) : (setCur s c).regions = s.regions := rfl
@[simp] theorem setCur_ports (s : State) (c : Ctx) : (setCur s c).ports = s.ports := rfl
@[simp] theorem setCur_flows (s : State) (c : Ctx) : (setCur s c).flows = s.flows := rfl
@[simp] theorem setCur_sent (s : State) (c : Ctx) : (setCur s c).sent = s.sent := rfl
@[simp] theorem setCur_arrived (s : State) (c : Ctx) : (setCur s c).arrived = s.arrived := rfl
@[simp] theorem setCur_fars (s : State) (c : Ctx) : (setCur s c).fars = s.fars := rfl
@[simp] theorem setCur_notices (s : State) (c : Ctx) : (setCur s c).notices = s.notices := rfl
@[simp] theorem setCur_xfers (s : State) (c : Ctx) : (setCur s c).xfers = s.xfers := rfl
@[simp] theorem setCur_grems (s : State) (c : Ctx) : (setCur s c).grems = s.grems := rfl
@[simp] theorem setCur_spk (s : State) (c : Ctx) : (setCur s c).spk = s.spk := rfl
@[simp] theorem setCur_steps (s : State) (c : Ctx) : (setCur s c).steps = s.steps := rfl
@[simp] theorem setCur_regs (s : State) (c : Ctx) : (setCur s c).regs = s.regs := rfl
@[simp] theorem setCur_jobs (s : State) (c : Ctx) : (setCur s c).jobs = s.jobs := rfl
@[simp] theorem setCur_dims (s : State) (c : Ctx) : (setCur s c).dims = s.dims := rfl
@[simp] theorem setCur_flash (s : State) (c : Ctx) : (setCur s c).flash = s.flash := rfl
@[simp] theorem setCur_recov (s : State) (c : Ctx) : (setCur s c).recov = s.recov := rfl
@[simp] theorem setCur_measured (s : State) (c : Ctx) : (setCur s c).measured = s.measured := rfl
@[simp] theorem setCur_irqs (s : State) (c : Ctx) : (setCur s c).irqs = s.irqs := rfl
@[simp] theorem setCur_outbox (s : State) (c : Ctx) : (setCur s c).outbox = s.outbox := rfl
@[simp] theorem setCur_saveArea (s : State) (c : Ctx) : (setCur s c).saveArea = s.saveArea := rfl
@[simp] theorem setCur_hwOld (s : State) (c : Ctx) : (setCur s c).hwOld = s.hwOld := rfl

/-! ## tick -/

@[simp] theorem tick_turn (s : State) : (tick s).turn = s.turn := rfl
@[simp] theorem tick_agenda (s : State) : (tick s).agenda = s.agenda := rfl
@[simp] theorem tick_flip (s : State) : (tick s).flip = s.flip := rfl
@[simp] theorem tick_uid (s : State) : (tick s).uid = s.uid := rfl
@[simp] theorem tick_mem (s : State) : (tick s).mem = s.mem := rfl
@[simp] theorem tick_poison (s : State) : (tick s).poison = s.poison := rfl
@[simp] theorem tick_soft (s : State) : (tick s).soft = s.soft := rfl
@[simp] theorem tick_clean (s : State) : (tick s).clean = s.clean := rfl
@[simp] theorem tick_tlb (s : State) : (tick s).tlb = s.tlb := rfl
@[simp] theorem tick_walks (s : State) : (tick s).walks = s.walks := rfl
@[simp] theorem tick_ctxs (s : State) : (tick s).ctxs = s.ctxs := rfl
@[simp] theorem tick_cores (s : State) : (tick s).cores = s.cores := rfl
@[simp] theorem tick_octs (s : State) : (tick s).octs = s.octs := rfl
@[simp] theorem tick_clus (s : State) : (tick s).clus = s.clus := rfl
@[simp] theorem tick_dies (s : State) : (tick s).dies = s.dies := rfl
@[simp] theorem tick_launches (s : State) : (tick s).launches = s.launches := rfl
@[simp] theorem tick_bars (s : State) : (tick s).bars = s.bars := rfl
@[simp] theorem tick_regions (s : State) : (tick s).regions = s.regions := rfl
@[simp] theorem tick_ports (s : State) : (tick s).ports = s.ports := rfl
@[simp] theorem tick_flows (s : State) : (tick s).flows = s.flows := rfl
@[simp] theorem tick_sent (s : State) : (tick s).sent = s.sent := rfl
@[simp] theorem tick_arrived (s : State) : (tick s).arrived = s.arrived := rfl
@[simp] theorem tick_fars (s : State) : (tick s).fars = s.fars := rfl
@[simp] theorem tick_notices (s : State) : (tick s).notices = s.notices := rfl
@[simp] theorem tick_xfers (s : State) : (tick s).xfers = s.xfers := rfl
@[simp] theorem tick_grems (s : State) : (tick s).grems = s.grems := rfl
@[simp] theorem tick_spk (s : State) : (tick s).spk = s.spk := rfl
@[simp] theorem tick_steps (s : State) : (tick s).steps = s.steps := rfl
@[simp] theorem tick_regs (s : State) : (tick s).regs = s.regs := rfl
@[simp] theorem tick_jobs (s : State) : (tick s).jobs = s.jobs := rfl
@[simp] theorem tick_dims (s : State) : (tick s).dims = s.dims := rfl
@[simp] theorem tick_flash (s : State) : (tick s).flash = s.flash := rfl
@[simp] theorem tick_recov (s : State) : (tick s).recov = s.recov := rfl
@[simp] theorem tick_measured (s : State) : (tick s).measured = s.measured := rfl
@[simp] theorem tick_irqs (s : State) : (tick s).irqs = s.irqs := rfl
@[simp] theorem tick_outbox (s : State) : (tick s).outbox = s.outbox := rfl
@[simp] theorem tick_saveArea (s : State) : (tick s).saveArea = s.saveArea := rfl
@[simp] theorem tick_hwOld (s : State) : (tick s).hwOld = s.hwOld := rfl

/-! ## putCells -/

@[simp] theorem putCells_turn (s : State) (l : List (Nat × Byte)) : (putCells s l).turn = s.turn := rfl
@[simp] theorem putCells_agenda (s : State) (l : List (Nat × Byte)) : (putCells s l).agenda = s.agenda := rfl
@[simp] theorem putCells_nonce (s : State) (l : List (Nat × Byte)) : (putCells s l).nonce = s.nonce := rfl
@[simp] theorem putCells_flip (s : State) (l : List (Nat × Byte)) : (putCells s l).flip = s.flip := rfl
@[simp] theorem putCells_uid (s : State) (l : List (Nat × Byte)) : (putCells s l).uid = s.uid := rfl
@[simp] theorem putCells_cycle (s : State) (l : List (Nat × Byte)) : (putCells s l).cycle = s.cycle := rfl
@[simp] theorem putCells_tlb (s : State) (l : List (Nat × Byte)) : (putCells s l).tlb = s.tlb := rfl
@[simp] theorem putCells_walks (s : State) (l : List (Nat × Byte)) : (putCells s l).walks = s.walks := rfl
@[simp] theorem putCells_ctxs (s : State) (l : List (Nat × Byte)) : (putCells s l).ctxs = s.ctxs := rfl
@[simp] theorem putCells_cores (s : State) (l : List (Nat × Byte)) : (putCells s l).cores = s.cores := rfl
@[simp] theorem putCells_octs (s : State) (l : List (Nat × Byte)) : (putCells s l).octs = s.octs := rfl
@[simp] theorem putCells_clus (s : State) (l : List (Nat × Byte)) : (putCells s l).clus = s.clus := rfl
@[simp] theorem putCells_dies (s : State) (l : List (Nat × Byte)) : (putCells s l).dies = s.dies := rfl
@[simp] theorem putCells_launches (s : State) (l : List (Nat × Byte)) : (putCells s l).launches = s.launches := rfl
@[simp] theorem putCells_bars (s : State) (l : List (Nat × Byte)) : (putCells s l).bars = s.bars := rfl
@[simp] theorem putCells_regions (s : State) (l : List (Nat × Byte)) : (putCells s l).regions = s.regions := rfl
@[simp] theorem putCells_ports (s : State) (l : List (Nat × Byte)) : (putCells s l).ports = s.ports := rfl
@[simp] theorem putCells_flows (s : State) (l : List (Nat × Byte)) : (putCells s l).flows = s.flows := rfl
@[simp] theorem putCells_sent (s : State) (l : List (Nat × Byte)) : (putCells s l).sent = s.sent := rfl
@[simp] theorem putCells_arrived (s : State) (l : List (Nat × Byte)) : (putCells s l).arrived = s.arrived := rfl
@[simp] theorem putCells_fars (s : State) (l : List (Nat × Byte)) : (putCells s l).fars = s.fars := rfl
@[simp] theorem putCells_notices (s : State) (l : List (Nat × Byte)) : (putCells s l).notices = s.notices := rfl
@[simp] theorem putCells_xfers (s : State) (l : List (Nat × Byte)) : (putCells s l).xfers = s.xfers := rfl
@[simp] theorem putCells_grems (s : State) (l : List (Nat × Byte)) : (putCells s l).grems = s.grems := rfl
@[simp] theorem putCells_spk (s : State) (l : List (Nat × Byte)) : (putCells s l).spk = s.spk := rfl
@[simp] theorem putCells_steps (s : State) (l : List (Nat × Byte)) : (putCells s l).steps = s.steps := rfl
@[simp] theorem putCells_regs (s : State) (l : List (Nat × Byte)) : (putCells s l).regs = s.regs := rfl
@[simp] theorem putCells_jobs (s : State) (l : List (Nat × Byte)) : (putCells s l).jobs = s.jobs := rfl
@[simp] theorem putCells_dims (s : State) (l : List (Nat × Byte)) : (putCells s l).dims = s.dims := rfl
@[simp] theorem putCells_flash (s : State) (l : List (Nat × Byte)) : (putCells s l).flash = s.flash := rfl
@[simp] theorem putCells_recov (s : State) (l : List (Nat × Byte)) : (putCells s l).recov = s.recov := rfl
@[simp] theorem putCells_measured (s : State) (l : List (Nat × Byte)) : (putCells s l).measured = s.measured := rfl
@[simp] theorem putCells_irqs (s : State) (l : List (Nat × Byte)) : (putCells s l).irqs = s.irqs := rfl
@[simp] theorem putCells_outbox (s : State) (l : List (Nat × Byte)) : (putCells s l).outbox = s.outbox := rfl
@[simp] theorem putCells_saveArea (s : State) (l : List (Nat × Byte)) : (putCells s l).saveArea = s.saveArea := rfl
@[simp] theorem putCells_hwOld (s : State) (l : List (Nat × Byte)) : (putCells s l).hwOld = s.hwOld := rfl
@[simp] theorem putCells_mem (s : State) (l : List (Nat × Byte)) : (putCells s l).mem = msetAll s.mem l := rfl

/-! ## vput -/

@[simp] theorem vput_st (c : Ctx) (r : Reg) (w : Vec) : (vput c r w).st = c.st := rfl
@[simp] theorem vput_pc (c : Ctx) (r : Reg) (w : Vec) : (vput c r w).pc = c.pc := rfl
@[simp] theorem vput_s (c : Ctx) (r : Reg) (w : Vec) : (vput c r w).s = c.s := rfl
@[simp] theorem vput_p (c : Ctx) (r : Reg) (w : Vec) : (vput c r w).p = c.p := rfl
@[simp] theorem vput_k (c : Ctx) (r : Reg) (w : Vec) : (vput c r w).k = c.k := rfl
@[simp] theorem vput_mkr (c : Ctx) (r : Reg) (w : Vec) : (vput c r w).mkr = c.mkr := rfl
@[simp] theorem vput_pm (c : Ctx) (r : Reg) (w : Vec) : (vput c r w).pm = c.pm := rfl
@[simp] theorem vput_sm (c : Ctx) (r : Reg) (w : Vec) : (vput c r w).sm = c.sm := rfl
@[simp] theorem vput_t (c : Ctx) (r : Reg) (w : Vec) : (vput c r w).t = c.t := rfl
@[simp] theorem vput_tvec (c : Ctx) (r : Reg) (w : Vec) : (vput c r w).tvec = c.tvec := rfl
@[simp] theorem vput_tpc (c : Ctx) (r : Reg) (w : Vec) : (vput c r w).tpc = c.tpc := rfl
@[simp] theorem vput_tcause (c : Ctx) (r : Reg) (w : Vec) : (vput c r w).tcause = c.tcause := rfl
@[simp] theorem vput_tval (c : Ctx) (r : Reg) (w : Vec) : (vput c r w).tval = c.tval := rfl
@[simp] theorem vput_mvec (c : Ctx) (r : Reg) (w : Vec) : (vput c r w).mvec = c.mvec := rfl
@[simp] theorem vput_mpc (c : Ctx) (r : Reg) (w : Vec) : (vput c r w).mpc = c.mpc := rfl
@[simp] theorem vput_mrk (c : Ctx) (r : Reg) (w : Vec) : (vput c r w).mrk = c.mrk := rfl
@[simp] theorem vput_vfmt (c : Ctx) (r : Reg) (w : Vec) : (vput c r w).vfmt = c.vfmt := rfl
@[simp] theorem vput_fcsr (c : Ctx) (r : Reg) (w : Vec) : (vput c r w).fcsr = c.fcsr := rfl
@[simp] theorem vput_fmode (c : Ctx) (r : Reg) (w : Vec) : (vput c r w).fmode = c.fmode := rfl
@[simp] theorem vput_rng (c : Ctx) (r : Reg) (w : Vec) : (vput c r w).rng = c.rng := rfl
@[simp] theorem vput_oor (c : Ctx) (r : Reg) (w : Vec) : (vput c r w).oor = c.oor := rfl
@[simp] theorem vput_oorBy (c : Ctx) (r : Reg) (w : Vec) : (vput c r w).oorBy = c.oorBy := rfl
@[simp] theorem vput_wid (c : Ctx) (r : Reg) (w : Vec) : (vput c r w).wid = c.wid := rfl
@[simp] theorem vput_mfmt (c : Ctx) (r : Reg) (w : Vec) : (vput c r w).mfmt = c.mfmt := rfl
@[simp] theorem vput_ascale (c : Ctx) (r : Reg) (w : Vec) : (vput c r w).ascale = c.ascale := rfl
@[simp] theorem vput_bscale (c : Ctx) (r : Reg) (w : Vec) : (vput c r w).bscale = c.bscale := rfl
@[simp] theorem vput_xprom (c : Ctx) (r : Reg) (w : Vec) : (vput c r w).xprom = c.xprom := rfl
@[simp] theorem vput_lc (c : Ctx) (r : Reg) (w : Vec) : (vput c r w).lc = c.lc := rfl
@[simp] theorem vput_ls (c : Ctx) (r : Reg) (w : Vec) : (vput c r w).ls = c.ls := rfl
@[simp] theorem vput_le (c : Ctx) (r : Reg) (w : Vec) : (vput c r w).le = c.le := rfl
@[simp] theorem vput_ldepth (c : Ctx) (r : Reg) (w : Vec) : (vput c r w).ldepth = c.ldepth := rfl
@[simp] theorem vput_ub (c : Ctx) (r : Reg) (w : Vec) : (vput c r w).ub = c.ub := rfl
@[simp] theorem vput_prioMax (c : Ctx) (r : Reg) (w : Vec) : (vput c r w).prioMax = c.prioMax := rfl
@[simp] theorem vput_prio (c : Ctx) (r : Reg) (w : Vec) : (vput c r w).prio = c.prio := rfl
@[simp] theorem vput_gens (c : Ctx) (r : Reg) (w : Vec) : (vput c r w).gens = c.gens := rfl
@[simp] theorem vput_qb (c : Ctx) (r : Reg) (w : Vec) : (vput c r w).qb = c.qb := rfl
@[simp] theorem vput_wait (c : Ctx) (r : Reg) (w : Vec) : (vput c r w).wait = c.wait := rfl
@[simp] theorem vput_waitSeq (c : Ctx) (r : Reg) (w : Vec) : (vput c r w).waitSeq = c.waitSeq := rfl
@[simp] theorem vput_blockedAt (c : Ctx) (r : Reg) (w : Vec) : (vput c r w).blockedAt = c.blockedAt := rfl
@[simp] theorem vput_answers (c : Ctx) (r : Reg) (w : Vec) : (vput c r w).answers = c.answers := rfl
@[simp] theorem vput_farTag (c : Ctx) (r : Reg) (w : Vec) : (vput c r w).farTag = c.farTag := rfl
@[simp] theorem vput_holds (c : Ctx) (r : Reg) (w : Vec) : (vput c r w).holds = c.holds := rfl
@[simp] theorem vput_acks (c : Ctx) (r : Reg) (w : Vec) : (vput c r w).acks = c.acks := rfl
@[simp] theorem vput_held (c : Ctx) (r : Reg) (w : Vec) : (vput c r w).held = c.held := rfl
@[simp] theorem vput_leave (c : Ctx) (r : Reg) (w : Vec) : (vput c r w).leave = c.leave := rfl
@[simp] theorem vput_reask (c : Ctx) (r : Reg) (w : Vec) : (vput c r w).reask = c.reask := rfl
@[simp] theorem vput_cls (c : Ctx) (r : Reg) (w : Vec) : (vput c r w).cls = c.cls := rfl
@[simp] theorem vput_origin (c : Ctx) (r : Reg) (w : Vec) : (vput c r w).origin = c.origin := rfl
@[simp] theorem vput_start (c : Ctx) (r : Reg) (w : Vec) : (vput c r w).start = c.start := rfl
@[simp] theorem vput_age (c : Ctx) (r : Reg) (w : Vec) : (vput c r w).age = c.age := rfl
@[simp] theorem vput_yieldTo (c : Ctx) (r : Reg) (w : Vec) : (vput c r w).yieldTo = c.yieldTo := rfl
@[simp] theorem vput_sd (c : Ctx) (r : Reg) (w : Vec) : (vput c r w).sd = c.sd := rfl
@[simp] theorem vput_pd (c : Ctx) (r : Reg) (w : Vec) : (vput c r w).pd = c.pd := rfl
@[simp] theorem vput_kd (c : Ctx) (r : Reg) (w : Vec) : (vput c r w).kd = c.kd := rfl

/-! ## kwrite -/

@[simp] theorem kwrite_st (c : Ctx) (r : Reg) (w : Word32) : (kwrite c r w).st = c.st := rfl
@[simp] theorem kwrite_pc (c : Ctx) (r : Reg) (w : Word32) : (kwrite c r w).pc = c.pc := rfl
@[simp] theorem kwrite_s (c : Ctx) (r : Reg) (w : Word32) : (kwrite c r w).s = c.s := rfl
@[simp] theorem kwrite_v (c : Ctx) (r : Reg) (w : Word32) : (kwrite c r w).v = c.v := rfl
@[simp] theorem kwrite_p (c : Ctx) (r : Reg) (w : Word32) : (kwrite c r w).p = c.p := rfl
@[simp] theorem kwrite_mkr (c : Ctx) (r : Reg) (w : Word32) : (kwrite c r w).mkr = c.mkr := rfl
@[simp] theorem kwrite_pm (c : Ctx) (r : Reg) (w : Word32) : (kwrite c r w).pm = c.pm := rfl
@[simp] theorem kwrite_sm (c : Ctx) (r : Reg) (w : Word32) : (kwrite c r w).sm = c.sm := rfl
@[simp] theorem kwrite_t (c : Ctx) (r : Reg) (w : Word32) : (kwrite c r w).t = c.t := rfl
@[simp] theorem kwrite_tvec (c : Ctx) (r : Reg) (w : Word32) : (kwrite c r w).tvec = c.tvec := rfl
@[simp] theorem kwrite_tpc (c : Ctx) (r : Reg) (w : Word32) : (kwrite c r w).tpc = c.tpc := rfl
@[simp] theorem kwrite_tcause (c : Ctx) (r : Reg) (w : Word32) : (kwrite c r w).tcause = c.tcause := rfl
@[simp] theorem kwrite_tval (c : Ctx) (r : Reg) (w : Word32) : (kwrite c r w).tval = c.tval := rfl
@[simp] theorem kwrite_mvec (c : Ctx) (r : Reg) (w : Word32) : (kwrite c r w).mvec = c.mvec := rfl
@[simp] theorem kwrite_mpc (c : Ctx) (r : Reg) (w : Word32) : (kwrite c r w).mpc = c.mpc := rfl
@[simp] theorem kwrite_mrk (c : Ctx) (r : Reg) (w : Word32) : (kwrite c r w).mrk = c.mrk := rfl
@[simp] theorem kwrite_vfmt (c : Ctx) (r : Reg) (w : Word32) : (kwrite c r w).vfmt = c.vfmt := rfl
@[simp] theorem kwrite_fcsr (c : Ctx) (r : Reg) (w : Word32) : (kwrite c r w).fcsr = c.fcsr := rfl
@[simp] theorem kwrite_fmode (c : Ctx) (r : Reg) (w : Word32) : (kwrite c r w).fmode = c.fmode := rfl
@[simp] theorem kwrite_rng (c : Ctx) (r : Reg) (w : Word32) : (kwrite c r w).rng = c.rng := rfl
@[simp] theorem kwrite_oor (c : Ctx) (r : Reg) (w : Word32) : (kwrite c r w).oor = c.oor := rfl
@[simp] theorem kwrite_oorBy (c : Ctx) (r : Reg) (w : Word32) : (kwrite c r w).oorBy = c.oorBy := rfl
@[simp] theorem kwrite_wid (c : Ctx) (r : Reg) (w : Word32) : (kwrite c r w).wid = c.wid := rfl
@[simp] theorem kwrite_mfmt (c : Ctx) (r : Reg) (w : Word32) : (kwrite c r w).mfmt = c.mfmt := rfl
@[simp] theorem kwrite_ascale (c : Ctx) (r : Reg) (w : Word32) : (kwrite c r w).ascale = c.ascale := rfl
@[simp] theorem kwrite_bscale (c : Ctx) (r : Reg) (w : Word32) : (kwrite c r w).bscale = c.bscale := rfl
@[simp] theorem kwrite_xprom (c : Ctx) (r : Reg) (w : Word32) : (kwrite c r w).xprom = c.xprom := rfl
@[simp] theorem kwrite_lc (c : Ctx) (r : Reg) (w : Word32) : (kwrite c r w).lc = c.lc := rfl
@[simp] theorem kwrite_ls (c : Ctx) (r : Reg) (w : Word32) : (kwrite c r w).ls = c.ls := rfl
@[simp] theorem kwrite_le (c : Ctx) (r : Reg) (w : Word32) : (kwrite c r w).le = c.le := rfl
@[simp] theorem kwrite_ldepth (c : Ctx) (r : Reg) (w : Word32) : (kwrite c r w).ldepth = c.ldepth := rfl
@[simp] theorem kwrite_ub (c : Ctx) (r : Reg) (w : Word32) : (kwrite c r w).ub = c.ub := rfl
@[simp] theorem kwrite_prioMax (c : Ctx) (r : Reg) (w : Word32) : (kwrite c r w).prioMax = c.prioMax := rfl
@[simp] theorem kwrite_prio (c : Ctx) (r : Reg) (w : Word32) : (kwrite c r w).prio = c.prio := rfl
@[simp] theorem kwrite_gens (c : Ctx) (r : Reg) (w : Word32) : (kwrite c r w).gens = c.gens := rfl
@[simp] theorem kwrite_qb (c : Ctx) (r : Reg) (w : Word32) : (kwrite c r w).qb = c.qb := rfl
@[simp] theorem kwrite_wait (c : Ctx) (r : Reg) (w : Word32) : (kwrite c r w).wait = c.wait := rfl
@[simp] theorem kwrite_waitSeq (c : Ctx) (r : Reg) (w : Word32) : (kwrite c r w).waitSeq = c.waitSeq := rfl
@[simp] theorem kwrite_blockedAt (c : Ctx) (r : Reg) (w : Word32) : (kwrite c r w).blockedAt = c.blockedAt := rfl
@[simp] theorem kwrite_answers (c : Ctx) (r : Reg) (w : Word32) : (kwrite c r w).answers = c.answers := rfl
@[simp] theorem kwrite_farTag (c : Ctx) (r : Reg) (w : Word32) : (kwrite c r w).farTag = c.farTag := rfl
@[simp] theorem kwrite_holds (c : Ctx) (r : Reg) (w : Word32) : (kwrite c r w).holds = c.holds := rfl
@[simp] theorem kwrite_acks (c : Ctx) (r : Reg) (w : Word32) : (kwrite c r w).acks = c.acks := rfl
@[simp] theorem kwrite_held (c : Ctx) (r : Reg) (w : Word32) : (kwrite c r w).held = c.held := rfl
@[simp] theorem kwrite_leave (c : Ctx) (r : Reg) (w : Word32) : (kwrite c r w).leave = c.leave := rfl
@[simp] theorem kwrite_reask (c : Ctx) (r : Reg) (w : Word32) : (kwrite c r w).reask = c.reask := rfl
@[simp] theorem kwrite_cls (c : Ctx) (r : Reg) (w : Word32) : (kwrite c r w).cls = c.cls := rfl
@[simp] theorem kwrite_origin (c : Ctx) (r : Reg) (w : Word32) : (kwrite c r w).origin = c.origin := rfl
@[simp] theorem kwrite_start (c : Ctx) (r : Reg) (w : Word32) : (kwrite c r w).start = c.start := rfl
@[simp] theorem kwrite_age (c : Ctx) (r : Reg) (w : Word32) : (kwrite c r w).age = c.age := rfl
@[simp] theorem kwrite_yieldTo (c : Ctx) (r : Reg) (w : Word32) : (kwrite c r w).yieldTo = c.yieldTo := rfl
@[simp] theorem kwrite_sd (c : Ctx) (r : Reg) (w : Word32) : (kwrite c r w).sd = c.sd := rfl
@[simp] theorem kwrite_vd (c : Ctx) (r : Reg) (w : Word32) : (kwrite c r w).vd = c.vd := rfl
@[simp] theorem kwrite_pd (c : Ctx) (r : Reg) (w : Word32) : (kwrite c r w).pd = c.pd := rfl

/-! ## swrite -/

@[simp] theorem swrite_st (c : Ctx) (r : Reg) (w : Word) : (swrite c r w).st = c.st := by
  unfold swrite; split <;> rfl
@[simp] theorem swrite_pc (c : Ctx) (r : Reg) (w : Word) : (swrite c r w).pc = c.pc := by
  unfold swrite; split <;> rfl
@[simp] theorem swrite_v (c : Ctx) (r : Reg) (w : Word) : (swrite c r w).v = c.v := by
  unfold swrite; split <;> rfl
@[simp] theorem swrite_p (c : Ctx) (r : Reg) (w : Word) : (swrite c r w).p = c.p := by
  unfold swrite; split <;> rfl
@[simp] theorem swrite_k (c : Ctx) (r : Reg) (w : Word) : (swrite c r w).k = c.k := by
  unfold swrite; split <;> rfl
@[simp] theorem swrite_mkr (c : Ctx) (r : Reg) (w : Word) : (swrite c r w).mkr = c.mkr := by
  unfold swrite; split <;> rfl
@[simp] theorem swrite_pm (c : Ctx) (r : Reg) (w : Word) : (swrite c r w).pm = c.pm := by
  unfold swrite; split <;> rfl
@[simp] theorem swrite_sm (c : Ctx) (r : Reg) (w : Word) : (swrite c r w).sm = c.sm := by
  unfold swrite; split <;> rfl
@[simp] theorem swrite_t (c : Ctx) (r : Reg) (w : Word) : (swrite c r w).t = c.t := by
  unfold swrite; split <;> rfl
@[simp] theorem swrite_tvec (c : Ctx) (r : Reg) (w : Word) : (swrite c r w).tvec = c.tvec := by
  unfold swrite; split <;> rfl
@[simp] theorem swrite_tpc (c : Ctx) (r : Reg) (w : Word) : (swrite c r w).tpc = c.tpc := by
  unfold swrite; split <;> rfl
@[simp] theorem swrite_tcause (c : Ctx) (r : Reg) (w : Word) : (swrite c r w).tcause = c.tcause := by
  unfold swrite; split <;> rfl
@[simp] theorem swrite_tval (c : Ctx) (r : Reg) (w : Word) : (swrite c r w).tval = c.tval := by
  unfold swrite; split <;> rfl
@[simp] theorem swrite_mvec (c : Ctx) (r : Reg) (w : Word) : (swrite c r w).mvec = c.mvec := by
  unfold swrite; split <;> rfl
@[simp] theorem swrite_mpc (c : Ctx) (r : Reg) (w : Word) : (swrite c r w).mpc = c.mpc := by
  unfold swrite; split <;> rfl
@[simp] theorem swrite_mrk (c : Ctx) (r : Reg) (w : Word) : (swrite c r w).mrk = c.mrk := by
  unfold swrite; split <;> rfl
@[simp] theorem swrite_vfmt (c : Ctx) (r : Reg) (w : Word) : (swrite c r w).vfmt = c.vfmt := by
  unfold swrite; split <;> rfl
@[simp] theorem swrite_fcsr (c : Ctx) (r : Reg) (w : Word) : (swrite c r w).fcsr = c.fcsr := by
  unfold swrite; split <;> rfl
@[simp] theorem swrite_fmode (c : Ctx) (r : Reg) (w : Word) : (swrite c r w).fmode = c.fmode := by
  unfold swrite; split <;> rfl
@[simp] theorem swrite_rng (c : Ctx) (r : Reg) (w : Word) : (swrite c r w).rng = c.rng := by
  unfold swrite; split <;> rfl
@[simp] theorem swrite_oor (c : Ctx) (r : Reg) (w : Word) : (swrite c r w).oor = c.oor := by
  unfold swrite; split <;> rfl
@[simp] theorem swrite_oorBy (c : Ctx) (r : Reg) (w : Word) : (swrite c r w).oorBy = c.oorBy := by
  unfold swrite; split <;> rfl
@[simp] theorem swrite_wid (c : Ctx) (r : Reg) (w : Word) : (swrite c r w).wid = c.wid := by
  unfold swrite; split <;> rfl
@[simp] theorem swrite_mfmt (c : Ctx) (r : Reg) (w : Word) : (swrite c r w).mfmt = c.mfmt := by
  unfold swrite; split <;> rfl
@[simp] theorem swrite_ascale (c : Ctx) (r : Reg) (w : Word) : (swrite c r w).ascale = c.ascale := by
  unfold swrite; split <;> rfl
@[simp] theorem swrite_bscale (c : Ctx) (r : Reg) (w : Word) : (swrite c r w).bscale = c.bscale := by
  unfold swrite; split <;> rfl
@[simp] theorem swrite_xprom (c : Ctx) (r : Reg) (w : Word) : (swrite c r w).xprom = c.xprom := by
  unfold swrite; split <;> rfl
@[simp] theorem swrite_lc (c : Ctx) (r : Reg) (w : Word) : (swrite c r w).lc = c.lc := by
  unfold swrite; split <;> rfl
@[simp] theorem swrite_ls (c : Ctx) (r : Reg) (w : Word) : (swrite c r w).ls = c.ls := by
  unfold swrite; split <;> rfl
@[simp] theorem swrite_le (c : Ctx) (r : Reg) (w : Word) : (swrite c r w).le = c.le := by
  unfold swrite; split <;> rfl
@[simp] theorem swrite_ldepth (c : Ctx) (r : Reg) (w : Word) : (swrite c r w).ldepth = c.ldepth := by
  unfold swrite; split <;> rfl
@[simp] theorem swrite_ub (c : Ctx) (r : Reg) (w : Word) : (swrite c r w).ub = c.ub := by
  unfold swrite; split <;> rfl
@[simp] theorem swrite_prioMax (c : Ctx) (r : Reg) (w : Word) : (swrite c r w).prioMax = c.prioMax := by
  unfold swrite; split <;> rfl
@[simp] theorem swrite_prio (c : Ctx) (r : Reg) (w : Word) : (swrite c r w).prio = c.prio := by
  unfold swrite; split <;> rfl
@[simp] theorem swrite_gens (c : Ctx) (r : Reg) (w : Word) : (swrite c r w).gens = c.gens := by
  unfold swrite; split <;> rfl
@[simp] theorem swrite_qb (c : Ctx) (r : Reg) (w : Word) : (swrite c r w).qb = c.qb := by
  unfold swrite; split <;> rfl
@[simp] theorem swrite_wait (c : Ctx) (r : Reg) (w : Word) : (swrite c r w).wait = c.wait := by
  unfold swrite; split <;> rfl
@[simp] theorem swrite_waitSeq (c : Ctx) (r : Reg) (w : Word) : (swrite c r w).waitSeq = c.waitSeq := by
  unfold swrite; split <;> rfl
@[simp] theorem swrite_blockedAt (c : Ctx) (r : Reg) (w : Word) : (swrite c r w).blockedAt = c.blockedAt := by
  unfold swrite; split <;> rfl
@[simp] theorem swrite_answers (c : Ctx) (r : Reg) (w : Word) : (swrite c r w).answers = c.answers := by
  unfold swrite; split <;> rfl
@[simp] theorem swrite_farTag (c : Ctx) (r : Reg) (w : Word) : (swrite c r w).farTag = c.farTag := by
  unfold swrite; split <;> rfl
@[simp] theorem swrite_holds (c : Ctx) (r : Reg) (w : Word) : (swrite c r w).holds = c.holds := by
  unfold swrite; split <;> rfl
@[simp] theorem swrite_acks (c : Ctx) (r : Reg) (w : Word) : (swrite c r w).acks = c.acks := by
  unfold swrite; split <;> rfl
@[simp] theorem swrite_held (c : Ctx) (r : Reg) (w : Word) : (swrite c r w).held = c.held := by
  unfold swrite; split <;> rfl
@[simp] theorem swrite_leave (c : Ctx) (r : Reg) (w : Word) : (swrite c r w).leave = c.leave := by
  unfold swrite; split <;> rfl
@[simp] theorem swrite_reask (c : Ctx) (r : Reg) (w : Word) : (swrite c r w).reask = c.reask := by
  unfold swrite; split <;> rfl
@[simp] theorem swrite_cls (c : Ctx) (r : Reg) (w : Word) : (swrite c r w).cls = c.cls := by
  unfold swrite; split <;> rfl
@[simp] theorem swrite_origin (c : Ctx) (r : Reg) (w : Word) : (swrite c r w).origin = c.origin := by
  unfold swrite; split <;> rfl
@[simp] theorem swrite_start (c : Ctx) (r : Reg) (w : Word) : (swrite c r w).start = c.start := by
  unfold swrite; split <;> rfl
@[simp] theorem swrite_age (c : Ctx) (r : Reg) (w : Word) : (swrite c r w).age = c.age := by
  unfold swrite; split <;> rfl
@[simp] theorem swrite_yieldTo (c : Ctx) (r : Reg) (w : Word) : (swrite c r w).yieldTo = c.yieldTo := by
  unfold swrite; split <;> rfl
@[simp] theorem swrite_vd (c : Ctx) (r : Reg) (w : Word) : (swrite c r w).vd = c.vd := by
  unfold swrite; split <;> rfl
@[simp] theorem swrite_pd (c : Ctx) (r : Reg) (w : Word) : (swrite c r w).pd = c.pd := by
  unfold swrite; split <;> rfl
@[simp] theorem swrite_kd (c : Ctx) (r : Reg) (w : Word) : (swrite c r w).kd = c.kd := by
  unfold swrite; split <;> rfl

/-! ## pwrite -/

@[simp] theorem pwrite_st (c : Ctx) (r : PReg) (w : BitVec 16) : (pwrite c r w).st = c.st := by
  unfold pwrite; split <;> rfl
@[simp] theorem pwrite_pc (c : Ctx) (r : PReg) (w : BitVec 16) : (pwrite c r w).pc = c.pc := by
  unfold pwrite; split <;> rfl
@[simp] theorem pwrite_s (c : Ctx) (r : PReg) (w : BitVec 16) : (pwrite c r w).s = c.s := by
  unfold pwrite; split <;> rfl
@[simp] theorem pwrite_v (c : Ctx) (r : PReg) (w : BitVec 16) : (pwrite c r w).v = c.v := by
  unfold pwrite; split <;> rfl
@[simp] theorem pwrite_k (c : Ctx) (r : PReg) (w : BitVec 16) : (pwrite c r w).k = c.k := by
  unfold pwrite; split <;> rfl
@[simp] theorem pwrite_mkr (c : Ctx) (r : PReg) (w : BitVec 16) : (pwrite c r w).mkr = c.mkr := by
  unfold pwrite; split <;> rfl
@[simp] theorem pwrite_pm (c : Ctx) (r : PReg) (w : BitVec 16) : (pwrite c r w).pm = c.pm := by
  unfold pwrite; split <;> rfl
@[simp] theorem pwrite_sm (c : Ctx) (r : PReg) (w : BitVec 16) : (pwrite c r w).sm = c.sm := by
  unfold pwrite; split <;> rfl
@[simp] theorem pwrite_t (c : Ctx) (r : PReg) (w : BitVec 16) : (pwrite c r w).t = c.t := by
  unfold pwrite; split <;> rfl
@[simp] theorem pwrite_tvec (c : Ctx) (r : PReg) (w : BitVec 16) : (pwrite c r w).tvec = c.tvec := by
  unfold pwrite; split <;> rfl
@[simp] theorem pwrite_tpc (c : Ctx) (r : PReg) (w : BitVec 16) : (pwrite c r w).tpc = c.tpc := by
  unfold pwrite; split <;> rfl
@[simp] theorem pwrite_tcause (c : Ctx) (r : PReg) (w : BitVec 16) : (pwrite c r w).tcause = c.tcause := by
  unfold pwrite; split <;> rfl
@[simp] theorem pwrite_tval (c : Ctx) (r : PReg) (w : BitVec 16) : (pwrite c r w).tval = c.tval := by
  unfold pwrite; split <;> rfl
@[simp] theorem pwrite_mvec (c : Ctx) (r : PReg) (w : BitVec 16) : (pwrite c r w).mvec = c.mvec := by
  unfold pwrite; split <;> rfl
@[simp] theorem pwrite_mpc (c : Ctx) (r : PReg) (w : BitVec 16) : (pwrite c r w).mpc = c.mpc := by
  unfold pwrite; split <;> rfl
@[simp] theorem pwrite_mrk (c : Ctx) (r : PReg) (w : BitVec 16) : (pwrite c r w).mrk = c.mrk := by
  unfold pwrite; split <;> rfl
@[simp] theorem pwrite_vfmt (c : Ctx) (r : PReg) (w : BitVec 16) : (pwrite c r w).vfmt = c.vfmt := by
  unfold pwrite; split <;> rfl
@[simp] theorem pwrite_fcsr (c : Ctx) (r : PReg) (w : BitVec 16) : (pwrite c r w).fcsr = c.fcsr := by
  unfold pwrite; split <;> rfl
@[simp] theorem pwrite_fmode (c : Ctx) (r : PReg) (w : BitVec 16) : (pwrite c r w).fmode = c.fmode := by
  unfold pwrite; split <;> rfl
@[simp] theorem pwrite_rng (c : Ctx) (r : PReg) (w : BitVec 16) : (pwrite c r w).rng = c.rng := by
  unfold pwrite; split <;> rfl
@[simp] theorem pwrite_oor (c : Ctx) (r : PReg) (w : BitVec 16) : (pwrite c r w).oor = c.oor := by
  unfold pwrite; split <;> rfl
@[simp] theorem pwrite_oorBy (c : Ctx) (r : PReg) (w : BitVec 16) : (pwrite c r w).oorBy = c.oorBy := by
  unfold pwrite; split <;> rfl
@[simp] theorem pwrite_wid (c : Ctx) (r : PReg) (w : BitVec 16) : (pwrite c r w).wid = c.wid := by
  unfold pwrite; split <;> rfl
@[simp] theorem pwrite_mfmt (c : Ctx) (r : PReg) (w : BitVec 16) : (pwrite c r w).mfmt = c.mfmt := by
  unfold pwrite; split <;> rfl
@[simp] theorem pwrite_ascale (c : Ctx) (r : PReg) (w : BitVec 16) : (pwrite c r w).ascale = c.ascale := by
  unfold pwrite; split <;> rfl
@[simp] theorem pwrite_bscale (c : Ctx) (r : PReg) (w : BitVec 16) : (pwrite c r w).bscale = c.bscale := by
  unfold pwrite; split <;> rfl
@[simp] theorem pwrite_xprom (c : Ctx) (r : PReg) (w : BitVec 16) : (pwrite c r w).xprom = c.xprom := by
  unfold pwrite; split <;> rfl
@[simp] theorem pwrite_lc (c : Ctx) (r : PReg) (w : BitVec 16) : (pwrite c r w).lc = c.lc := by
  unfold pwrite; split <;> rfl
@[simp] theorem pwrite_ls (c : Ctx) (r : PReg) (w : BitVec 16) : (pwrite c r w).ls = c.ls := by
  unfold pwrite; split <;> rfl
@[simp] theorem pwrite_le (c : Ctx) (r : PReg) (w : BitVec 16) : (pwrite c r w).le = c.le := by
  unfold pwrite; split <;> rfl
@[simp] theorem pwrite_ldepth (c : Ctx) (r : PReg) (w : BitVec 16) : (pwrite c r w).ldepth = c.ldepth := by
  unfold pwrite; split <;> rfl
@[simp] theorem pwrite_ub (c : Ctx) (r : PReg) (w : BitVec 16) : (pwrite c r w).ub = c.ub := by
  unfold pwrite; split <;> rfl
@[simp] theorem pwrite_prioMax (c : Ctx) (r : PReg) (w : BitVec 16) : (pwrite c r w).prioMax = c.prioMax := by
  unfold pwrite; split <;> rfl
@[simp] theorem pwrite_prio (c : Ctx) (r : PReg) (w : BitVec 16) : (pwrite c r w).prio = c.prio := by
  unfold pwrite; split <;> rfl
@[simp] theorem pwrite_gens (c : Ctx) (r : PReg) (w : BitVec 16) : (pwrite c r w).gens = c.gens := by
  unfold pwrite; split <;> rfl
@[simp] theorem pwrite_qb (c : Ctx) (r : PReg) (w : BitVec 16) : (pwrite c r w).qb = c.qb := by
  unfold pwrite; split <;> rfl
@[simp] theorem pwrite_wait (c : Ctx) (r : PReg) (w : BitVec 16) : (pwrite c r w).wait = c.wait := by
  unfold pwrite; split <;> rfl
@[simp] theorem pwrite_waitSeq (c : Ctx) (r : PReg) (w : BitVec 16) : (pwrite c r w).waitSeq = c.waitSeq := by
  unfold pwrite; split <;> rfl
@[simp] theorem pwrite_blockedAt (c : Ctx) (r : PReg) (w : BitVec 16) : (pwrite c r w).blockedAt = c.blockedAt := by
  unfold pwrite; split <;> rfl
@[simp] theorem pwrite_answers (c : Ctx) (r : PReg) (w : BitVec 16) : (pwrite c r w).answers = c.answers := by
  unfold pwrite; split <;> rfl
@[simp] theorem pwrite_farTag (c : Ctx) (r : PReg) (w : BitVec 16) : (pwrite c r w).farTag = c.farTag := by
  unfold pwrite; split <;> rfl
@[simp] theorem pwrite_holds (c : Ctx) (r : PReg) (w : BitVec 16) : (pwrite c r w).holds = c.holds := by
  unfold pwrite; split <;> rfl
@[simp] theorem pwrite_acks (c : Ctx) (r : PReg) (w : BitVec 16) : (pwrite c r w).acks = c.acks := by
  unfold pwrite; split <;> rfl
@[simp] theorem pwrite_held (c : Ctx) (r : PReg) (w : BitVec 16) : (pwrite c r w).held = c.held := by
  unfold pwrite; split <;> rfl
@[simp] theorem pwrite_leave (c : Ctx) (r : PReg) (w : BitVec 16) : (pwrite c r w).leave = c.leave := by
  unfold pwrite; split <;> rfl
@[simp] theorem pwrite_reask (c : Ctx) (r : PReg) (w : BitVec 16) : (pwrite c r w).reask = c.reask := by
  unfold pwrite; split <;> rfl
@[simp] theorem pwrite_cls (c : Ctx) (r : PReg) (w : BitVec 16) : (pwrite c r w).cls = c.cls := by
  unfold pwrite; split <;> rfl
@[simp] theorem pwrite_origin (c : Ctx) (r : PReg) (w : BitVec 16) : (pwrite c r w).origin = c.origin := by
  unfold pwrite; split <;> rfl
@[simp] theorem pwrite_start (c : Ctx) (r : PReg) (w : BitVec 16) : (pwrite c r w).start = c.start := by
  unfold pwrite; split <;> rfl
@[simp] theorem pwrite_age (c : Ctx) (r : PReg) (w : BitVec 16) : (pwrite c r w).age = c.age := by
  unfold pwrite; split <;> rfl
@[simp] theorem pwrite_yieldTo (c : Ctx) (r : PReg) (w : BitVec 16) : (pwrite c r w).yieldTo = c.yieldTo := by
  unfold pwrite; split <;> rfl
@[simp] theorem pwrite_sd (c : Ctx) (r : PReg) (w : BitVec 16) : (pwrite c r w).sd = c.sd := by
  unfold pwrite; split <;> rfl
@[simp] theorem pwrite_vd (c : Ctx) (r : PReg) (w : BitVec 16) : (pwrite c r w).vd = c.vd := by
  unfold pwrite; split <;> rfl
@[simp] theorem pwrite_kd (c : Ctx) (r : PReg) (w : BitVec 16) : (pwrite c r w).kd = c.kd := by
  unfold pwrite; split <;> rfl

@[simp] theorem vput_vd (c : Ctx) (r : Reg) (w : Vec) : (vput c r w).vd = c.vd ||| 1#32 <<< r.toNat := rfl

@[simp] theorem kwrite_kd (c : Ctx) (r : Reg) (w : Word32) : (kwrite c r w).kd = c.kd ||| 1#32 <<< r.toNat := rfl

@[simp] theorem swrite_sd (c : Ctx) (r : Reg) (w : Word) : (swrite c r w).sd = if r = 0 then c.sd else c.sd ||| 1#32 <<< r.toNat := by
  unfold swrite; split <;> rfl

@[simp] theorem pwrite_pd (c : Ctx) (r : PReg) (w : BitVec 16) : (pwrite c r w).pd = if r = 0 then c.pd else c.pd ||| 1#8 <<< r.toNat := by
  unfold pwrite; split <;> rfl

end Sys2Proof.Machine
end

