-- ==== Sys2Proof/Laws/Ctx.lean ====
section
/-!
SUPPORT. What the shared operations on a context do: reading after writing, the end of an instruction, a trap taken.
-/
namespace Sys2Proof.Machine

/-! ## Contexts -/

@[simp] theorem getCtx_setCtx_same (s : State) (x : Nat) (c : Ctx) : getCtx (setCtx s x c) x = c :=
  kget_kset_same _ _ _ _

theorem getCtx_setCtx_ne (s : State) {x y : Nat} (c : Ctx) (h : y ≠ x) : getCtx (setCtx s x c) y = getCtx s y :=
  kget_kset_ne _ _ _ h

@[simp] theorem cur_setCur (s : State) (c : Ctx) : cur (setCur s c) = c := getCtx_setCtx_same _ _ _

@[simp] theorem setCtx_setCtx (s : State) (x : Nat) (c d : Ctx) : setCtx (setCtx s x c) x d = setCtx s x d := by
  simp [setCtx, kset_kset]

@[simp] theorem setCur_setCur (s : State) (c d : Ctx) : setCur (setCur s c) d = setCur s d := setCtx_setCtx _ _ _ _

/-! ## Registers -/

theorem sread_swrite (c : Ctx) (d r : Reg) (w : Word) :
    sread (swrite c d w) r = if r = d ∧ r ≠ 0 then w else sread c r := by
  unfold swrite sread
  by_cases hr : r = 0
  · rw [if_pos hr, if_neg (fun h => h.2 hr), if_pos hr]
  · by_cases hd : d = 0
    · rw [if_pos hd, if_neg hr, if_neg (fun h => hr (h.1.trans hd))]
    · rw [if_neg hd, if_neg hr, if_neg hr]
      by_cases h : r = d
      · subst h; rw [if_pos ⟨rfl, hr⟩]; simp
      · have : d.toNat ≠ r.toNat := fun e => h (BitVec.eq_of_toNat_eq e.symm)
        rw [if_neg (fun e => h e.1)]; simp [this]

theorem pread_pwrite (c : Ctx) (d r : PReg) (w : BitVec 16) :
    pread (pwrite c d w) r = if r = d ∧ r ≠ 0 then w else pread c r := by
  unfold pwrite pread
  by_cases hr : r = 0
  · rw [if_pos hr, if_neg (fun h => h.2 hr), if_pos hr]
  · by_cases hd : d = 0
    · rw [if_pos hd, if_neg hr, if_neg (fun h => hr (h.1.trans hd))]
    · rw [if_neg hd, if_neg hr, if_neg hr]
      by_cases h : r = d
      · subst h; rw [if_pos ⟨rfl, hr⟩]; simp
      · have : d.toNat ≠ r.toNat := fun e => h (BitVec.eq_of_toNat_eq e.symm)
        rw [if_neg (fun e => h e.1)]; simp [this]

theorem vfile_vput (c : Ctx) (d r : Reg) (w : Vec) : vfile (vput c d w) r = if r = d then w else vfile c r := by
  unfold vput vfile
  by_cases h : r = d
  · subst h; simp
  · have : d.toNat ≠ r.toNat := fun e => h (BitVec.eq_of_toNat_eq e.symm)
    simp [h, this]

/-! ## The loop-end test and the program counter -/

/-- What the loop-end test can change: the loop registers, by the old ones and the address alone. -/
theorem loopEnd_eq (c : Ctx) (a : Word) (n : Nat) :
    ∃ (lc ls le : Vector Word 4) (k : Nat) (o : Option Word), ∀ d : Ctx, d.lc = c.lc → d.ls = c.ls → d.le = c.le →
      d.ldepth = c.ldepth → loopEnd d a n = ({ d with lc := lc, ls := ls, le := le, ldepth := k }, o) := by
  induction n generalizing c with
  | zero =>
    refine ⟨c.lc, c.ls, c.le, c.ldepth, none, fun d h1 h2 h3 h4 => ?_⟩
    simp [loopEnd, ← h1, ← h2, ← h3, ← h4]
  | succ n ih =>
    by_cases hn : n < 4
    · by_cases he : c.le[n] = a
      · by_cases hc : c.lc[n].toNat > 1
        · refine ⟨c.lc.set n (c.lc[n] - 1), c.ls, c.le, c.ldepth, some c.ls[n], fun d h1 h2 h3 h4 => ?_⟩
          simp [loopEnd, hn, h1, h2, h3, ← h4, he, hc]
        · obtain ⟨lc, ls, le, k, o, h⟩ := ih { c with lc := c.lc.set n 0, ls := c.ls.set n 0, le := c.le.set n 0, ldepth := n }
          refine ⟨lc, ls, le, k, o, fun d h1 h2 h3 h4 => ?_⟩
          have h5 : ¬ d.lc[n].toNat > 1 := by simpa [h1] using hc
          have h6 : d.le[n] = a := by simpa [h3] using he
          have e : loopEnd d a (n + 1)
              = loopEnd { d with lc := d.lc.set n 0, ls := d.ls.set n 0, le := d.le.set n 0, ldepth := n } a n := by
            rw [loopEnd, dif_pos hn, if_pos h6, if_neg h5]
          have e2 := h { d with lc := d.lc.set n 0, ls := d.ls.set n 0, le := d.le.set n 0, ldepth := n }
            (by simp [h1]) (by simp [h2]) (by simp [h3]) rfl
          rw [e, e2]
      · refine ⟨c.lc, c.ls, c.le, c.ldepth, none, fun d h1 h2 h3 h4 => ?_⟩
        simp [loopEnd, hn, h3, he]
        simp [← h1, ← h2, ← h3, ← h4]
    · refine ⟨c.lc, c.ls, c.le, c.ldepth, none, fun d h1 h2 h3 h4 => ?_⟩
      simp [loopEnd, hn, ← h1, ← h2, ← h3, ← h4]

/-- The context after an instruction in sequence: `c` but for the program counter, the loop registers and the record of
remote answers, which depend on the loop registers and the program counter alone. -/
theorem nextPc_eq (c : Ctx) (len : Nat) :
    ∃ (lc ls le : Vector Word 4) (k : Nat) (pc : Word), ∀ d : Ctx, d.pc = c.pc → d.lc = c.lc → d.ls = c.ls → d.le = c.le →
      d.ldepth = c.ldepth →
      nextPc d len = { d with pc := pc, lc := lc, ls := ls, le := le, ldepth := k, answers := [], farTag := none, wait := none } := by
  obtain ⟨lc, ls, le, k, o, h⟩ := loopEnd_eq c c.pc c.ldepth
  cases o with
  | some t =>
    refine ⟨lc, ls, le, k, t, fun d h0 h1 h2 h3 h4 => ?_⟩
    simp only [nextPc, h0, h4]
    rw [h d h1 h2 h3 h4]
  | none =>
    refine ⟨lc, ls, le, k, c.pc + BitVec.ofNat 64 len, fun d h0 h1 h2 h3 h4 => ?_⟩
    simp only [nextPc, h0, h4]
    rw [h d h1 h2 h3 h4]

theorem inSequence_nextPc (c d : Ctx) (len : Nat) (h0 : d.pc = c.pc) (h1 : d.lc = c.lc) (h2 : d.ls = c.ls) (h3 : d.le = c.le)
    (h4 : d.ldepth = c.ldepth) : inSequence c (nextPc d len) len := by
  obtain ⟨lc, ls, le, k, pc, h⟩ := nextPc_eq c len
  rw [h d h0 h1 h2 h3 h4]
  simp [inSequence, h c rfl rfl rfl rfl rfl]

theorem sameRegs_nextPc (c : Ctx) (len : Nat) : sameRegs c (nextPc c len) := by
  obtain ⟨lc, ls, le, k, pc, h⟩ := nextPc_eq c len
  simp [sameRegs, h c rfl rfl rfl rfl rfl]

theorem onlyTurn_setCur (s : State) (c : Ctx) : onlyTurn s (setCur s c) :=
  ⟨rfl, fun _ h => getCtx_setCtx_ne s c h, fun _ => rfl⟩

/-! ## The end of an instruction -/

/-- An instruction that completes with its context replaced. -/
theorem leaves_of_ok {i : Instr} {s : State} {c : Ctx} (h : exec i s = finish i (.ok (setCur s c))) (h0 : c.pc = (cur s).pc)
    (h1 : c.lc = (cur s).lc) (h2 : c.ls = (cur s).ls) (h3 : c.le = (cur s).le) (h4 : c.ldepth = (cur s).ldepth) :
    leaves i s (lenOf i) c := by
  refine ⟨setCur s (nextPc c (lenOf i)), ?_, onlyTurn_setCur _ _, ?_, ?_⟩
  · rw [h]; simp [finish, endState]
  · have : getCtx (setCur s (nextPc c (lenOf i))) s.turn = nextPc c (lenOf i) := cur_setCur _ _
    rw [this]; exact sameRegs_nextPc _ _
  · have : getCtx (setCur s (nextPc c (lenOf i))) s.turn = nextPc c (lenOf i) := cur_setCur _ _
    rw [this]; exact inSequence_nextPc _ _ _ h0 h1 h2 h3 h4

/-- An instruction that leaves its context with s[d] written. -/
theorem writesS_of_leaves {i : Instr} {s : State} {len : Nat} {d : Reg} {v : Word} (h : leaves i s len (swrite (cur s) d v)) :
    writesS i s len d v := by
  obtain ⟨t, h1, h2, h3, h4⟩ := h
  refine ⟨t, h1, h2, h4, fun r => ?_, ?_⟩
  · rw [← sread_swrite, ← h3]; rfl
  · refine Eq.trans ?_ ((congrArg (fun c : Ctx => { c with s := (cur s).s, sd := (cur s).sd }) h3).trans ?_)
    · simp only [swrite_pc, swrite_lc, swrite_ls, swrite_le, swrite_ldepth, swrite_answers, swrite_farTag, swrite_wait,
      swrite_vd, swrite_pd, swrite_kd]
    · unfold swrite; split <;> rfl

/-- An instruction whose result goes to s[d]. -/
theorem writesS_of_putS {i : Instr} {s : State} {d : Reg} {v : Word} (h : exec i s = putS i s d v) :
    writesS i s (lenOf i) d v :=
  writesS_of_leaves (leaves_of_ok h (by simp) (by simp) (by simp) (by simp) (by simp))

end Sys2Proof.Machine
end

