-- ==== Sys2Proof/Laws/Ops.lean ====
section
/-!
SUPPORT. What each shared operation can do, said once: units read back, how an instruction ends, taking a trap and a fault, packets that
leave and are taken up, registers of the BAR, bytes written.
-/
namespace Sys2Proof.Machine

/-! ## Units -/

@[simp] theorem getCore_setCore_same (s : State) (k : Nat) (c : Core) : getCore (setCore s k c) k = c := kget_kset_same _ _ _ _
theorem getCore_setCore_ne (s : State) {k j : Nat} (c : Core) (h : j ≠ k) : getCore (setCore s k c) j = getCore s j := kget_kset_ne _ _ _ h
@[simp] theorem getOct_setOct_same (s : State) (o : Nat) (x : Octet) : getOct (setOct s o x) o = x := kget_kset_same _ _ _ _
theorem getOct_setOct_ne (s : State) {o p : Nat} (x : Octet) (h : p ≠ o) : getOct (setOct s o x) p = getOct s p := kget_kset_ne _ _ _ h
@[simp] theorem getClus_setClus_same (s : State) (c : Nat) (x : Cluster) : getClus (setClus s c x) c = x := kget_kset_same _ _ _ _
theorem getClus_setClus_ne (s : State) {c d : Nat} (x : Cluster) (h : d ≠ c) : getClus (setClus s c x) d = getClus s d := kget_kset_ne _ _ _ h
@[simp] theorem getDie_setDie_same (s : State) (d : Nat) (x : Die) : getDie (setDie s d x) d = x := kget_kset_same _ _ _ _
theorem getDie_setDie_ne (s : State) {d e : Nat} (x : Die) (h : e ≠ d) : getDie (setDie s d x) e = getDie s e := kget_kset_ne _ _ _ h
@[simp] theorem getLaunch_setLaunch_same (s : State) (l : Nat) (x : Launch) : getLaunch (setLaunch s l x) l = x := kget_kset_same _ _ _ _
theorem getLaunch_setLaunch_ne (s : State) {l m : Nat} (x : Launch) (h : m ≠ l) : getLaunch (setLaunch s l x) m = getLaunch s m :=
  kget_kset_ne _ _ _ h

theorem coreOf_ctxNo (k : Nat) {i : Nat} (h : i < 16) : coreOf (ctxNo k i) = k := by
  unfold coreOf ctxNo; omega
theorem idxOf_ctxNo (k : Nat) {i : Nat} (h : i < 16) : idxOf (ctxNo k i) = i := by
  unfold idxOf ctxNo; omega
theorem ctxNo_inj {k j i n : Nat} (hi : i < 16) (hn : n < 16) (h : ctxNo k i = ctxNo j n) : k = j ∧ i = n := by
  unfold ctxNo at h; omega

/-! ## Registers of the BAR -/

theorem kmem_kset {α : Type} (m : KMap α) (k j : Nat) (v : α) : kmem (kset m k v) j = (decide (j = k) || kmem m j) := by
  induction m with
  | nil => simp [kset, kmem, eq_comm]
  | cons p t ih =>
    obtain ⟨a, b⟩ := p
    by_cases h1 : k < a
    · simp [kset, kmem, h1, eq_comm]
    · by_cases h2 : k = a
      · simp [kset, kmem, h2, eq_comm]
      · rw [kset, if_neg h1, if_neg h2]
        unfold kmem at *
        rw [List.any_cons, List.any_cons, ih]
        cases decide (a = j) <;> cases decide (j = k) <;> rfl

/-- A register that is set holds what it was set to, BSTAT with its fused field; every other register is as before. -/
theorem bar_setBar (s : State) (off o : Nat) (w : Word) :
    bar (setBar s off w) o = if o = off then (if o = 0 then w ||| svnWord else w) else bar s o := by
  unfold bar setBar
  rw [kmem_kset]
  by_cases h : o = off
  · subst h; by_cases h0 : o = 0 <;> simp [h0]
  · by_cases h0 : o = 0
    · subst h0; simp [h, kget_kset]
    · simp [h, h0, kget_kset]

/-- A counter is raised, and no other register changes (R458). -/
theorem countUp_spec (s : State) (off n : Nat) (h0 : off ≠ 0) :
    bar (countUp s off n) off = BitVec.ofNat 64 (min ((bar s off).toNat + n) (2 ^ 64 - 1))
      ∧ (∀ o, o ≠ off → bar (countUp s off n) o = bar s o) ∧ { countUp s off n with regs := s.regs } = s :=
  ⟨by simp [countUp, bar_setBar, h0], fun o h => by simp [countUp, bar_setBar, h], rfl⟩

theorem or_high_low (w : Word) (n : BitVec 8) : (w ||| n.setWidth 64 <<< 24).toNat % 2 ^ 3 = w.toNat % 2 ^ 3 := by
  have h : (n.setWidth 64 <<< 24).toNat % 2 ^ 3 = 0 := by
    have := n.isLt
    simp only [BitVec.toNat_shiftLeft, BitVec.toNat_setWidth, Nat.shiftLeft_eq]
    omega
  simp only [BitVec.toNat_or, Nat.or_mod_two_pow, h, Nat.or_zero]

/-- BSTAT.STATE is what the register reads as in bits [2:0] (R463). -/
theorem bootState_eq (s : State) : bootState s = bits (bar s 0) 0 3 := by
  have h : bar s 0 = kget 0 s.regs 0 ||| svnWord := if_pos rfl
  unfold bootState bits
  rw [h, Nat.pow_zero, Nat.div_one, Nat.div_one]
  exact (or_high_low _ _).symm

/-! ## How an instruction ends -/

/-- An instruction's meaning always answers a next state: the one its end gives. -/
theorem finish_eq (i : Instr) (e : Eff) : finish i e = .next (endState i e) := rfl
@[simp] theorem endState_ok (i : Instr) (s : State) : endState i (.ok s) = setCur s (nextPc (cur s) (lenOf i)) := rfl
@[simp] theorem endState_trap (i : Instr) (s : State) (cause : Nat) (val : Word) :
    endState i (.trap s cause val) = takeTrap s s.turn (cur s).pc cause val := rfl
@[simp] theorem endState_fault (i : Instr) (s : State) (cause : Nat) (fva : Word) :
    endState i (.fault s cause fva) = raiseFault s s.turn cause fva := rfl
@[simp] theorem endState_wait (i : Instr) (s : State) (w : Wait) : endState i (.wait s w) = blockCtx s s.turn w := rfl
@[simp] theorem endState_stay (i : Instr) (s : State) : endState i (.stay s) = s := rfl

/-- A blocked context keeps its registers; no other context changes (R141). -/
theorem blockCtx_spec (s : State) (x : Nat) (w : Wait) :
    (getCtx (blockCtx s x w) x).st = .blocked ∧ (getCtx (blockCtx s x w) x).wait = some w
      ∧ { getCtx (blockCtx s x w) x with
          st := (getCtx s x).st, wait := (getCtx s x).wait, blockedAt := (getCtx s x).blockedAt, waitSeq := (getCtx s x).waitSeq } = getCtx s x
      ∧ (∀ y, y ≠ x → getCtx (blockCtx s x w) y = getCtx s y)
      ∧ { blockCtx s x w with ctxs := s.ctxs, nonce := s.nonce } = s := by
  refine ⟨?_, ?_, ?_, fun y h => ?_, rfl⟩
  · simp [blockCtx]
  · simp [blockCtx]
  · simp [blockCtx]
  · exact getCtx_setCtx_ne _ _ h

/-! ## Packets -/

/-- Sending the packets that wait at a port changes the outbox and the ports alone. -/
theorem drainPort_frame (i : Nat) (l : List Packet) : ∀ (s : State) (k : List Packet) (o : List (Nat × Packet)) (p : Vector Port 8),
    { drainPort s i l k with outbox := o, ports := p } = { s with outbox := o, ports := p } := by
  induction l with
  | nil => intro s k o p; rfl
  | cons q t ih =>
    intro s k o p
    unfold drainPort
    split
    · exact ih _ _ _ _
    · exact ih _ _ _ _

/-- Putting a packet on its port changes the outbox and the ports alone. -/
theorem emitPacket_frame (s : State) (p : Packet) (via : Option Nat) :
    { emitPacket s p via with outbox := s.outbox, ports := s.ports } = s := by
  unfold emitPacket
  cases packetPort s (myNode s) p via with
  | none => rfl
  | some i => exact drainPort_frame _ _ _ _ _ _

/-- A packet for this module waits here; nothing else changes. -/
theorem sendPacket_here (s : State) (l : Option Nat) (p : Packet) (w : Option Nat) (h : p.dst = myNode s) :
    sendPacket s l p w = { s with arrived := s.arrived ++ [p] } := by
  unfold sendPacket
  rw [if_pos h]

/-- A packet for another module changes the flows, what is kept for resending, and what has left. -/
theorem sendPacket_frame (s : State) (l : Option Nat) (p : Packet) (w : Option Nat) :
    { sendPacket s l p w with
      arrived := s.arrived, flows := s.flows, sent := s.sent, uid := s.uid, outbox := s.outbox, ports := s.ports } = s := by
  have emit : ∀ (t : State) (q : Packet), { emitPacket t q with
      arrived := s.arrived, flows := s.flows, sent := s.sent, uid := s.uid, outbox := s.outbox, ports := s.ports }
        = { t with arrived := s.arrived, flows := s.flows, sent := s.sent, uid := s.uid, outbox := s.outbox, ports := s.ports } := by
    intro t q
    unfold emitPacket
    cases packetPort t (myNode t) q none with
    | none => rfl
    | some i =>
      exact congrArg (fun st : State => { st with arrived := s.arrived, flows := s.flows, sent := s.sent, uid := s.uid })
        (drainPort_frame i _ t [] s.outbox s.ports)
  unfold sendPacket
  by_cases h : p.dst = myNode s
  · rw [if_pos h]
  · rw [if_neg h, emit]
    split <;> rfl

@[simp] theorem sendPacket_ctxs (s : State) (l : Option Nat) (p : Packet) (w : Option Nat) : (sendPacket s l p w).ctxs = s.ctxs :=
  (congrArg State.ctxs (sendPacket_frame s l p w) : _)
@[simp] theorem sendPacket_cores (s : State) (l : Option Nat) (p : Packet) (w : Option Nat) : (sendPacket s l p w).cores = s.cores :=
  (congrArg State.cores (sendPacket_frame s l p w) : _)
@[simp] theorem sendPacket_launches (s : State) (l : Option Nat) (p : Packet) (w : Option Nat) : (sendPacket s l p w).launches = s.launches :=
  (congrArg State.launches (sendPacket_frame s l p w) : _)
@[simp] theorem sendPacket_mem (s : State) (l : Option Nat) (p : Packet) (w : Option Nat) : (sendPacket s l p w).mem = s.mem :=
  (congrArg State.mem (sendPacket_frame s l p w) : _)
@[simp] theorem sendPacket_regs (s : State) (l : Option Nat) (p : Packet) (w : Option Nat) : (sendPacket s l p w).regs = s.regs :=
  (congrArg State.regs (sendPacket_frame s l p w) : _)
@[simp] theorem sendPacket_regions (s : State) (l : Option Nat) (p : Packet) (w : Option Nat) : (sendPacket s l p w).regions = s.regions :=
  (congrArg State.regions (sendPacket_frame s l p w) : _)

/-- A packet taken up was waiting, meets the test, and alone is gone. -/
theorem takeArrived_spec {s s1 : State} {test : Packet → Bool} {n : Nat} {p : Packet} (h : takeArrived s test n = some (p, s1)) :
    ∃ i, s.arrived[i]? = some p ∧ test p = true ∧ s1 = { s with arrived := s.arrived.eraseIdx i } := by
  have aux : ∀ (l : List Packet) (n i : Nat) (q : Packet), lfindN test l n = some (i, q) → l[i]? = some q ∧ test q = true := by
    intro l
    induction l with
    | nil => intro n i q h; simp [lfindN] at h
    | cons x t ih =>
      intro n i q h
      simp only [lfindN] at h
      split at h
      · rename_i hx
        cases n with
        | zero => simp at h; obtain ⟨rfl, rfl⟩ := h; exact ⟨rfl, hx⟩
        | succ m =>
          simp only [Option.map_eq_some_iff] at h
          obtain ⟨⟨j, r⟩, hr, he⟩ := h
          simp at he; obtain ⟨rfl, rfl⟩ := he
          exact ih _ _ _ hr
      · simp only [Option.map_eq_some_iff] at h
        obtain ⟨⟨j, r⟩, hr, he⟩ := h
        simp at he; obtain ⟨rfl, rfl⟩ := he
        exact ih _ _ _ hr
  unfold takeArrived at h
  split at h
  · rename_i i q hq
    simp at h
    obtain ⟨rfl, rfl⟩ := h
    exact ⟨i, (aux _ _ _ _ hq).1, (aux _ _ _ _ hq).2, rfl⟩
  · simp at h

/-- What `nthAt` answers is a waiting packet in its place that meets the test. -/
theorem nthAt_spec {s : State} {t : Nat → Packet → Bool} {n i : Nat} {p : Packet} (h : nthAt s t n = some (i, p)) :
    s.arrived[i]? = some p ∧ t i p = true := by
  have hm := List.mem_filter.mp (List.mem_of_getElem? h)
  obtain ⟨k, hk⟩ := List.mem_iff_getElem?.mp hm.1
  have hz := List.getElem?_zip_eq_some.mp hk
  have hi : k = i := by
    have := hz.1
    rw [List.getElem?_range ((List.getElem?_eq_some_iff.mp this).1.trans_eq (List.length_range ..))] at this
    exact Option.some.inj this
  exact ⟨hi ▸ hz.2, hm.2⟩

/-- A packet taken in order was waiting, meets the test, alone is gone, and no earlier one of its source and class comes before it. -/
theorem takeOrdered_spec {s s1 : State} {before : Packet → Packet → Bool} {test : Packet → Bool} {n : Nat} {p : Packet}
    (h : takeOrdered s before test n = some (p, s1)) :
    ∃ i, s.arrived[i]? = some p ∧ test p = true ∧ s1 = { s with arrived := s.arrived.eraseIdx i }
      ∧ ∀ r ∈ s.arrived.take i, r.src = p.src → r.cls = p.cls → before r p = false := by
  obtain ⟨⟨i, q⟩, hq, he⟩ := Option.map_eq_some_iff.mp h
  obtain ⟨rfl, rfl⟩ := Prod.mk.injEq .. ▸ he
  obtain ⟨ha, ht⟩ := nthAt_spec hq
  have hc := Bool.and_eq_true_iff.mp ht
  refine ⟨i, ha, hc.1, rfl, fun r hr hs hcl => ?_⟩
  have ht := List.any_eq_false.mp (Bool.not_eq_true' _ ▸ hc.2) r hr
  rw [hs, hcl] at ht
  simpa using ht

/-! ## Faults and traps -/

/-- A fault recorded counts; the first is kept, but at one time the lower core's (R51). -/
theorem faultLaunch_launch (s : State) (l : Nat) (f : FaultRec) :
    getLaunch (faultLaunch s l f) l = { getLaunch s l with
      fcnt := min ((getLaunch s l).fcnt + 1) 0xFFFF
      first := some (match (getLaunch s l).first with
        | none => f
        | some g => if g.time = f.time ∧ f.core < g.core then f else g) } := by
  have tells : ∀ (ns : List Nat) (st : State),
      getLaunch (ns.foldl (fun st n => if n = myNode s then st else sendPacket st (some l) (mkPacket st 0 n 0 (.faultNotice l f))) st) l
        = getLaunch st l := by
    intro ns
    induction ns with
    | nil => intro st; rfl
    | cons n t ih =>
      intro st
      rw [List.foldl_cons, ih]
      by_cases h : n = myNode s <;> simp [h, getLaunch]
  unfold faultLaunch
  dsimp only
  split
  · simp <;> rfl
  · split
    · rw [tells]; simp <;> rfl
    · simp only [getLaunch, sendPacket_launches]; exact getLaunch_setLaunch_same _ _ _

/-- Taking a trap (R230, R427): a double trap where T is set or no handler is installed; else the context alone changes, to trap entry. -/
theorem takeTrap_cases (s : State) (x : Nat) (ret : Word) (cause : Nat) (val : Word) :
    (((getCtx s x).t = true ∨ (trapTarget (getCtx s x) (getCore s (coreOf x)).svec cause).2 = 0)
        ∧ takeTrap s x ret cause val = raiseFault s x (faultDouble (cause % 256)) ret)
      ∨ ((getCtx s x).t = false ∧ (trapTarget (getCtx s x) (getCore s (coreOf x)).svec cause).2 ≠ 0
        ∧ takeTrap s x ret cause val = setCtx s x (trapCtx (getCtx s x) (getCore s (coreOf x)).svec ret cause val)) := by
  unfold takeTrap
  by_cases h : (getCtx s x).t = true
  · exact .inl ⟨.inl h, by simp [h]⟩
  · by_cases h0 : (trapTarget (getCtx s x) (getCore s (coreOf x)).svec cause).2 = 0
    · exact .inl ⟨.inr h0, by rw [if_neg h, if_pos h0]⟩
    · exact .inr ⟨by simpa using h, h0, by rw [if_neg h, if_neg h0]⟩

/-! ## Bytes -/

/-- Writing cells changes memory, the record of errors and the lines that are clean, and keeps the memory's form. -/
theorem putCells_frame (s : State) (cells : List (Nat × Byte)) :
    { putCells s cells with mem := s.mem, poison := s.poison, soft := s.soft, clean := s.clean } = s := rfl
theorem memInv_putCells {s : State} (cells : List (Nat × Byte)) (h : memInv s) : memInv (putCells s cells) := memoryWf_msetAll cells h

/-- A byte after the writes of a list, in order: the last one's, or as before. -/
theorem mget_putCells (s : State) (cells : List (Nat × Byte)) (a : Nat) : mget (putCells s cells).mem a = written s cells a := by
  have aux : ∀ (l : List (Nat × Byte)) (m : Memory),
      mget (msetAll m l) a = ((l.reverse.find? (fun c => c.1 == a)).map (·.2)).getD (mget m a) := by
    intro l
    induction l with
    | nil => intro m; rfl
    | cons c t ih =>
      intro m
      have hc : msetAll m (c :: t) = msetAll (mset m c.1 c.2) t := rfl
      rw [hc, ih, List.reverse_cons, List.find?_append, mget_mset]
      by_cases h : c.1 = a
      · cases ht : t.reverse.find? (fun c => c.1 == a) <;> simp [h]
      · cases ht : t.reverse.find? (fun c => c.1 == a) <;> simp [h, Ne.symm h]
  exact aux cells s.mem

end Sys2Proof.Machine
end

