-- ==== Sys2Proof/Tests/Slice0.lean ====
section
/-!
SUPPORT. Tests: words of the spec's encodings decode as the spec says, an ill-formed term for each check of WellFormed,
single steps against values the spec gives or that follow by hand from its rules, and for each statement with
hypotheses a state that meets them.
-/
namespace Sys2Proof.Tests
open Sys2Proof Sys2Proof.Machine
-- Theorems are elaborated one after another: each thread that waits for the kernel would hold a stack of its own.
set_option Elab.async false

/-! ## Encodings -/

/-- Each first word, with its literal, decodes to the instruction beside it. -/
def readsAll (l : List (Word32 × Word32 × Instr)) : Bool :=
  l.all (fun p => match decode p.1 p.2.1 0 with | .ok i => decide (i = p.2.2) | .error _ => false)

theorem test_words_system : readsAll
  [(0x00400000, 0x0, .nop), (0x008009A5, 0x0, .brk 0x9a5), (0x00C009A5, 0x0, .sys 0x9a5),
   (0x01000000, 0x0, .rett), (0x0140004C, 0x0, .fence 9 .die), (0x018209A5, 0x0, .csrr 1 0x9a5),
   (0x01C229A5, 0x0, .csrw 1 2 0x9a5), (0x020229A5, 0x0, .csrs 1 2 0x9a5), (0x024229A5, 0x0, .csrc 1 2 0x9a5),
   (0x02822000, 0x0, .sleepu 1 2), (0x02C20002, 0x0, .prio 1 2), (0x03000002, 0x0, .lexit 2),
   (0x03400000, 0x0, .yield)] = true := by decide

theorem test_words_scalar_1 : readsAll
  [(0x10022181, 0x0, .add 1 2 3 true), (0x10422181, 0x0, .sub 1 2 3 true), (0x10822181, 0x0, .mul 1 2 3 true),
   (0x10C22181, 0x0, .mulh 1 2 3 true), (0x11022181, 0x0, .mulhu 1 2 3 true), (0x11422181, 0x0, .div 1 2 3 true),
   (0x11822181, 0x0, .divu 1 2 3 true), (0x11C22181, 0x0, .rem 1 2 3 true), (0x12022181, 0x0, .remu 1 2 3 true),
   (0x12422181, 0x0, .and 1 2 3 true), (0x12822181, 0x0, .or 1 2 3 true), (0x12C22181, 0x0, .xor 1 2 3 true),
   (0x13022181, 0x0, .andn 1 2 3 true), (0x13422181, 0x0, .shl 1 2 3 true), (0x13822181, 0x0, .shr 1 2 3 true),
   (0x13C22181, 0x0, .sra 1 2 3 true), (0x14022181, 0x0, .rotr 1 2 3 true), (0x14422181, 0x0, .min 1 2 3 true),
   (0x14822181, 0x0, .max 1 2 3 true), (0x14C22181, 0x0, .minu 1 2 3 true), (0x15022181, 0x0, .maxu 1 2 3 true),
   (0x15422181, 0x0, .slt 1 2 3 true), (0x15822181, 0x0, .sltu 1 2 3 true), (0x15C22181, 0x0, .seq 1 2 3 true),
   (0x16022001, 0x0, .clz 1 2 true), (0x16422001, 0x0, .ctz 1 2 true), (0x16822001, 0x0, .popc 1 2 true)] = true := by decide

theorem test_words_scalar_2 : readsAll
  [(0x16C22001, 0x0, .brev 1 2 true), (0x17022001, 0x0, .bswap 1 2 true), (0x174221E5, 0x0, .ext 1 2 3 true 0x25),
   (0x178221CD, 0x0, .sel 1 2 3 9 5), (0x17C20005, 0x0, .movpToScalar 1 5), (0x17C0200D, 0x0, .movpToPredicate 5 2),
   (0x18022185, 0x0, .fadd 1 2 3 .rtz .f64), (0x18422185, 0x0, .fsub 1 2 3 .rtz .f64), (0x18822185, 0x0, .fmul 1 2 3 .rtz .f64),
   (0x18C22185, 0x0, .ffma 1 2 3 .rtz .f64), (0x19022185, 0x0, .fdiv 1 2 3 .rtz .f64), (0x19422005, 0x0, .fsqrt 1 2 .rtz .f64),
   (0x19822181, 0x0, .fmin 1 2 3 .f64), (0x19C22181, 0x0, .fmax 1 2 3 .f64), (0x1A022181, 0x0, .feq 1 2 3 .f64),
   (0x1A422181, 0x0, .flt 1 2 3 .f64), (0x1A822181, 0x0, .fle 1 2 3 .f64), (0x1AC22025, 0x0, .fcvtfi 1 2 .i64 .rtz .f64),
   (0x1B022025, 0x0, .fcvtif 1 2 .i64 .rtz .f64), (0x1B422024, 0x0, .fcvtff 1 2 .f64 .rtz .f32), (0x1B822001, 0x0, .fclass 1 2 .f64)] = true := by decide

theorem test_words_immediate : readsAll
  [(0x2008AC35, 0x0, .addi 1 2 0x2c35), (0x2108AC35, 0x0, .andi 1 2 0x2c35), (0x2208AC35, 0x0, .ori 1 2 0x2c35),
   (0x2308AC35, 0x0, .xori 1 2 0x2c35), (0x24088025, 0x0, .shli 1 2 0x25), (0x25088025, 0x0, .shri 1 2 0x25),
   (0x26088025, 0x0, .srai 1 2 0x25), (0x2708AC35, 0x0, .slti 1 2 0x2c35), (0x2808AC35, 0x0, .sltui 1 2 0x2c35),
   (0x290D1234, 0x0, .lui 1 0x51234), (0x2C08AC35, 0x0, .addiw 1 2 0x2c35)] = true := by decide

theorem test_words_branch : readsAll
  [(0x5010EC35, 0x0, .beq 2 3 0x2c35), (0x5110EC35, 0x0, .bne 2 3 0x2c35), (0x5210EC35, 0x0, .blt 2 3 0x2c35),
   (0x5310EC35, 0x0, .bge 2 3 0x2c35), (0x5410EC35, 0x0, .bltu 2 3 0x2c35), (0x5510EC35, 0x0, .bgeu 2 3 0x2c35),
   (0x5610EC35, 0x0, .bbs 2 3 0x2c35), (0x5710EC35, 0x0, .bbc 2 3 0x2c35), (0x5810EC35, 0x0, .bp 2 3 0x2c35),
   (0x5910EC35, 0x0, .bnp 2 3 0x2c35)] = true := by decide

theorem test_words_jump : readsAll
  [(0x60323456, 0x0, .jal 1 0x123456), (0x64228F35, 0x0, .jalr 1 2 0x8f35), (0x68534A00, 0x0, .loop 2 0x9a5),
   (0x6E696694, 0x0, .loopi 0x9a5 0x9a5)] = true := by decide

theorem test_words_memory : readsAll
  [(0x7008AC35, 0x0, .ldb 1 2 0x2c35), (0x7108AC35, 0x0, .ldbu 1 2 0x2c35), (0x7208AC35, 0x0, .ldh 1 2 0x2c35),
   (0x7308AC35, 0x0, .ldhu 1 2 0x2c35), (0x7408AC35, 0x0, .ldw 1 2 0x2c35), (0x7508AC35, 0x0, .ldwu 1 2 0x2c35),
   (0x7608AC35, 0x0, .ldd 1 2 0x2c35), (0x7708AC35, 0x0, .stb 1 2 0x2c35), (0x7808AC35, 0x0, .sth 1 2 0x2c35),
   (0x7908AC35, 0x0, .stw 1 2 0x2c35), (0x7A08AC35, 0x0, .std 1 2 0x2c35), (0x7B08A600, 0x0, .ldaq 1 2 .die .b8),
   (0x7C08A600, 0x0, .strl 1 2 .die .b8), (0x7D08875C, 0x0, .amo 1 2 3 .fmax .b8 .die), (0x7E08861C, 0x0, .cas 1 2 3 .b8 .die)] = true := by decide

theorem test_words_vector_1 : readsAll
  [(0x800221F6, 0x0, .vadd 1 2 (.scal 3) 5 .rtz), (0x80422196, 0x0, .vsub 1 2 (.vreg 3) 5 .rtz), (0x808221B6, 0x0, .vmul 1 2 (.bank 3) 5 .rtz),
   (0x80C22056, 0x3EAAAAAB, .vfma 1 2 (.lit 0x3EAAAAAB) 5 .rtz), (0x810221F6, 0x0, .vfms 1 2 (.scal 3) 5 .rtz), (0x81422196, 0x0, .vfnma 1 2 (.vreg 3) 5 .rtz),
   (0x818221B4, 0x0, .vmin 1 2 (.bank 3) 5), (0x81C22054, 0x3EAAAAAB, .vmax 1 2 (.lit 0x3EAAAAAB) 5), (0x82022014, 0x0, .vabs 1 2 5),
   (0x82422014, 0x0, .vneg 1 2 5), (0x828221B4, 0x0, .vmulh 1 2 (.bank 3) 5), (0x82C22054, 0x3EAAAAAB, .vand 1 2 (.lit 0x3EAAAAAB) 5),
   (0x830221F4, 0x0, .vor 1 2 (.scal 3) 5), (0x83422194, 0x0, .vxor 1 2 (.vreg 3) 5), (0x838221B4, 0x0, .vshl 1 2 (.bank 3) 5),
   (0x83C22054, 0x3EAAAAAB, .vshr 1 2 (.lit 0x3EAAAAAB) 5), (0x840221F4, 0x0, .vsra 1 2 (.scal 3) 5), (0x84422194, 0x0, .vcmpeq 1 2 (.vreg 3) 5),
   (0x848221B4, 0x0, .vcmplt 1 2 (.bank 3) 5), (0x84C22054, 0x3EAAAAAB, .vcmple 1 2 (.lit 0x3EAAAAAB) 5), (0x850221F4, 0x0, .vsel 1 2 (.scal 3) 5),
   (0x85422C56, 0x0, .vcvt 1 2 true .fp32 2 5 .rtz), (0x85822016, 0x0, .vrsum 1 2 5 .rtz), (0x85C22014, 0x0, .vrmax 1 2 5),
   (0x86022014, 0x0, .vrmin 1 2 5), (0x86422194, 0x0, .vperm 1 2 3 5), (0x868221F4, 0x0, .vbcast 1 2 3 5)] = true := by decide

theorem test_words_vector_2 : readsAll
  [(0x86C221F4, 0x0, .vslide 1 2 3 5), (0x87022014, 0x0, .vcmprs 1 2 5), (0x87422014, 0x0, .vexpnd 1 2 5),
   (0x87822014, 0x0, .vnz 1 2 5), (0x87C22014, 0x0, .vpopc 1 2 5), (0x88022000, 0x0, .vxchg 1 2),
   (0x88422196, 0x0, .vdot4 1 2 (.vreg 3) 5 .rtz), (0x888221E0, 0x0, .vmovsIns 1 2 3), (0x888221E4, 0x0, .vmovsExt 1 2 3),
   (0x88C22016, 0x0, .vrcp 1 2 5 .rtz), (0x89022016, 0x0, .vrsq 1 2 5 .rtz), (0x89422016, 0x0, .vexp2 1 2 5 .rtz),
   (0x89822016, 0x0, .vlog2 1 2 5 .rtz), (0x89C22016, 0x0, .vsin 1 2 5 .rtz), (0x8A022016, 0x0, .vcos 1 2 5 .rtz),
   (0x8A422016, 0x0, .vtanh 1 2 5 .rtz), (0x8A822016, 0x0, .vsqrt 1 2 5 .rtz), (0x8AC221F6, 0x0, .vdiv 1 2 (.scal 3) 5 .rtz),
   (0x8B022014, 0x0, .vclass 1 2 5), (0x8B4221B4, 0x0, .vvsel 1 2 (.bank 3) 5), (0x8B822054, 0x3EAAAAAB, .vvcmp 1 2 (.lit 0x3EAAAAAB) 5),
   (0x8C022180, 0x0, .pand 1 2 3), (0x8C422180, 0x0, .por 1 2 3), (0x8C822180, 0x0, .pxor 1 2 3),
   (0x8CC22000, 0x0, .pnot 1 2), (0x8D022000, 0x0, .psetn 1 2)] = true := by decide

theorem test_words_float_immediate : readsAll
  [(0x901BFA01, 0x0, .vfaddi 1 0xbfa01), (0x921BFA01, 0x0, .vfmuli 1 0xbfa01), (0x941BFA01, 0x0, .vfmini 1 0xbfa01),
   (0x961BFA01, 0x0, .vfmaxi 1 0xbfa01), (0x981BFA01, 0x0, .vmovi 1 0xbfa01), (0x9A1BFA01, 0x0, .vfrsubi 1 0xbfa01)] = true := by decide

theorem test_words_vector_memory : readsAll
  [(0xA0022185, 0x0, .vld 1 2 3 5), (0xA0422185, 0x0, .vst 1 2 3 5), (0xA0822185, 0x0, .vlds 1 2 3 5),
   (0xA0C22185, 0x0, .vsts 1 2 3 5), (0xA1022185, 0x0, .vgath 1 2 3 5), (0xA1422185, 0x0, .vscat 1 2 3 5),
   (0xA1822185, 0x0, .vldbc 1 2 3 5), (0xA1C22186, 0x0, .strm 1 2 3 true 2), (0xA2020000, 0x0, .unbnd 1),
   (0xA2420001, 0x0, .qbind 1 .dh), (0xA2822000, 0x0, .qmark 1 2), (0xA2C20000, 0x0, .qstat 1),
   (0xA3022007, 0x0, .vldk 1 2 7)] = true := by decide

theorem test_words_engine_1 : readsAll
  [(0xD00221E7, 0x0, .send 1 2 3 true true 7), (0xD04221E7, 0x0, .sendk 1 2 3 true true 7), (0xD0822181, 0x0, .start 1 2 3 true),
   (0xD0C00000, 0x0, .retire), (0xD1022184, 0x0, .bar 1 2 3 .die), (0xD1422184, 0x0, .barw 1 2 3 .die),
   (0xD1822181, 0x0, .waitx 1 2 3 true), (0xD1C20001, 0x0, .inbox 1 true), (0xD2022182, 0x0, .lzdef 1 2 3 2),
   (0xD2422181, 0x0, .lzres 1 2 3 true), (0xD2822186, 0x0, .lzwait 1 2 3 true 2), (0xD2C20002, 0x0, .lzrelRearm 1 2),
   (0xD2C20006, 0x0, .lzrelUndef 1 2), (0xD2C22008, 0x0, .lzrelBk 1 2), (0xD3022001, 0x0, .tkacq 1 2 true),
   (0xD3422001, 0x0, .tkdup 1 2 true), (0xD3822001, 0x0, .tkrel 1 2 true), (0xD3C22001, 0x0, .tksplit 1 2 true),
   (0xD4022001, 0x0, .tkmerge 1 2 true), (0xD4422000, 0x0, .tkqry 1 2), (0xD4822000, 0x0, .leaveGet 1 2),
   (0xD4820001, 0x0, .leavePut 1), (0xD4C22002, 0x0, .enq 1 2 .gte), (0xD5022002, 0x0, .epoll 1 2 .gte),
   (0xD5422002, 0x0, .ecancel 1 2 .gte), (0xD5822180, 0x0, .srel 1 2 3), (0xD5C22180, 0x0, .swait 1 2 3)] = true := by decide

theorem test_words_engine_2 : readsAll
  [(0xD6022180, 0x0, .qslope 1 2 3), (0xD6422180, 0x0, .depdecDec 1 2 3), (0xD6422181, 0x0, .depdecArm 1 2 3)] = true := by decide


/-- Words that the spec writes beside their assembly, of the scalar and control chapters. -/
theorem test_listing_scalar : readsAll
  [(0x10061100, 0, .add 3 1 2 false), (0x10485301, 0, .sub 4 5 6 true), (0x160E8000, 0, .clz 7 8 false),
   (0x17422187, 0, .ext 1 2 3 false 7), (0x178221AA, 0, .sel 1 2 3 5 2), (0x17C0100B, 0, .movpToPredicate 3 1),
   (0x17C20003, 0, .movpToScalar 1 3), (0x1806111C, 0, .fadd 3 1 2 .dyn .f32), (0x18C61101, 0, .ffma 3 1 2 .rne .f64),
   (0x1A022180, 0, .feq 1 2 3 .f32), (0x1AC85024, 0, .fcvtfi 4 5 .i64 .rtz .f32), (0x2008BFFF, 0, .addi 1 2 (-1)),
   (0x27088064, 0, .slti 1 2 100), (0x29192345, 0, .lui 3 0x12345), (0x2A280000, 9, .liw 5 9),
   (0x50088004, 0, .beq 1 2 4), (0x58183FFE, 0, .bp 3 0 (-2)), (0x51083FFD, 0, .bne 1 0 (-3)),
   (0x63E00100, 0, .jal 31 0x100), (0x64220008, 0, .jalr 1 2 8), (0x641F0000, 0, .jalr 0 31 0),
   (0x68A01000, 0, .loop 5 8), (0x6C02000C, 0, .loopi 8 3), (0x01820071, 0, .csrr 1 0x71),
   (0x01C0A001, 0, .csrw 0 10 1), (0x01400023, 0, .fence 4 .clus), (0x02822000, 0, .sleepu 1 2),
   (0x02C20003, 0, .prio 1 3), (0x03000001, 0, .lexit 1), (0x00800007, 0, .brk 7), (0x01000000, 0, .rett)] = true := by decide

/-- Words of the memory, vector and engine chapters. -/
theorem test_listing_vector : readsAll
  [(0x7A2A4000, 0, .std 5 9 0), (0x7B089C00, 0, .ldaq 1 2 .clus .b4), (0x7C289C00, 0, .strl 5 2 .clus .b4),
   (0x7DCDF155, 0, .amo 25 23 24 .fmax .b4 .mod), (0xA300201F, 0, .vldk 0 2 31), (0x80022180, 0, .vadd 1 2 (.vreg 3) 0 .dyn),
   (0x80C612A8, 0, .vfma 3 1 (.bank 5) 2 .dyn), (0x808843E3, 0, .vmul 4 4 (.scal 7) 0 .sr), (0x84841180, 0, .vcmplt 2 1 (.vreg 3) 0),
   (0x80884040, 0x3F800008, .vmul 4 4 (.lit 0x3F800008) 0 .dyn), (0x854A1D80, 0, .vcvt 5 1 true .e4m3 0 0 .dyn),
   (0x854A14A3, 0, .vcvt 5 1 false .bf16 1 0 .sr), (0x858C1000, 0, .vrsum 6 1 0 .dyn), (0x87041004, 0, .vcmprs 2 1 1),
   (0x87861000, 0, .vnz 3 1 0), (0x88109000, 0, .vxchg 8 9), (0x88882364, 0, .vmovsExt 4 2 6), (0x88C43000, 0, .vrcp 2 3 0 .dyn),
   (0x8B821020, 0, .vvcmp 1 1 (.bank 0) 0), (0x8C022180, 0, .pand 1 2 3), (0x8D025000, 0, .psetn 1 5),
   (0x987BFA00, 0, .vmovi 7 0xBFA00), (0x9A33F800, 0, .vfrsubi 3 0x3F800), (0xA0C86400, 0, .vsts 4 6 8 0),
   (0x830202E0, 0, .vor 1 0 (.scal 5) 0)] = true := by decide

theorem test_listing_engine : readsAll
  [(0xD1022185, 0, .bar 1 2 3 .mod), (0xD1280B02, 0, .bar 20 0 22 .oct), (0xD1422185, 0, .barw 1 2 3 .mod),
   (0xD30EA001, 0, .tkacq 7 10 true), (0xD3C22000, 0, .tksplit 1 2 false), (0xD4022000, 0, .tkmerge 1 2 false), (0xD4422000, 0, .tkqry 1 2),
   (0xD1823000, 0, .waitx 1 3 0 false), (0xD1C40000, 0, .inbox 2 false), (0xD2022180, 0, .lzdef 1 2 3 0), (0xD2485300, 0, .lzres 4 5 6 false),
   (0xD2822180, 0, .lzwait 1 2 3 false 0), (0xD2C20000, 0, .lzrelRearm 1 0), (0xD4C64001, 0, .enq 3 4 .cpe), (0xD4EC3003, 0, .enq 22 3 .cre),
   (0xD50A3001, 0, .epoll 5 3 .cpe), (0xD54A3001, 0, .ecancel 5 3 .cpe), (0xD5822180, 0, .srel 1 2 3), (0xD5C22180, 0, .swait 1 2 3),
   (0xD4822000, 0, .leaveGet 1 2), (0xD4820001, 0, .leavePut 1), (0xD6422180, 0, .depdecDec 1 2 3), (0xD6422181, 0, .depdecArm 1 2 3),
   (0xD6121380, 0, .qslope 9 1 7)] = true := by decide

theorem test_listing_lid :
    (decode 0x2B100000 0x55667788 0x11223344).toOption = some (.lid 2 0x55667788 0x11223344) := by decide

/-- R199, R197: the class holes, the zero word, and reserved bits that are not zero. -/
theorem test_words_refused : ([0x30000000, 0x40000000, 0xB0000000, 0xC0000000, 0xE0000000, 0xF0000000, 0, 0x00400001] : List Word32).all
    (fun w => (decode w 0 0).toOption.isNone) = true := by decide

/-! ## Well-formedness: one ill-formed term for each check -/

theorem test_ill_formed_fetched : ([.fence 0 .core, .loop 1 0, .loopi 3 0, .amo 1 2 3 .fadd .b1 .core, .amo 1 2 3 .fadd .b2 .core,
    .amo 1 2 3 .fmax .b1 .core, .amo 1 2 3 .fmax .b2 .core, .vldk 1 2 31, .send 1 2 3 false false 16, .send 1 2 3 false false 18,
    .send 1 2 3 false false 20, .send 1 2 3 false false 31, .sendk 1 2 3 false false 17, .sendk 1 2 25 false false 0, .bar 1 2 3 .ctx,
    .barw 1 2 3 .ctx] : List Instr).all (fun i => !wellFormed i) = true := by decide

theorem test_ill_formed_context_events : ([11, 16 * 4608] : List Nat).all (fun x =>
    ([.deferredTrapEntry x, .missedPromise x, .sleepuWake x, .streamReadahead x 0, .pageTableWalk x 0, .progressWatchdog x] :
      List Instr).all (fun i => !wellFormed i)) = true := by decide

theorem test_ill_formed_core_events : ([.queueEntryLand 4608 false, .commandDecode 4608 .cpe, .commandCompletion 4608 .cpe,
    .heldMessageDeposit 4608, .xsend 4608, .xloop 4608, .xloopChunkStart 4608, .xfill 4608, .gath 4608, .grem 4608, .gpage 4608,
    .scat 4608, .bookingLost 4608 0 1, .bookingLost 0 0 0, .bookingLost 0 0 4096, .pitchSaveTimeout 4608 0, .mma 4608, .mmaq 4608,
    .mdist 4608, .mtopk 4608, .mverd 4608, .mzero 4608, .mldacc 4608, .mstacc 4608, .qgraph 4608, .qvar 4608, .qrun 4608, .qstop 4608,
    .qsample 4608, .qstorm 4608, .spktab 4608, .spkstep 4608, .corePartEnd 4608, .debugHalt 4608, .debugResume 4608,
    .debugStep 4608 0, .debugStep 0 11, .patrolScrub 4608 0 .clean, .patrolScrub 0 32768 .clean] : List Instr).all
      (fun i => !wellFormed i) = true := by decide

theorem test_ill_formed_unit_events : ([.sfuServiceStart 576, .sfuResult 576, .vxchgComplete 576, .mxuTile 576, .leaveGrant 96,
    .gangStart 96, .phaseAChoose 96, .rootBroadcast 96, .phaseBFire 96, .phaseCRespond 96, .sampleTake 96, .lbudgetWrite 96 0,
    .launchRecordArrival 4, .launchAdmit 4, .flitReceive 8 ⟨true, 0, 0, false, []⟩, .replayLimit 8, .fecLockLossTimeout 8, .ackCreditTimeout 8,
    .portRetrain 8, .fecBlockLockLoss 8, .fecBlockLockRegain 8, .hostRegisterWrite 0 4097 true 0, .counterClear 4,
    .msixUnmask 2048] : List Instr).all (fun i => !wellFormed i) = true := by decide

/-- The same checks admit the terms next to those. -/
theorem test_well_formed : ([.fence 1 .core, .loop 1 1, .loopi 0 4095, .amo 1 2 3 .fadd .b4 .core, .amo 1 2 3 .add .b1 .core, .vldk 1 2 30,
    .send 1 2 3 false false 15, .send 1 2 3 false false 19, .sendk 1 2 24 false false 0, .bar 1 2 3 .core, .barw 1 2 3 .mod,
    .deferredTrapEntry 10, .missedPromise (16 * 4607 + 10), .xsend 4607, .bookingLost 0 0 4095, .sfuResult 575, .leaveGrant 95,
    .launchAdmit 3, .flitReceive 7 ⟨true, 0, 0, false, []⟩, .hostRegisterWrite 0 4096 true 0, .counterClear 8, .msixUnmask 2047, .debugStep 0 10,
    .patrolScrub 0 32767 .clean] : List Instr).all wellFormed = true := by decide

/-! ## Single steps -/

/-- A scalar register of the context of the turn, written. -/
def reg (s : State) (r : Reg) (w : Word) : State := setSreg s r w
/-- A vector register. -/
def vreg (s : State) (r : Reg) (v : Vec) : State := setCur s (vput (cur s) r v)
/-- Context 0 of core 0, which runs launch 0 of that core alone, is READY. -/
def ran : State := State.reset.withFetchWord 0 0
/-- What holds of the state that an instruction leads to. -/
def after (i : Instr) (s : State) (p : State → Bool) : Bool := match exec i s with | .next t => p t | _ => false
/-- s[r] after the instruction is `w`. -/
def leavesS (i : Instr) (s : State) (r : Reg) (w : Word) : Bool := after i s (fun t => sreg t r == w)

theorem test_add_wraps : leavesS (.add 1 2 3 false) (reg (reg ran 2 0xFFFFFFFFFFFFFFFF) 3 2) 1 1 = true := by decide
theorem test_add_word_is_sign_extended : leavesS (.add 1 2 3 true) (reg (reg ran 2 0x7FFFFFFF) 3 1) 1 0xFFFFFFFF80000000 = true := by decide
theorem test_s0_stays : leavesS (.add 0 2 3 false) (reg (reg ran 2 5) 3 2) 0 0 = true := by decide
theorem test_sub_is_ordered : leavesS (.sub 2 2 3 false) (reg (reg ran 2 5) 3 2) 2 3 = true := by decide
theorem test_mulh_signed : leavesS (.mulh 1 2 3 false) (reg (reg ran 2 (-1)) 3 2) 1 (-1) = true := by decide
theorem test_mulhu_unsigned : leavesS (.mulhu 1 2 3 false) (reg (reg ran 2 (-1)) 3 2) 1 1 = true := by decide
theorem test_div_truncates : leavesS (.div 1 2 3 false) (reg (reg ran 2 (-7)) 3 2) 1 (-3) = true := by decide
theorem test_div_by_zero : leavesS (.divu 1 2 3 false) (reg ran 2 7) 1 (-1) = true := by decide
theorem test_rem_of_least : leavesS (.rem 1 2 3 false) (reg (reg ran 2 0x8000000000000000) 3 (-1)) 1 0 = true := by decide
theorem test_remu_by_zero : leavesS (.remu 1 2 3 false) (reg ran 2 7) 1 7 = true := by decide
theorem test_shl_mod_width : leavesS (.shl 1 2 3 true) (reg (reg ran 2 3) 3 33) 1 6 = true := by decide
theorem test_sra_sign : leavesS (.sra 1 2 3 false) (reg (reg ran 2 0x8000000000000000) 3 63) 1 (-1) = true := by decide
theorem test_rotr : leavesS (.rotr 1 2 3 false) (reg (reg ran 2 1) 3 1) 1 0x8000000000000000 = true := by decide
theorem test_min_signed : leavesS (.min 1 2 3 false) (reg (reg ran 2 (-1)) 3 1) 1 (-1) = true := by decide
theorem test_minu_unsigned : leavesS (.minu 1 2 3 false) (reg (reg ran 2 (-1)) 3 1) 1 1 = true := by decide
theorem test_clz_word : leavesS (.clz 1 2 true) (reg ran 2 1) 1 31 = true := by decide
theorem test_ctz_zero : leavesS (.ctz 1 2 false) ran 1 64 = true := by decide
theorem test_bswap : leavesS (.bswap 1 2 true) (reg ran 2 0x11223344) 1 0x44332211 = true := by decide
theorem test_ext_signed : leavesS (.ext 1 2 3 true 3) (reg (reg ran 2 0xF0) 3 4) 1 (-1) = true := by decide
theorem test_lui : leavesS (.lui 1 0x7FFFF) ran 1 0xFFFFFFFFFFFFE000 = true := by decide
theorem test_lid : leavesS (.lid 1 0x55667788 0x11223344) ran 1 0x1122334455667788 = true := by decide
theorem test_sltui_of_negative : leavesS (.sltui 1 2 0x3FFF) (reg ran 2 5) 1 1 = true := by decide
theorem test_branch_taken : after (.blt 2 3 0x3FFF) (reg ran 2 (-1)) (fun t => (cur t).pc == 0xFFFFFFFFFFFFFFFC) = true := by decide
theorem test_jal_links : after (.jal 31 3) ran (fun t => sreg t 31 == 4 && (cur t).pc == 12) = true := by decide
theorem test_jalr_reads_before_link : after (.jalr 1 1 8) (reg ran 1 0x100) (fun t => sreg t 1 == 4 && (cur t).pc == 0x108) = true := by decide
theorem test_loopi_opens : after (.loopi 3 2) ran (fun t => (cur t).ldepth == 1 && (cur t).lc[0] == 3 && (cur t).ls[0] == 4
    && (cur t).le[0] == 8 && (cur t).pc == 4) = true := by decide
theorem test_csrr_mfmt : leavesS (.csrr 1 0x40) ran 1 0x8BB = true := by decide
theorem test_csrc_clears_flags : after (.csrc 1 2 0x11) (reg (setCur ran { cur ran with fcsr := 0x7F }) 2 0x10)
    (fun t => sreg t 1 == 0x7F && (cur t).fcsr == 0x6F) = true := by decide
theorem test_brk_enters : after (.brk 7) (setCur ran { cur ran with tvec := 0x100 }) (fun t => (cur t).pc == 0x100 && (cur t).tcause == 0x0D
    && (cur t).tval == 7 && (cur t).tpc == 0 && (cur t).t) = true := by decide
theorem test_rett_returns : after .rett (setCur ran { cur ran with t := true, pm := true, tpc := 0x40 }) (fun t => (cur t).pc == 0x40
    && (cur t).sm && !(cur t).t) = true := by decide
theorem test_fadd_f32 : leavesS (.fadd 1 2 3 .rne .f32) (reg (reg ran 2 0x3F800000) 3 0x40000000) 1 0x40400000 = true := by decide
theorem test_fdiv_by_zero : after (.fdiv 1 2 3 .rne .f64) (reg ran 2 0x3FF0000000000000)
    (fun t => sreg t 1 == 0x7FF0000000000000 && (cur t).fcsr == 8) = true := by decide
theorem test_fcvtfi_saturates : after (.fcvtfi 1 2 .n32 .rtz .f64) (reg ran 2 0xBFF0000000000000)
    (fun t => sreg t 1 == 0 && (cur t).fcsr == 16) = true := by decide
theorem test_store_then_load : after (.stw 2 3 0x40) (reg (reg ran 2 0x80C0FFEE) 3 0x1000)
    (fun t => leavesS (.ldw 4 3 0x40) t 4 0xFFFFFFFF80C0FFEE && leavesS (.ldbu 4 3 0x41) t 4 0xFF) = true := by decide
theorem test_ldd_top_of_slice_faults : after (.ldd 1 2 0) (reg ran 2 0x3FFFC) (fun t => (getLaunch t 0).fcnt == 1) = true := by decide
theorem test_amo_max_signed : after (.amo 1 2 3 .max .b1 .core) (reg (reg ran 2 0x100) 3 0x80)
    (fun t => sreg t 1 == 0 && mget t.mem (sliceKey 0 0x100) == 0) = true := by decide
theorem test_cas_swaps : after (.cas 1 2 3 .b4 .core) (reg (reg ran 2 0x100) 3 9)
    (fun t => sreg t 1 == 0 && mget t.mem (sliceKey 0 0x100) == 9) = true := by decide
theorem test_amo_misaligned : after (.amo 1 2 3 .add .b4 .core) (reg (setCur ran { cur ran with tvec := 0x100 }) 2 0x102)
    (fun t => (cur t).tcause == 3 && (cur t).tval == 0x102) = true := by decide
theorem test_psetn : after (.psetn 1 2) (reg ran 2 3) (fun t => preg t 1 == 7) = true := by decide
theorem test_vadd : after (.vadd 1 2 (.vreg 3) 0 .dyn) (vreg (vreg ran 2 0x3F800000) 3 0x40000000)
    (fun t => elem (vfile (cur t) 1) 32 0 == 0x40400000) = true := by decide +kernel
theorem test_vnz : after (.vnz 1 2 0) (vreg ran 2 (1#512 <<< 40)) (fun t => sreg t 1 == 2) = true := by decide +kernel
theorem test_vmovs_ins : after (.vmovsIns 1 2 3) (reg (reg ran 2 0x12345678) 3 1) (fun t => vfile (cur t) 1 == 0x12345678#512 <<< 32) = true := by
  decide +kernel

/-- The instruction placed is the one the next step runs, and the one the decoder reads. -/
theorem test_fetch_word : (match step (State.reset.withFetchWord 32 0x20088005) with | .next t => sreg t 1 == 5 | _ => false) = true
    ∧ decodeTableWord 32 0x20088005 = some (.addi 1 2 5) := by decide +kernel

/-! ## The hypotheses of the statements are met

One theorem for each statement with hypotheses: a state and operands that meet the hypotheses of each of its clauses. -/

/-- The step goes on. -/
def goes (o : Host.Outcome State Fault Refusal) : Bool := match o with | .next _ => true | _ => false

theorem exists_next {o : Host.Outcome State Fault Refusal} (h : goes o = true) : ∃ t, o = .next t := by
  cases o with
  | next t => exact ⟨t, rfl⟩
  | fault _ => simp [goes] at h
  | refused _ => simp [goes] at h

/-- The context of the turn, replaced. -/
def withCur (s : State) (f : Ctx → Ctx) : State := setCur s (f (cur s))
/-- Context 0 with a trap handler at 0x100. -/
def handled : State := withCur ran (fun c => { c with tvec := 0x100 })

theorem test_meets_DecodeInvertsEncode : encode (.lid 31 0xFFFFFFFF 0) ≠ [] ∧ wellFormed (.lid 31 0xFFFFFFFF 0) = true := by decide
theorem test_meets_EncodeInvertsDecode : (decode 0x7C289C00 0 0).toOption = some (.strl 5 2 .clus .b4) := by decide
theorem test_meets_FormatsPlaceTheFields : (1 : BitVec 12) ≠ 0 := by decide
theorem test_meets_SpecWordsDecode : (0 : Word32) = 0 ∧ fld 0xFFFFFFFF 28 4 ∈ [3#4, 4#4, 0xB#4, 0xC#4, 0xE#4, 0xF#4] := by decide

/-- The agenda issues context 0, whose program counter holds a word that decodes, and one that does not. -/
theorem test_meets_StepRunsTheDecodedInstruction_agenda : ∀ w ∈ ([0x20088005, 0] : List Nat),
    let s := State.reset.withFetchWord 32 w; let s0 := { s with agenda := [] }
    issues s s0 0 ∧ mayIssue s0 0 = true ∧ dueTrap s0 0 = none ∧ codeAt (noteIssue s0 0) 0 (getCtx s0 0).pc (bytesOfNat 12 w)
      ∧ (bytesOfNat 12 w).length = 12 := by
  intro w hw s s0
  refine ⟨.inl ⟨[], rfl, rfl⟩, ?_⟩
  unfold codeAt
  revert w
  decide +kernel

/-- With an empty agenda and no event due, the machine's own choice is that context. -/
theorem test_meets_StepRunsTheDecodedInstruction_choice : (match choose { ran with agenda := [] } with | some (.issue x) => x == 0 | _ => false) = true := by
  decide +kernel

theorem test_meets_StepKeepsMemoryCanonical : memInv ran ∧ ∃ t, step ran = .next t :=
  ⟨by unfold memInv; decide, exists_next (by decide +kernel)⟩

/-- Each condition of a branch holds somewhere and fails somewhere; a target of JALR is aligned and misaligned. -/
theorem test_meets_BranchesAndJumps :
    let s := reg (reg ran 1 (-1)) 2 63
    (sreg s 1 = sreg s 1 ∧ sreg s 1 ≠ sreg s 2) ∧ ((sreg s 1).toInt < (sreg s 2).toInt ∧ (sreg s 2).toInt ≥ (sreg s 1).toInt)
    ∧ (sreg s 2 < sreg s 1 ∧ sreg s 2 ≤ sreg s 1 ∧ ¬ sreg s 1 < sreg s 2)
    ∧ ((sreg s 1).getLsbD ((sreg s 2).toNat % 64) = true ∧ (sreg s 3).getLsbD ((sreg s 2).toNat % 64) = false)
    ∧ (preg s 0 &&& preg s 0 ≠ 0 ∧ preg s 0 &&& preg s 1 = 0)
    ∧ ((sreg s 3 + (0xFFFC#16).signExtend 64).toNat % 4 = 0 ∧ (sreg s 1).toNat % 4 ≠ 0) := by decide

/-- An empty stack, three and four live loops; the counts 0, 1, 2; the last body word at the end of the slice. -/
theorem test_meets_Loops :
    let deep := fun (n : Nat) => withCur (reg ran 5 2) (fun c => { c with ldepth := n, lc := #v[1, 2, 1, 2], le := #v[0, 0, 8, 0x3FFFC] })
    (sreg (deep 3) 5 ≠ 0 ∧ (cur (deep 3)).ldepth < 4) ∧ (sreg (deep 4) 5 ≠ 0 ∧ 4 ≤ (cur (deep 4)).ldepth)
    ∧ (sreg (deep 4) 0 = 0 ∧ codeAt (deep 4) 0 ((cur (deep 4)).pc + 4 * (1#12).setWidth 64) [0, 0, 0, 0])
    ∧ codeAt ran 0 (0x3FFFC) [0, 0, 0, 0] ∧ (cur (deep 3)).ldepth < 3 + 1
    ∧ (4 ≤ (cur (deep 4)).ldepth ∧ (cur (deep 4)).ldepth ≤ 4 ∧ codeAt (deep 4) 0 ((cur (deep 4)).le[3]) [0, 0, 0, 0])
    ∧ (cur ran).ldepth = 0
    ∧ (cur (deep 3)).le[2] ≠ (cur (deep 3)).pc ∧ ((cur (deep 2)).le[1] = (cur (deep 2)).pc ∧ 1 < (cur (deep 2)).lc[1].toNat)
    ∧ ((cur (deep 1)).le[0] = (cur (deep 1)).pc ∧ (cur (deep 1)).lc[0].toNat ≤ 1) := by
  unfold codeAt
  decide +kernel

theorem test_meets_ControlRegisters :
    ((csrAcc 0x5C).isSome ∧ csrAcc 0x5C ≠ some .sOnly) ∧ ((csrAcc 0x800).isSome ∧ (cur (withCur ran (fun c => { c with sm := true }))).sm = true)
    ∧ ((5#12, 0xFFFFFFFFFFFFFFFC#64) ∈ rwRegisters) ∧ csrAcc 0x803 = none ∧ csrAcc 8 = none
    ∧ ((cur ran).sm = false ∧ csrAcc 0x802 = some .sOnly ∧ csrAcc 0 = some .r ∧ csrAcc 0x80 = some .r) := by decide

theorem test_meets_Scheduling :
    let far := withCur ran (fun c => { c with acks := [7] })
    let asleep := withCur ran (fun c => { c with st := .blocked, wait := some (.sleep 0 3) })
    (cur ran).acks = [] ∧ ((cur far).acks ≠ [] ∧ Scope.clus ≠ .ctx ∧ 4 ≤ (4#4).toNat) ∧ (3#4).toNat < 4
    ∧ ((sreg ran 1).toNat ≤ nowNs ran ∧ nowNs ran < (sreg (reg ran 1 1) 1).toNat)
    ∧ ((getCtx asleep 0).st = .blocked ∧ (getCtx asleep 0).wait = some (.sleep 0 3) ∧ 0 ≤ nowNs asleep)
    ∧ (1 ∈ [0, 1] ∧ (getCtx ran 1).yieldTo ≤ ran.cycle
        ∧ ran.cycle < (getCtx (withCur ran (fun c => { c with yieldTo := 5 })) 0).yieldTo) := by decide

theorem test_meets_Traps :
    let late := withCur handled (fun c => { c with st := .blocked, wait := some (.prom 1 0 3) })
    let held := withCur handled (fun c => { c with held := [{ cause := 0x05, tval := 9 }] })
    let back := fun (t m : Bool) (pc : Word) => withCur ran (fun c => { c with t := t, mkr := m, tpc := pc, mpc := pc })
    ((getCtx (back true false 0) 0).t = true ∧ (cur ran).tvec = 0) ∧ ((cur handled).t = false ∧ (cur handled).tvec ≠ 0)
    ∧ handlerAt handled handled.turn 0x100
    ∧ (let s := setCore ran 0 { getCore ran 0 with svec := 0x200 }; (cur s).t = false ∧ (getCore s (curCore s)).svec = 0x200)
    ∧ ((cur (back true false 0x40)).t = true ∧ (cur (back true false 0x42)).tpc.toNat % 4 ≠ 0)
    ∧ ((cur (back false true 0x40)).mkr = true ∧ (cur (back false true 0x42)).mpc.toNat % 4 ≠ 0)
    ∧ ((cur (back false false 0)).t = false ∧ (cur (back false false 0)).mkr = false)
    ∧ (handlerAt held 0 0x100 ∧ (getCtx held 0).st = .ready ∧ (getCtx held 0).held = [{ cause := 0x05, tval := 9 }])
    ∧ (handlerAt late 0 0x100 ∧ (getCtx late 0).st = .blocked ∧ (getCtx late 0).wait = some (.prom 1 0 3)
        ∧ (0 : Word).toNat ≤ nowNs late ∧ (getCore late (coreOf 0)).xwm < (1 : Word).toNat) := by
  unfold handlerAt
  decide +kernel

theorem test_meets_FloatArithmeticRounds :
    (rselMode (cur ran) .dyn = some .rne ∧ rselMode (cur ran) .rtz = some .rtz) ∧ (FFmt.f32 = .f32 → isAband ((sreg ran 1).toNat % 2 ^ 32) = false)
    ∧ (RMode.rtz ≠ .sr ∧ 2 ^ 64 - 1 < 2 ^ fmtBits (ffmt .f64) ∧ 0x7F800001 < 2 ^ fmtBits (ffmt .f32))
    ∧ fval fmt32 0x7F800001 = .nan true ∧ fval fmt32 0x7FC00000 = .nan false := by decide +kernel

theorem test_meets_FloatComparisonsAndConversions :
    let bad := withCur (reg ran 1 0x7FC0A000) (fun c => { c with fcsr := 0x500 })
    isAband ((sreg ran 1).toNat % 2 ^ 32) = false ∧ rselMode (cur ran) .dyn = some .rne
    ∧ (5 ≤ bits (cur bad).fcsr 8 3 ∧ rselMode (cur bad) .dyn = none)
    ∧ ((rselMode (cur ran) .rtz).isSome ∧ isAband ((sreg (reg ran 1 0xFFBF0001) 1).toNat % 2 ^ 32) = true) := by decide +kernel

/-- Tracked memory at 2^40, whose token this module holds in DUP. -/
def tracked : State := { handled with
  tlb := [{ tlb := .data 0, asid := 0, va := 2 ^ 40, size := 2 ^ 21, pa := 0, ent := 0x6D }]
  regions := [{ base := 2 ^ 40, size := 2 ^ 21, home := 1, back := 0, own := Vector.replicate 32 .dup }] }

/-- Both ends of every range; one address for each way an access ends. -/
theorem test_meets_AddressesAreMapped :
    (∀ v ∈ ([0, 0x3FFFF, 0x1000000, 0x1BFFFFF, 0x100000000, 0x17FFFFFFF, 0x40000, 0xFFFFFF, 0x1C00000, 0xFFFFFFFF, 0x180000000, 2 ^ 40 - 1,
        2 ^ 47, 2 ^ 64 - 1] : List Nat), v < 0x40000 ∨ (0x1000000 ≤ v ∧ v < 0x1C00000) ∨ (0x100000000 ≤ v ∧ v < 0x180000000)
      ∨ ((0x40000 ≤ v ∧ v < 0x1000000) ∨ (0x1C00000 ≤ v ∧ v < 0x100000000) ∨ (0x180000000 ≤ v ∧ v < 2 ^ 40) ∨ 2 ^ 47 ≤ v))
    ∧ (accOf ran .load).own = false ∧ (cur ran).answers = []
    ∧ (resolve ran (accOf ran .load) 0x118000000 = .oor ∧ resolve ran (accOf ran .store) 0x118000000 = .oor)
    ∧ (resolve ran (accOf ran .load) 0x40000 = .xlate ∧ resolve ran (accOf ran .store) (-1) = .xlate)
    ∧ (resolve ran (accOf ran .load) 0x1040000 = .prot ∧ resolve ran (accOf ran .store) 0x100040000 = .prot)
    ∧ resolve tracked (accOf tracked .store) 0x10000000000 = .token
    ∧ (let s := { ran with poison := [sliceKey 0 0] }; resolve s (accOf s .load) 7 = .cell (sliceKey 0 7) ∧ poisoned s (sliceKey 0 7) = true) := by
  decide +kernel
/-- Pages of each TYPE, here and elsewhere, permitted, barred, ordered and tracked. -/
theorem test_meets_AddressesAreMapped_pages :
    let leaf := fun (pa : Nat) (e : Word) => { ran with dims := (2, 1, 1, 1), tlb := [{ tlb := .data 0, asid := 0, va := 2 ^ 40, size := 2 ^ 21, pa := pa, ent := e }] }
    let region := fun (st : TokSt) => { ran with regions := [{ base := 2 ^ 40, size := 2 ^ 21, home := 0, back := 0, own := Vector.replicate 32 st }] }
    (∀ q ∈ ([(0, 0x2D), (2 ^ 52, 0x21), (2 ^ 53, 0xAD), (2 ^ 53 + 2 ^ 40, 0x6D)] : List (Nat × Word)),
      translate (leaf q.1 q.2) (accOf ran .load) 0 (2 ^ 40 + 5) = .page { size := 2 ^ 21, pa := q.1, ent := q.2 }) ∧ (launchRec (leaf 0 0) 0).ptroot = 0
    ∧ (jobNode (leaf 0 0) 1 = true ∧ jobNode ran 1 = false ∧ myNode ran = 0 ∧ ran.hwOld = none ∧ (accOf ran .load).slice = false)
    ∧ ∀ st ∈ [TokSt.none, .dup, .excl], (regionOf (region st) (2 ^ 40 + 5)).map (fun r => r.own[tokenIx r (2 ^ 40 + 5)]) = some st := by
  refine ⟨?_, ?_, ?_, ?_⟩ <;> decide +kernel

/-- The last bytes of the slice, a slice of the cluster window that is the core's own, tracked memory. -/
theorem test_meets_LoadsAndStores :
    located ran .load 0x3FFF8 8 (fun j => sliceKey 0 (0x3FFF8 + j)) ∧ located ran .store 0x3FFFD 3 (fun j => sliceKey 0 (0x3FFFD + j))
    ∧ located ran .store 0x1000001 4 (fun j => sliceKey 0 (1 + j)) ∧ located tracked .load 0x10000000000 8 (fun j => dramKey j)
    ∧ ((2#64).toNat % 4 ≠ 0 ∧ (8#64).toNat % 8 = 0) ∧ (cur ran).acks = [] ∧ (cur (withCur ran (fun c => { c with acks := [1] }))).acks ≠ [] := by
  unfold located
  decide +kernel

theorem test_meets_Atomics :
    let k := fun j => sliceKey 0 (0x3FFF8 + j)
    let aband := { ran with mem := [(sliceKey 0 0x3FFFA, 0xBF), (sliceKey 0 0x3FFFB, 0x7F)] }
    located ran .amo 0x3FFF8 8 k ∧ located ran .amo 0x3FFF8 4 k ∧ (0x3FFF8#64).toNat % 8 = 0 ∧ (cur ran).acks = [] ∧ (1#64).toNat % 2 ≠ 0
    ∧ (isAband 0 = false ∧ cellsNat ran k 4 = 0) ∧ (isAband 0x7FBF0000 = true)
    ∧ located aband .amo 0x3FFF8 4 k ∧ isAband (cellsNat aband k 4) = true
    ∧ aboveT .f32 0x3F800000 (cellsNat ran k 4) = true ∧ aboveT .f64 0 (cellsNat ran k 8) = false
    ∧ (cellsNat ran k 8 = (sreg ran 1).toNat % 2 ^ 64 ∧ cellsNat ran k 1 ≠ (sreg (reg ran 1 0xFF) 1).toNat % 2 ^ 8) := by
  unfold located
  decide +kernel

/-- No register is bound where no generator and no queue is, and with the upper bank ON every register may be named. -/
theorem plain_of {s : State} (l : List Reg) (hg : (cur s).gens = Vector.replicate 4 none) (hq : (cur s).qb = []) (hu : (cur s).ub = 0) :
    plainRegs s l := by
  refine ⟨fun r _ => ⟨fun g x h => ?_, fun q h => ?_⟩, .inl hu⟩
  · rw [hg] at h; simp at h
  · rw [hq] at h; simp at h

/-- Context 0 with an element type in ctl.vfmt. -/
def typed (w : BitVec 4) : State := withCur ran (fun c => { c with vfmt := w })

theorem plain_typed (w : BitVec 4) (l : List Reg) : plainRegs (typed w) l := plain_of l rfl rfl rfl

/-- Registers that hold no abandoned element, and a b operand that is a register. -/
theorem noAband_zero (w : BitVec 4) (t : ETy) (l : List Reg) (r : Reg) (p : PReg) : noAband (typed w) t l (some (.vreg r)) p := by
  have hv : ∀ r : Reg, vfile (cur (typed w)) r = 0 := by
    intro r
    have : (cur (typed w)).v = Vector.replicate 32 0 := rfl
    simp [vfile, this]
  refine ⟨fun _ r _ j _ _ => ?_, fun _ w h => ?_⟩
  · rw [hv]; simp [elem, isAband]
  · simp [bWord] at h

/-- Every kind of type, both ways of rounding. -/
theorem test_meets_VectorArithmeticAndOrder :
    ((vtype (cur (typed 8)) = some .fp32 ∧ rounds (typed 8) .fp32 .dyn .rne) ∧ (vtype (cur (typed 2)) = some .i32 ∧ rounds (typed 2) .i32 .dyn .rne)
      ∧ (vtype (cur (typed 0)) = some .i8 ∧ isFloat .i8 = false))
    ∧ plainRegs (typed 8) (1 :: 2 :: bRegs (.vreg 31)) ∧ noAband (typed 8) .fp32 (1 :: 2 :: bRegs (.vreg 31)) (some (.vreg 31)) 0
    ∧ (vtype (cur (typed 0)) = some .i8 ∧ rounds (typed 0) .i8 .dyn .rne ∧ ETy.i8 ≠ .i32 ∧ ETy.i8 ≠ .fp32)
    ∧ (∀ g < 16, isAband (elem (vfile (cur (typed 10)) 1) 32 g) = false) := by
  refine ⟨?_, plain_typed _ _, noAband_zero _ _ _ _ _, ?_, ?_⟩
  · unfold rounds; decide +kernel
  · unfold rounds; decide +kernel
  · decide +kernel

theorem test_meets_VectorComparisonsLogicAndPredicates :
    vtype (cur (typed 8)) = some .fp32 ∧ plainRegs (typed 8) (2 :: bRegs (.vreg 3)) ∧ noAband (typed 8) .fp32 (2 :: bRegs (.vreg 3)) (some (.vreg 3)) 1
    ∧ isAband ((0xFFFFF#20).toNat * 2 ^ 12) = false ∧ (∀ n < 16, isAband (elem (vfile (cur (typed 8)) 1) 32 n) = false)
    ∧ dynMode (cur (typed 8)) = some .rne ∧ vtype (cur (typed 9)) = some .bf16 :=
  ⟨by decide, plain_typed _ _, noAband_zero _ _ _ _ _, by decide, by decide +kernel, by decide, by decide⟩

/-- VCVT at the last PART and beyond it, with and without SC. -/
theorem test_meets_VectorMovesConversionsAndReductions :
    (vtype (cur (typed 8)) = some .fp32 ∧ RMode.rne ≠ .sr ∧ xMode (cur (typed 8)) .dyn = some .rne ∧ isFloat .fp32 = true)
    ∧ (max (tyWidth .fp32) (tyWidth .i8) / min (tyWidth .fp32) (tyWidth .i8) = 4 ∧ (3#2).toNat < 4)
    ∧ (max (tyWidth .fp32) (tyWidth .bf16) / min (tyWidth .fp32) (tyWidth .bf16) ≤ (2#2).toNat)
    ∧ (isFloat .i8 = false ∧ isFloat .i16 = false ∧ vtype (cur (typed 0)) = some .i8)
    ∧ isAband ((sreg (typed 8) 1).toNat % 2 ^ 32) = false ∧ (∀ j < 16, isAband (elem (vfile (cur (typed 8)) 2) 32 j) = false)
    ∧ plainRegs (typed 8) [1, 2] ∧ plainRegs (typed 8) [1, 2, 3] ∧ rounds (typed 8) .fp32 .rtz .rtz
    ∧ noAband (typed 8) .fp32 [2] (some (.vreg 2)) 0 :=
  ⟨by decide, by decide, by decide, by decide, by decide, by decide +kernel, plain_typed _ _, plain_typed _ _,
    by unfold rounds; decide, noAband_zero _ _ _ _ _⟩

/-- An illegal type, a reserved rounding field and mode, an upper bank that is OFF, an abandoned element. -/
theorem test_meets_VectorChecks :
    let off := withCur ran (fun c => { c with ub := 2, fcsr := 0x700 }); let bad := vreg ran 2 (BitVec.ofNat 512 (0x7FBF0000 * 2 ^ 480))
    vtype (cur (typed 15)) = none ∧ (vtype (cur (typed 0)) = some .i8 ∧ isFloat .i8 = false ∧ XMode.rtz ≠ .dyn)
    ∧ (vtype (cur off) = some .fp32 ∧ dynMode (cur off) = none) ∧ (rounds off .fp32 .rtz .rtz ∧ (cur off).ub = 2 ∧ 16 ≤ (16#5).toNat)
    ∧ (15 < 16 ∧ pbit (preg bad 0) 15 = true ∧ isAband (elem (vfile (cur bad) 2) 32 15) = true
        ∧ ∀ j < 15, pbit (preg bad 0) j = true → isAband (elem (vfile (cur bad) 2) 32 j) = false) := by
  unfold rounds
  decide +kernel

/-- A request that waits, and one whose 20 cycles are over. -/
theorem test_meets_SpecialFunctions :
    let r : SfuReq := { ctx := 0, i := .vrcp 1 2 0 .dyn, reads := [2], res := { v := some (1, 0) }, cycles := 4, begun := none }
    let s := { setOct (typed 8) 0 { getOct (typed 8) 0 with sfuq := [r] } with cycle := 20 }
    let u := { setOct (typed 8) 0 { getOct (typed 8) 0 with sfuq := [{ r with begun := some 0 }] } with cycle := 20 }
    (isFloat .fp32 = true ∧ rounds (typed 8) .fp32 .dyn .rne ∧ (getOct (typed 8) (octOf (curCore (typed 8)))).sfuq.length < 16)
    ∧ (fmt32.e4 = false ∧ fmtE5 ∈ [fmt32, fmtB16, fmt16, fmtE5] ∧ fmtE5.e4 = false)
    ∧ ((getOct s 0).sfuq = [r] ∧ ∀ e ∈ [r], e.begun = none)
    ∧ ((getOct u 0).sfuq = [] ++ { r with begun := some 0 } :: [] ∧ 0 + 20 ≤ u.cycle ∧ r.res.v = some (1, 0) ∧ r.res.p = none
        ∧ r.res.s = none ∧ r.res.rng = none) := by
  unfold rounds
  decide +kernel

/-- A message of this module, waiting for its unit. -/
def msgFor (cls : Nat) (body : Body) : Packet := mkPacket ran cls 0 0 body
/-- The state in which one message waits. -/
def waiting (s : State) (body : Body) : State := { s with arrived := [msgFor 0 body] }
/-- Core 0 changed. -/
def withCore (s : State) (f : Core → Core) : State := setCore s 0 (f (getCore s 0))
/-- The message that waits is the one taken, whatever the test on its body, and whichever messages are in one order with it. -/
def takes (s : State) (p : Packet → Bool) (b : Packet → Bool) : Bool :=
  match takeArrived s p 0, takeOrdered s (fun _ _ => true) p 0 with | some (pk, _), some (q, _) => b pk && b q | _, _ => false

theorem taken {s : State} {p : Packet → Bool} {b : Packet → Bool} (h : takes s p b = true) :
    ∃ pk s1, takeArrived s p 0 = some (pk, s1) ∧ b pk = true := by
  unfold takes at h
  split at h
  · exact ⟨_, _, by assumption, (Bool.and_eq_true _ _ ▸ h).1⟩
  · cases h

/-- An octet whose cores are one launch's, and one with a core outside it; eight arrivals; a queue full but for one entry, with a landed
head, a marker at the head; a head that is ready to land. -/
theorem test_meets_ExchangeAndNeighbourQueues :
    let vx : List VxArr := (List.range 8).map (fun j => { ctx := 16 * j, d := 1, a := 2, src := 0, time := 0 })
    let oct := { ran with cores := (List.range 8).map (fun k => (k, getCore ran 0)), cycle := 8, octs := [(0, { vx := vx })] }
    let y : QEntry := { data := 0, marker := none, landed := true, ready := 0 }
    let q := fun (e : QEnd) (l : List QEntry) => withCore (withCur ran (fun c => { c with qb := [(1, e)], mvec := 0x80 })) (fun c => { c with ql := l, qh := l })
    (∀ j < 8, launchOf oct (octOf (curCore oct) * 8 + j) = launchOf oct (curCore oct))
    ∧ (∀ r ∈ (getOct ran 0).vx, coreOf r.ctx ≠ 0) ∧ launchOf ran 7 ≠ launchOf ran 0
    ∧ ((getOct oct 0).vx = vx
        ∧ ∀ j < 8, coreOf (16 * j) = 8 * 0 + j ∧ 0 + 8 ≤ oct.cycle ∧ (getCtx oct (16 * j)).qb = [] ∧ (getCtx oct (16 * j)).ub = 0)
    ∧ launchOf ran (queueAt (curCore ran) .dl).1 = launchOf ran (curCore ran)
    ∧ (∀ i < 11, 16 * curCore ran + i ≠ ran.turn → (getCtx ran (16 * curCore ran + i)).qb = [] ∧ (getCtx ran (16 * curCore ran + i)).wait = none)
    ∧ ((cur (q .dl [y])).qb.find? (fun w => w.1 == 1) = some (1, .dl) ∧ queueOf (q .dl [y]) (queueAt 0 .dl) = [y] ∧ (cur (q .dl [y])).mvec ≠ 0)
    ∧ (queueOf (q .dl [{ y with landed := false }]) (0, true) = [{ y with landed := false }] ∧ y.ready ≤ ran.cycle)
    ∧ ((cur (q .eh (List.replicate 7 y))).qb.find? (fun w => w.1 == 1) = some (1, .eh) ∧ (queueOf (q .eh (List.replicate 7 y)) (0, true)).length < 8) := by
  decide +kernel

/-- Every element on a local cell: at the end of the slice, at stride 0, at lane offsets 0; generators that have and lack groups. -/
theorem test_meets_VectorMemoryAndStreams :
    let on := fun (g : Nat) => decide (g < 16) && pbit (preg ran 0) g
    let g := fun (wr : Bool) (l : List Ahead) => withCur ran (fun c => { c with
      gens := #v[none, none, none, some { reg := 31, wr := wr, next := 0x3FFC0, stride := 64, left := 4, ahead := l }] })
    locatedElems ran .load 4 on (fun g => 0x3FFC0 + 4 * BitVec.ofNat 64 g) (fun g k => sliceKey 0 (0x3FFC0 + 4 * g + k))
    ∧ locatedElems ran .store 4 on (fun _ => 0) (fun _ k => sliceKey 0 k)
    ∧ locatedElems ran .load 4 (fun j => decide (j ≤ 0)) (fun j => 0x3FFFC + 4 * BitVec.ofNat 64 j) (fun _ k => sliceKey 0 (0x3FFFC + k))
    ∧ (0x3FFFC#64).toNat + 4 ≤ 2 ^ 40 ∧ preg ran 0 ≠ 0 ∧ (31#5).toNat + (0#5).toNat < 32
    ∧ ((64#32).signExtend 64).toNat % 4 = 0 ∧ ((0x100000040 : Word).toNat / 2 ^ 32 ≠ 0) ∧ ((2#32).signExtend 64).toNat % 4 ≠ 0
    ∧ (∀ n ∈ ([0, 3] : List Nat), (cur (g false (List.replicate n .came))).gens[3].map (fun x => (x.wr, x.ahead.length)) = some (false, n))
    ∧ (cur (g false [])).st ≠ .free
    ∧ (∀ j < 64, resolve ran { core := 0, priv := false, kind := .load } (0x3FFC0 + BitVec.ofNat 64 j) = .cell (sliceKey 0 (0x3FFC0 + j)))
    ∧ (cur (g false [.came])).gens[3].map (fun x => (x.reg, x.wr, x.ahead)) = some (31, false, [.came])
    ∧ located ran .load (0x40000 - 64) 64 (fun j => sliceKey 0 (0x3FFC0 + j))
    ∧ (cur (g true [])).gens[3].map (fun x => (x.reg, x.wr)) = some (31, true) ∧ located ran .store 0x3FFC0 64 (fun j => sliceKey 0 (0x3FFC0 + j))
    ∧ (∀ i < 64, ∀ j < 64, sliceKey 0 (0x3FFC0 + i) = sliceKey 0 (0x3FFC0 + j) → i = j) := by
  unfold locatedElems located
  refine ⟨?_, ?_, ?_, ?_, ?_, ?_, ?_, ?_, ?_, ?_, ?_, ?_, ?_, ?_, ?_, ?_, ?_⟩ <;> decide +kernel

/-- Destinations that exist and do not, held back or not; an entry with room and a helper that is FREE, the first and the last; the
control context and another, every helper taken. -/
theorem test_meets_MessagesAndHelpers :
    let m : Msg := { cls := 15, rel := false, spilled := false, src := 0, a0 := 0, a1 := 0, a2 := 0, a3 := 0, job := 16 }
    let s := waiting (withCore ran (fun c => { c with hand := c.hand.set 15 (BitVec.ofNat 64 (2 ^ 63 + 2 ^ 54 + 0x40)) })) (.msg m)
    let full := { ran with ctxs := (List.range 11).map (fun i => (i, { cur ran with st := .ready })) }
    let nine := { ran with ctxs := (List.range 10).map (fun i => (i, { cur ran with st := .ready })) }
    (sendTarget 15 0 = some 0 ∧ sendTarget 19 0x1700 = some 0 ∧ sendTarget 0 0xC0 = none ∧ sendTarget 19 0x1800 = none)
    ∧ (jobNode ran 0 = true ∧ jobNode ran 1 = false ∧ 0 = myNode ran)
    ∧ (backPressed ran 0 0 15 = false ∧ backPressed (withCore ran (fun c => { c with refused := [m] })) 0 0 15 = true)
    ∧ takes s isMsg (fun pk => pk.body == .msg m && !pk.stage && 1152 * pk.die + 48 * pk.clus + pk.core == 0) = true
    ∧ (launchOf s 0 = some 0 ∧ (getLaunch s 0).job = m.job ∧ launchRuns s 0 = true ∧ (getCore s 0).halted = false)
    ∧ (handValid (handOf s 0 15) = true ∧ (getCtx s 1).st = .free ∧ liveOf s 0 15 < handLim (handOf s 0 15))
    ∧ ((getCore s 0).spill = [] ∧ (getCore s 0).refused = [])
    ∧ (idxOf 1 ≠ 0 ∧ idxOf ran.turn = 0 ∧ (sreg (reg ran 1 2) 1).toNat % 4 ≠ 0 ∧ (sreg ran 1).toNat % 4 = 0)
    ∧ (∀ j, 1 ≤ j → j ≤ 10 → (getCtx full (16 * 0 + j)).st ≠ .free) ∧ (getCtx nine 10).st = .free
    ∧ (∀ j, 1 ≤ j → j < 10 → (getCtx nine (16 * 0 + j)).st ≠ .free) ∧ (cur nine).acks = [] := by
  intro m s full nine
  refine ⟨by decide +kernel, by decide +kernel, by decide +kernel, by decide +kernel, by decide +kernel, by decide +kernel, by decide +kernel,
    by decide +kernel, fun j h1 h2 => ?_, by decide +kernel, fun j h1 h2 => ?_, by decide +kernel⟩
  · have h : ∀ j < 11, (getCtx full (16 * 0 + j)).st ≠ .free := by decide +kernel
    exact h j (by omega)
  · have h : ∀ j < 10, (getCtx nine (16 * 0 + j)).st ≠ .free := by decide +kernel
    exact h j (by omega)

/-- A count of 0 and one more, targets half the range apart. -/
theorem test_meets_HardwareBarriers :
    launchOf ran (curCore ran) = some 0 ∧ Scope.job ≠ .ctx ∧ (cur ran).acks = [] ∧ (getLaunch ran 0).nodes.length ≤ 1
    ∧ ((sreg ran 2).toNat % 2 ^ 16 = 0 ∧ (sreg (reg ran 2 1) 2).toNat % 2 ^ 16 ≠ 0)
    ∧ (((getBarrier ran 0 .mod 0 15).gen - (sreg ran 2).setWidth 32).toNat < 2 ^ 31
        ∧ 2 ^ 31 ≤ ((getBarrier ran 0 .mod 0 15).gen - (sreg (reg ran 2 1) 2).setWidth 32).toNat)
    ∧ (let b := withCur ran (fun c => { c with st := .blocked, wait := some (.gen 3) })
      (∀ m ∈ ([.barArrive 0 3 2 0 0, .barAns 0 3 0 0 1 0, .barGen 0 3 1] : List Body), takes (waiting b m) isMsg (fun pk => pk.body == m) = true)
      ∧ (getCtx b 0).start = 0 ∧ (getCtx b 0).st ≠ .free ∧ (getCtx b 0).wait = some (.gen 3) ∧ kmem b.launches 0 = true) := by decide +kernel

/-- A pitch that is defined, FREE, OPEN; parameters at fault one by one; a booking of this module and one of another. -/
theorem test_meets_PitchesAreDefinedAndReleased :
    let opened := setPitch ran 0 3 { base := 0x1000, npeg := 255, pegs := List.replicate 256 .free, state := 1 }
    let booked := withCore ran (fun c => { c with books := [{ id := BitVec.ofNat 64 (2 ^ 47) }, { id := BitVec.ofNat 64 (2 ^ 47 + 2 ^ 15) }] })
    ((getPitch opened 0 3).state ≠ 0 ∧ (getPitch ran 0 3).state = 0)
    ∧ (2 ^ 36 ≤ 2 ^ 36 ∧ ¬ (255 < 255)) ∧ (2 ^ 18 - (getCore ran 0).sp < 0x3C000 + 1 * 64 ∧ ¬ (2 ^ 18 - (getCore ran 0).sp < 0x3BFC0 + 1 * 64))
    ∧ (0x1000 < pitchEnd (getPitch opened 0 3) ∧ (getPitch opened 0 3).base < 0x1000 + 64) ∧ (32 % 64 ≠ 0 ∧ 0x3BFC0 % 64 = 0)
    ∧ (cur ran).st ≠ .free ∧ (∀ e ∈ (getCore ran 0).books, e.id ≠ 0)
    ∧ ((getCore booked 0).books.any (fun e => e.id == BitVec.ofNat 64 (2 ^ 47)) = true ∧ idNode (BitVec.ofNat 64 (2 ^ 47)) = myNode booked
        ∧ idCore (BitVec.ofNat 64 (2 ^ 47)) = some 0 ∧ idNode (BitVec.ofNat 64 (2 ^ 47 + 2 ^ 15)) ≠ myNode booked)
    ∧ ((sreg ran 1).toNat < (getPitch (setPitch ran 0 0 { gen := 1 }) 0 0).gen.toNat ∧ (getPitch ran 0 0).gen.toNat ≤ (sreg ran 1).toNat) := by
  decide +kernel

theorem test_meets_BookingsAreAskedAndAnswered :
    let full := withCore ran (fun c => { c with books := List.replicate 32 { id := 0 } })
    let busy := withCore ran (fun c => { c with lzres := some 0, books := List.replicate 31 { id := 0 } })
    let owner := waiting (setPitch ran 0 1 { npeg := 255, pegs := List.replicate 256 .free, state := 1 }) (.bookReq 0 1 256)
    let saving := setLaunch owner 0 { getLaunch owner 0 with pre := .stop }
    let asked := waiting (withCur busy (fun c => { c with st := .blocked, wait := some (.book 3) })) (.bookAns 0 7)
    (idCore 0xC0 = none ∧ 2 ^ 27 ≤ (0x8000000#64).toNat ∧ jobNode ran (idNode 0x8000) = false)
    ∧ (idCore 3 = some 0 ∧ (3#64).toNat < 2 ^ 27 ∧ jobNode ran (idNode 3) = true)
    ∧ 32 ≤ (getCore full 0).books.length ∧ ((getCore busy 0).books.length < 32 ∧ (getCore busy 0).lzres.isSome) ∧ (getCore ran 0).lzres = none
    ∧ takes owner isBookReq (fun pk => pk.body == .bookReq 0 1 256) = true
    ∧ ((launchOf saving 0).isSome ∧ (launchRec saving 0).pre ≠ .no ∧ (launchRec saving 0).pre ≠ .saved) ∧ (launchRec owner 0).pre = .no
    ∧ (let q := getPitch owner 0 1
      q.state = 1 ∧ q.pegs.length = q.npeg + 1 ∧ q.npeg < 256 ∧ q.serial < 4096 ∧ q.sz < 16)
    ∧ (∀ g < 256, (getPitch owner 0 1).pegs[0 + g]? = some .free) ∧ (256 < (257#64).toNat ∧ (getPitch ran 0 1).state ≠ 1)
    ∧ (takes asked isBookAns (fun pk => pk.body == .bookAns 0 7) = true ∧ (getCore asked 0).lzres = some 0
        ∧ (getCtx asked 0).wait = some (.book 3)) := by
  decide +kernel

/-- A job of two modules whose one link has been down for 100 us. -/
def parted : State := { ran with dims := (2, 1, 1, 1), cycle := 700000, notices := [{ a := 0, b := 1, dim := 0, time := 0 }] }

theorem test_meets_PegsArriveOrAreLost :
    let id : BookId := BitVec.ofNat 64 (4095 * 2 ^ 47)
    let own : OwnBook := { serial := 4095, node := 1, core := 0, first := 255, count := 1 }
    let s := fun (st g : Nat) => setPitch parted 0 0 { npeg := 255, pegs := (List.replicate 255 .free) ++ [.booked 4095], state := st, books := [own], since := g }
    let push := fun (b : Bool) => Body.pushPeg 0 0 none id 255 1 1 true b [(0, 1)]
    (idCore id = some 0 ∧ bookSerial id = 4095)
    ∧ (∀ b, takes (waiting (s 1 0) (push b)) isPegPush (fun pk => pk.body == push b) = true)
    ∧ ((getPitch (s 1 0) 0 0).pegs[255]? = some (.booked (bookSerial id)) ∧ (getPitch (s 1 0) 0 0).pegs[0]? ≠ some (.booked (bookSerial id)))
    ∧ (kget 0 (getXfer (s 1 0) 0 0 0 none).pegs 255 + 1 = 1 ∧ poisoned (s 1 0) (sliceKey 0 0) = false
        ∧ (let t := { s 1 0 with poison := [sliceKey 0 0] }; poisoned t (sliceKey 0 0) = true ∧ wholeUnit [sliceKey 0 0] (sliceKey 0 0) = false))
    ∧ (takes (waiting (s 1 0) (.bookRel id)) isBookReq (fun pk => pk.body == .bookRel id)
        && takes (waiting (s 1 0) (.bookLost id)) isBookReq (fun pk => pk.body == .bookLost id)) = true
    ∧ ((getPitch (s 1 0) 0 0).books.find? (fun b => b.serial == 4095) = some own ∧ longLost (s 1 0) 1 = true)
    ∧ ((getPitch (s 5 0) 0 0).state = 5 ∧ (getPitch (s 5 0) 0 0).since + 20000 ≤ nowNs (s 5 0)) := by
  decide +kernel

theorem test_meets_LeaveIsAskedGrantedAndReturned :
    let asks := fun (w : LeaveBy) (held : Nat) => setClus (withCur ran (fun c => { c with st := .blocked, wait := some (.leave 100 3) })) 0
      { getClus ran 0 with held := held, waits := [{ who := w, units := 100 }] }
    (sreg ran 1).toNat = 0 ∧ 0 < (sreg (reg ran 1 1) 1).toNat ∧ ((getClus ran 0).waits = [] ∧ 0 + min 512 (budget ran 0) ≤ budget ran 0)
    ∧ budget ran 0 < 0 + 1 + min 512 (budget ran 0) ∧ (getClus (asks (.ctx 0) 412) 0).waits = [{ who := .ctx 0, units := 100 }]
    ∧ ((getClus (asks (.ctx 0) 412) 0).held + min 100 (budget (asks (.ctx 0) 412) 0) ≤ budget (asks (.ctx 0) 412) 0
        ∧ budget (asks (.ctx 0) 413) 0 < (getClus (asks (.ctx 0) 413) 0).held + min 100 (budget (asks (.ctx 0) 413) 0))
    ∧ ((getCtx (asks (.ctx 0) 0) 0).reask = 0 ∧ (getCtx (asks (.ctx 0) 0) 0).wait = some (.leave 100 3))
    ∧ (∀ m ∈ (getQ (asks (.cmd 0 0) 0) 0 .mxu).cmds, copOf m.word ≠ 0x11) := by decide +kernel

/-- A command word from its fields, by their lowest bit. -/
def word (l : List (Nat × Nat)) : Cmd := BitVec.ofNat 256 ((l.map (fun p => p.2 * 2 ^ p.1)).sum)
/-- A command of core 0 in a phase. -/
def cmd (w : Cmd) (ph : Nat) : EngCmd := { uid := 1, word := w, id := 1, ctx := 0, start := 0, priv := false, mfmt := 0x8BB, phase := ph }
/-- Core 0 with one command in an engine's queue. -/
def holding (e : Engine) (m : EngCmd) : State := setQ ran 0 e { cmds := [m] }

theorem test_meets_CommandsAreDecodedAndComplete :
    let m0 := cmd (word [(0, 0x20), (160, 65535)]) 0
    let msg : Msg := { cls := 16, rel := false, spilled := true, src := 0, a0 := 0, a1 := 0, a2 := 0, a3 := 0, job := 16 }
    let done := fun (c : Nat) => holding .cpe (cmd (word [(0, 0x20), (8, c), (160, 4)]) 3)
    let held := fun (n : Nat) => withCore ran (fun c => { c with heldMsg := [(.cpe, msg)], sp := 512 * n })
    (launchRuns ran 0 = true ∧ (∀ x ∈ (getQ (holding .cpe m0) 0 .cpe).cmds, x.phase ≠ 1)
        ∧ (getQ (holding .cpe m0) 0 .cpe).cmds.find? (fun x => x.phase == 0) = some m0 ∧ (getCore (holding .cpe m0) 0).heldMsg = [] ∧ m0.asked = false)
    ∧ (copOf m0.word = 0x20 ∧ copOf (word [(0, 0x10)]) = 0x10)
    ∧ (launchLive ran 0 = true ∧ ((getQ (done 0) 0 .cpe).cmds.find? (fun x => x.phase == 3 && x.out == 0)).isSome)
    ∧ (cmsgOf (word [(0, 0x20), (8, 0), (160, 4)]) = false ∧ cmsgOf (word [(0, 0x20), (8, 5), (160, 4)]) = true ∧ depOf (word [(0, 0x20), (8, 4)]) = true)
    ∧ ((getCtx ran 0).st ≠ .free ∧ (getCtx ran 0).start = 0 ∧ (getCore ran 0).xwm + 1 = 1 ∧ (getCore ran 0).doneIds = [])
    ∧ ((getCore (held 32) 0).heldMsg = [(.cpe, msg)] ∧ launchOf (held 32) 0 = some 0 ∧ (getLaunch (held 32) 0).job = msg.job
        ∧ handValid (handOf (held 32) 0 16) = false)
    ∧ ((getCore (held 32) 0).spill.length < spillCap (held 32) 0 ∧ (getCore (held 32) 0).refused = []
        ∧ spillCap (held 0) 0 ≤ (getCore (held 0) 0).spill.length) := by decide +kernel

theorem test_meets_CommandsAreAskedAbout :
    let xl := word [(0, 0x21), (160, 64), (188, 2)]; let s := fun (ph : Nat) => withCore (holding .cpe (cmd xl ph)) (fun c => { c with nextId := 1 })
    let old : CmdPast := { uid := 0, id := 1, status := 4 }
    let past := withCore ran (fun c => { c with nextId := 64, xwm := 64, eng := c.eng.set 1 { past := [old] } })
    let msg : Msg := { cls := 16, rel := false, spilled := false, src := 0, a0 := 0, a1 := 0, a2 := 0, a3 := 0, job := 16 }
    let y : SpillEnt := { compl := true, msg := msg, slot := 0, tag := 0 }
    let box := withCore ran (fun c => { c with spill := [{ y with compl := false }, y] }); let held := withCur (s 2) (fun c => { c with acks := [1] })
    (¬ (1 ≤ (0#64).toNat) ∧ (getCore ran 0).nextId < (1#64).toNat)
    ∧ (1 ≤ (1#64).toNat ∧ (1#64).toNat ≤ (getCore past 0).nextId ∧ (getCore past 0).nextId < (1#64).toNat + 64
        ∧ (getQ past 0 .cpe).cmds = [] ∧ (getQ past 0 .cpe).past.find? (fun p => p.id == 1) = some old)
    ∧ (∀ ph < 4, (getQ (s ph) 0 .cpe).cmds.reverse.find? (fun m => m.id == 1) = some (cmd xl ph) ∧ (getQ (s ph) 0 .cpe).past = []
        ∧ (getQ (s ph) 0 .cpe).cmds.find? (fun m => m.id == (1#64).toNat && copOf m.word == 0x21) = some (cmd xl ph))
    ∧ (cmsgOf xl = false ∧ (cur (s 2)).acks = [] ∧ (cur held).acks ≠ [])
    ∧ ((1#64).toNat ≤ (getCore past 0).xwm ∧ (getCore (s 2) 0).xwm < (1#64).toNat ∧ (1#64).toNat ≤ (getCore (s 2) 0).nextId)
    ∧ ((1 : Word) ≠ 0 ∧ nowNs ran < (1#64).toNat ∧ (1#64).toNat ≤ nowNs { ran with cycle := 4 })
    ∧ ((cmd xl 2).fill ≤ (0#64).toNat ∧ (0#64).toNat < ({ cmd xl 2 with fill := 1 } : EngCmd).fill)
    ∧ (lfind (fun e => e.compl) (getCore ran 0).spill = none ∧ lfind (fun e => e.compl) (getCore box 0).spill = some (1, y))
    ∧ (y.msg = msg ∧ msg.cls < 32) := by
  decide +kernel

/-- An entry of a spill area whose bytes are those written with it, and one whose first byte is another. -/
theorem test_meets_CommandsAreAskedAbout_spilled :
    let y : SpillEnt := { compl := true, msg := { cls := 16, rel := false, spilled := false, src := 0, a0 := 0, a1 := 0, a2 := 0, a3 := 0, job := 16 }, slot := 0, tag := 0 }
    let s := fun (b : Byte) => { ran with mem := (sliceKey 0 0x3C000, b) :: (List.range 63).map (fun i => (sliceKey 0 (0x3C001 + i), Config.freeByte 0 (i + 1))) }
    spillWhole (s (Config.freeByte 0 0)) 0 y = true ∧ spillWhole (s (Config.freeByte 0 0 + 1)) 0 y = false := by
  constructor
  · exact beq_iff_eq.mpr rfl
  · refine beq_eq_false_iff_ne.mpr (fun h => ?_)
    have h1 : Config.freeByte 0 0 + 1 = Config.freeByte 0 0 := Option.some.inj (congrArg List.head? h)
    have h2 := congrArg BitVec.toNat h1
    rw [BitVec.toNat_add] at h2
    have h3 := (Config.freeByte 0 0).isLt
    simp at h2
    omega

/-- Sources at offset 0 of the core's own slice, destinations at 0x2000. -/
def ks (i : Nat) : Nat := sliceKey 0 i
def kd (i : Nat) : Nat := sliceKey 0 (0x2000 + i)

/-- A command of each kind, in service, whose bytes lead to the core's own slice. -/
theorem unitReads_of {s : State} {a : Acc} {m : EngCmd} {n : Nat} {src : Nat → Word} {ka : Nat → Nat} (h : m.answers = [])
    (h1 : ∀ i < n, resolve s a (src i) = .cell (ka i) ∧ poisoned s (ka i) = false) : unitReads s a m n src ka := ⟨h, fun i hi => h1 i hi.2.1⟩

theorem unitWrites_of {s : State} {k : Nat} {e : Engine} {m : EngCmd} {n : Nat} {dst : Nat → Word} {kb : Nat → Nat} (h : 256 * m.pos < n)
    (h1 : ∀ i < n, resolve s { engWrite k m with eng := some e } (dst i) = .cell (kb i) ∧ poisoned s (kb i) = false)
    (h2 : ∀ i < n, ∀ j < n, kb i = kb j → i = j) : unitWrites s k e m n dst kb :=
  ⟨h, fun i hi => h1 i hi.2.1, fun i j hi hj => h2 i hi.2.1 j hj.2.1⟩

/-- A command of each kind, in service and in its turn, whose bytes lead to the core's own slice. -/
theorem test_meets_CopiesMoveTheirBytes_cpe :
    let x := fun (n len st : Nat) => cmd (word [(0, 0x20), (96, 0x2000), (160, len), (212, n), (219, st), (220, 4)]) 2
    let push := cmd (word [(0, 0x20), (96, 2 ^ 47), (160, 64), (192, 1)]) 2; let f := cmd (word [(0, 0x22), (32, 0x2000), (160, 4)]) 2
    let loop := cmd (word [(0, 0x21), (96, 0x2000), (160, 64), (188, 1)]) 2; let rd := fun (m : EngCmd) => { engRead 0 m with eng := some Engine.cpe }
    (turnWork (holding .cpe (x 0 4 0)) 0 .cpe 0x20 = some (x 0 4 0) ∧ turnWork (holding .cpe (x 2 8 0)) 0 .cpe 0x20 = some (x 2 8 0)
        ∧ turnWork (holding .cpe (x 2 8 1)) 0 .cpe 0x20 = some (x 2 8 1) ∧ 8 % 2 = 0 ∧ 8 / 2 % 4 = 0)
    ∧ (∀ m ∈ [x 0 4 0, x 2 8 1], unitReads (holding .cpe m) (rd m) m 4 (fun i => BitVec.ofNat 64 i) ks
        ∧ unitWrites (holding .cpe m) 0 .cpe m 4 (fun i => 0x2000 + BitVec.ofNat 64 i) kd)
    ∧ unitReads (holding .cpe (x 2 8 0)) (rd (x 2 8 0)) (x 2 8 0) 8 (fun i => BitVec.ofNat 64 (i % 8 / 4 * 4 + i / 8 * 4 + i % 4)) ks
    ∧ (turnWork (holding .cpe push) 0 .cpe 0x20 = some push ∧ unitReads (holding .cpe push) (rd push) push 64 (fun i => BitVec.ofNat 64 i) ks
        ∧ idNode (BitVec.ofNat 64 (2 ^ 47)) = myNode (holding .cpe push) ∧ 256 * push.pos < 64)
    ∧ (turnWork (holding .cpe f) 0 .cpe 0x22 = some f ∧ unitWrites (holding .cpe f) 0 .cpe f 4 (fun i => 0x2000 + BitVec.ofNat 64 i) kd)
    ∧ (workCmd (holding .cpe loop) 0 .cpe 0x21 = some loop ∧ loopMay loop = true ∧ inTurn (holding .cpe loop) 0 .cpe = true ∧ loop.phase = 2 ∧ loop.pos = 0
        ∧ unitReads (holding .cpe loop) (rd loop) loop 64 (fun i => BitVec.ofNat 64 i) ks
        ∧ unitWrites (holding .cpe loop) 0 .cpe loop 64 (fun i => 0x2000 + BitVec.ofNat 64 i) kd) := by
  intro x push f loop rd
  refine ⟨by decide +kernel, ?_, unitReads_of (by decide +kernel) (by decide +kernel), ⟨by decide +kernel, unitReads_of (by decide +kernel) (by decide +kernel), by decide +kernel, by decide +kernel⟩,
    ⟨by decide +kernel, unitWrites_of (by decide +kernel) (by decide +kernel) (by decide +kernel)⟩, by decide +kernel, by decide +kernel, by decide +kernel,
    by decide +kernel, by decide +kernel, unitReads_of (by decide +kernel) (by decide +kernel), unitWrites_of (by decide +kernel) (by decide +kernel) (by decide +kernel)⟩
  intro m hm
  rcases List.mem_cons.mp hm with rfl | hm
  · exact ⟨unitReads_of (by decide +kernel) (by decide +kernel), unitWrites_of (by decide +kernel) (by decide +kernel) (by decide +kernel)⟩
  · rcases List.mem_singleton.mp hm with rfl
    exact ⟨unitReads_of (by decide +kernel) (by decide +kernel), unitWrites_of (by decide +kernel) (by decide +kernel) (by decide +kernel)⟩

theorem test_meets_CopiesMoveTheirBytes_gte :
    let g := fun (cop : Nat) => cmd (word [(0, cop), (32, if cop = 0x33 then 0x2000 else 0), (96, if cop = 0x33 then 0 else 0x2000), (160, 0x3FFFC), (178, 2),
      (194, 4), (212, 4)]) 2
    let ki := fun (i : Nat) => sliceKey 0 (0x3FFFC + i); let s := fun (m : EngCmd) => holding .gte m
    let with_ := fun (m : EngCmd) (l : List Nat) => { m with idx := some l }; let rd := fun (m : EngCmd) => { engRead 0 m with eng := some Engine.gte }
    let p := cmd (word [(0, 0x32), (32, 0x1000), (96, 0x2000), (160, 0x3FFFC)]) 2
    (∀ cop ∈ [0x30, 0x33], turnWork (s (g cop)) 0 .gte cop = some (g cop) ∧ (g cop).idx = none ∧ (g cop).answers = []
        ∧ (∀ i < 4, resolve (s (g cop)) (rd (g cop)) (0x3FFFC + BitVec.ofNat 64 i) = .cell (ki i) ∧ poisoned (s (g cop)) (ki i) = false)
        ∧ turnWork (s (with_ (g cop) [0, 1])) 0 .gte cop = some (with_ (g cop) [0, 1]))
    ∧ (let m := with_ (g 0x30) [0, 1]; unitReads (s m) (rd m) m 8 (fun i => BitVec.ofNat 64 i) ks ∧ unitWrites (s m) 0 .gte m 8 (fun i => 0x2000 + BitVec.ofNat 64 i) kd)
    ∧ (let m := with_ (g 0x33) [0, 1]; unitReads (s m) { rd m with slice := true } m 8 (fun i => BitVec.ofNat 64 i) ks
        ∧ unitWrites (s m) 0 .gte m 8 (fun i => 0x2000 + BitVec.ofNat 64 i) kd)
    ∧ (turnWork (s p) 0 .gte 0x32 = some p ∧ p.idx = none ∧ (∀ i < 4, resolve (s p) (rd p) (0x3FFFC + BitVec.ofNat 64 i) = .cell (ki i))
        ∧ ∀ i < 8, resolve (s p) { rd p with own := false } (0x1000 + BitVec.ofNat 64 i) = .cell (sliceKey 0 (0x1000 + i)))
    ∧ (let m := with_ p [0]; turnWork (s m) 0 .gte 0x32 = some m ∧ (∀ i < 64, resolve (s m) (rd m) (BitVec.ofNat 64 i) = .cell (ks i))
        ∧ unitWrites (s m) 0 .gte m 64 (fun i => 0x2000 + BitVec.ofNat 64 i) kd)
    ∧ (let m := with_ p [2 ^ 64 - 1]; turnWork (s m) 0 .gte 0x32 = some m ∧ unitWrites (s m) 0 .gte m 64 (fun i => 0x2000 + BitVec.ofNat 64 i) kd) := by
  intro g ki s with_ rd p
  exact ⟨by decide +kernel, ⟨unitReads_of (by decide +kernel) (by decide +kernel), unitWrites_of (by decide +kernel) (by decide +kernel) (by decide +kernel)⟩,
    ⟨unitReads_of (by decide +kernel) (by decide +kernel), unitWrites_of (by decide +kernel) (by decide +kernel) (by decide +kernel)⟩, by decide +kernel,
    ⟨by decide +kernel, by decide +kernel, unitWrites_of (by decide +kernel) (by decide +kernel) (by decide +kernel)⟩,
    by decide +kernel, unitWrites_of (by decide +kernel) (by decide +kernel) (by decide +kernel)⟩

/-- Memory of this module that a leaf of its own node maps at 2^40. -/
def peered (s : State) : State := { s with tlb := [{ tlb := .clus 0, asid := 0, va := 2 ^ 40, size := 2 ^ 12, pa := 2 ^ 53, ent := 0x2D }] }

theorem test_meets_RemoteGathersAndNotices :
    let g0 := cmd (word [(0, 0x31), (32, 2 ^ 40), (96, 2 ^ 47), (178, 1), (194, 4)]) 2; let g1 := { g0 with idx := some [0] }; let s := fun (m : EngCmd) => peered (holding .gte m)
    let row : Body := .grem 0 1 none 1 0 [1] 0 0 4096 64 64 (BitVec.ofNat 64 (2 ^ 47)) true; let m3 := cmd (word [(0, 0x20)]) 3; let f0 : FarReq := { tag := 9, who := .cmd 0 .cpe 1, kind := .engWrite, vas := [], node := 0, launch := none, push := true }
    let note := fun (st : Nat) => { waiting (holding .cpe m3) (.done 0 9 none st 4 0) with fars := [f0] }
    let gd := fun (st : Nat) => waiting (s g1) (.gremDone 0 1 none st 4 0 [])
    let x : Xfer := { node := 0, core := 0, tag := 1, got := 4, total := 4, bytes := 4, status := 0 }
    let r : Grem := { uid := 5, node := 0, core := 0, cmd := 1, nidx := 1, idx := [1], hi := 4096, row := 64, rstr := 64, book := BitVec.ofNat 64 (2 ^ 47) }
    let big := { r with row := 65536 }; let at_ := fun (r : Grem) => { ran with grems := [r] }
    (∀ m ∈ [g0, g1], turnWork (s m) 0 .gte 0x31 = some m ∧ m.answers = [])
    ∧ (g0.idx = none ∧ ∀ i < 2, resolve (s g0) { engRead 0 g0 with eng := some .gte } (BitVec.ofNat 64 i) = .cell (ks i) ∧ poisoned (s g0) (ks i) = false)
    ∧ ((gremBase (s g1) 0 g1).toOption = some (0, 0, 0, 4096) ∧ 0 = myNode (s g1))
    ∧ (((waiting ran row).grems.filter gremReady).length ≤ 0 ∧ takes (waiting ran row) isGrem (fun pk => pk.body == row) = true)
    ∧ (((at_ big).grems.filter gremReady)[0]? = some big ∧ 65536 ≤ big.idx.length * big.row ∧ big.grant = 0 ∧ big.asked = false)
    ∧ (((at_ r).grems.filter gremReady)[0]? = some r ∧ r.idx.length * r.row < 65536 ∧ idNode r.book = myNode ran
        ∧ (∀ j < 1, rowOk r.idx r.base r.lo r.hi r.row r.rstr j = true) ∧ ∀ j < 64, poisoned (at_ r) (dramKey ((r.base + r.idx.getD (j / r.row) 0 * r.rstr) % 2 ^ 64 + j % r.row)) = false)
    ∧ lfindN (fun x => decide (x.total ≠ 0 ∧ x.total ≤ x.got)) ({ ran with xfers := [x] } : State).xfers 0 = some (0, x)
    ∧ (∀ st ∈ ([0, 15, 16] : List Nat), takes (note st) isDone (fun pk => pk.body == .done 0 9 none st 4 0) = true
        ∧ findCmd (note st) 0 .cpe 1 = some m3 ∧ (note st).grems = [] ∧ (note st).fars.find? (fun f => f.push && f.tag == 9) = some f0)
    ∧ (takes (gd 15) isDone (fun pk => pk.body == .gremDone 0 1 none 15 4 0 []) = true ∧ findCmd (gd 15) 0 .gte 1 = some g1)
    ∧ (launchOf ran (coreOf 0) = some 0 ∧ (getLaunch ran 0).first = none) := by decide +kernel

theorem test_meets_CommandsAreEnqueued :
    let ok := word [(0, 0x20), (32, 0x100), (96, 0x2000), (160, 1)]; let mma := word [(0, 0x10), (10, 1)]
    let full := setQ ran 0 .cpe { cmds := List.replicate 4 (cmd ok 2) }
    (cur ran).ub = 0 ∧ ¬ (0x20 ≤ copOf 0 ∧ copOf 0 ≤ 0x22) ∧ (word [(0, 0x20), (11, 1)]).toNat / 2 ^ 11 % 2 ^ 5 ≠ 0
    ∧ (cmdOk ran .cpe (word [(0, 0x20)]) 0x8BB = false ∧ cmdOk ran .cpe ok (cur ran).mfmt = true)
    ∧ (0 < ok.toNat / 2 ^ 160 % 2 ^ 32 ∧ ok.toNat / 2 ^ 160 % 2 ^ 32 < 2 ^ 31 ∧ ok.toNat / 2 ^ 192 % 2 ^ 4 = 0 ∧ ok.toNat / 2 ^ 32 % 2 ^ 64 < 2 ^ 24)
    ∧ (cmdOk ran .mxu mma (cur ran).mfmt = true ∧ aliasOps mma (cur ran).mfmt ≠ 0 ∧ aliasOps (word [(0, 0x15)]) (cur ran).mfmt = 0)
    ∧ (4 ≤ ((getQ full 0 .cpe).cmds.filter (fun m => decide (m.phase ≤ 2))).length
        ∧ ((getQ ran 0 .cpe).cmds.filter (fun m => decide (m.phase ≤ 2))).length < 4 ∧ (cur ran).acks = []) := by decide +kernel

/-- A matrix command of two rows, two columns and two steps: A at offset 0 of the core's slice, B at 0x1000, OUT at 0x2000, rows 16 bytes apart. -/
def mxCmd (cop : Nat) : EngCmd :=
  { cmd (word [(0, cop), (224, 1), (237, 1), (244, 1), (56, 1), (96, 0x1000), (120, 1), (160, 0x2000), (184, 1)]) 1 with grant := 64 }
/-- The MVERD command of that shape, its side cells at 0x2000 and its thresholds at 0x3000. -/
def verdCmd : EngCmd :=
  { cmd (word [(0, 0x14), (224, 1), (237, 1), (244, 1), (56, 1), (96, 0x1000), (120, 1), (160, 0x2000), (200, 0x3000), (252, 1), (253, 1)]) 1 with grant := 64 }
/-- Byte j of row i, rows 16 bytes apart from an offset of the core's slice. -/
def at16 (off i j : Nat) : Nat := sliceKey 0 (off + 16 * i + j)

theorem test_meets_MatrixCommandsComputeTheirPiece_tiles : ∀ cop ∈ ([0x10, 0x12, 0x13, 0x15, 0x16, 0x17] : List Nat),
    soleTile (holding .mxu (mxCmd cop)) 0 cop (mxCmd cop) ∧ cbits (mxCmd cop).word 10 1 = 0 := by
  unfold soleTile
  decide +kernel

theorem test_meets_MatrixCommandsComputeTheirPiece_operands :
    let m := mxCmd 0x10; let s := holding .mxu m
    (mxM m.word = 2 ∧ mxN m.word = 2 ∧ mxK m.word = 2 ∧ aType m.mfmt = some .e4m3 ∧ bType m.mfmt = some .e4m3 ∧ mxMode .e4m3 .e4m3 = some .fp8
        ∧ blockRule .fp8 = true ∧ bits m.mfmt 12 1 = 0 ∧ oType m.mfmt = some .fp32)
    ∧ operandAt s 0 m (mxAD m.word) 2 2 (at16 0) ∧ operandAt s 0 m (mxBD m.word) 2 2 (at16 0x1000)
    ∧ (∀ i < 2, ∀ j < 16, resolve s (engWrite 0 m) (rowAddr (mxOUT m.word) 0 i j) = .cell (at16 0x2000 i j))
    ∧ (∀ i < 2, ∀ j < 16, ∀ x < 2, ∀ y < 16, at16 0x2000 i j = at16 0x2000 x y → i = x ∧ j = y) ∧ mxOUT m.word / 2 ^ 61 % 8 = 0 := by
  unfold operandAt
  refine ⟨?_, ⟨?_, ?_, ?_⟩, ?_, ?_, fun i _ j _ x _ y _ h => ?_, ?_⟩
  case refine_7 => simp only [at16, sliceKey] at h; omega
  all_goals decide +kernel

theorem test_meets_MatrixCommandsComputeTheirPiece_verdict :
    let m := verdCmd; let s := holding .mxu m
    soleTile s 0 0x14 m ∧ operandAt s 0 m (mxAD m.word) 2 2 (at16 0) ∧ operandAt s 0 m (mxBD m.word) 2 2 (at16 0x1000)
    ∧ (∀ j < 2, ∀ x < 16, resolve s (mxRead 0 m) (sideAddr m.word j 0 x) = .cell (at16 0x2000 j x))
    ∧ (∀ i < 2, ∀ x < 4, resolve s (mxRead 0 m) (thrAddr m.word i + BitVec.ofNat 64 x) = .cell (sliceKey 0 (0x3000 + 4 * i + x)))
    ∧ (verdTest true 0 0 0 0x3F800000 = some true ∨ verdTest true 0 0 0 0x3F800000 = some false ∨ verdTest true 0 0 0 0x3F800000 = none) := by
  unfold operandAt soleTile
  refine ⟨?_, ?_, ?_, ?_, ?_, ?_⟩ <;> decide +kernel

theorem test_meets_GangsRunTogether :
    let m := mxCmd 0x11; let x : GangReq := { core := 0, uid := 1 }; let s := setClus (holding .mxu m) 0 { gang := [x] }
    let y : GangReq := { core := 0, uid := 1, running := true }; let u := setClus (holding .mxu { m with phase := 2 }) 0 { gang := [y] }
    ((∀ g ∈ (getClus s 0).gang, g.running = false) ∧ lfind (fun x => (gangServable s x).isSome) (getClus s 0).gang = some (0, x)
        ∧ gangServable s x = some m ∧ clusOf x.core = 0)
    ∧ ((getClus u (clusOf 0)).gang.find? (fun g => g.running && g.core == 0) = some y ∧ findCmd u 0 .mxu y.uid = some { m with phase := 2 } ∧ m.pos = 0
        ∧ m.answers = [] ∧ copOf m.word = 0x11 ∧ cbits m.word 251 3 < 6 ∧ mxK m.word ≤ 128 ∧ cbits m.word 10 1 = 0 ∧ bits m.mfmt 12 1 = 0)
    ∧ operandAt u 0 { m with phase := 2 } (mxAD m.word) ((mxSpan m.word).1 * 2) 2 (at16 0)
    ∧ operandAt u 0 { m with phase := 2 } (mxBD m.word) ((mxSpan m.word).2 * 2) 2 (at16 0x1000) := by
  unfold operandAt
  refine ⟨?_, ?_, ?_, ?_⟩ <;> decide +kernel

/-- A model of two beads at 0x2000 whose one participant is the engine of cluster 0 of this module. -/
def model (ph : CrePhase) : Cre := { owner := some 0, mid := 7, nbead := 2, btab := 0x2000, parts := [0], phase := ph }
/-- Core 0 with a crossing command, on a cluster with that model. -/
def crossing (ph : CrePhase) (m : EngCmd) : State := setCre (holding .cre m) 0 (model ph)

theorem test_meets_ModelsAreBoundAndRun :
    let m := fun (cop : Nat) => cmd (word [(0, cop), (154, 1), (242, 1), (192, 5)]) 1; let s := fun (ph : CrePhase) (cop : Nat) => crossing ph (m cop)
    let other := setCre (holding .cre (m 0x41)) 0 { owner := some 9 }
    let busy := setQ (crossing .idle (m 0x42)) 0 .cre { cmds := [cmd (word [(0, 0x42)]) 2] }
    (∀ cop ∈ ([0x40, 0x41, 0x42, 0x43, 0x44, 0x45] : List Nat), readyCmd (s .idle cop) 0 .cre cop = some (m cop) ∧ readyCmd (s .fire cop) 0 .cre cop = some (m cop))
    ∧ ((getCre other 0).owner ≠ none ∧ (getCre other 0).owner ≠ launchOf other 0 ∧ (getCre (holding .cre (m 0x41)) 0).owner = none)
    ∧ ((model .idle).owner = launchOf ran 0 ∧ (getCre (s .fire 0x41) 0).phase ≠ .idle ∧ (getCre (s .idle 0x41) 0).phase = .idle ∧ runCmd (s .idle 0x41) 0 = none)
    ∧ (runCmd busy 0 ≠ none)
    ∧ ((model .idle).nbead < 1 + 2 ∧ 1 + 1 ≤ (model .idle).nbead ∧ (5 < 6 ∧ (model .idle).time ≤ 5))
    ∧ creAt ran (creOf 0 (m 0x41)) 0 4 (fun j => sliceKey 0 j) ∧ creAt ran (model .idle) 0 64 (fun j => sliceKey 0 j)
    ∧ creAt ran (model .idle) (0x2000 + 64 * 1) 64 (fun j => sliceKey 0 (0x2040 + j))
    ∧ (∀ i < 64, ∀ j < 64, sliceKey 0 (0x2040 + i) = sliceKey 0 (0x2040 + j) → i = j) ∧ (∀ i < 64, ∀ j < 64, sliceKey 0 i ≠ sliceKey 0 (0x2040 + j))
    ∧ engHere ran (rootOf (model .idle)) := by
  unfold creAt engHere
  refine ⟨?_, ?_, ?_, ?_, ?_, ?_, ?_, ?_, ?_, ?_, ?_⟩ <;> decide +kernel

theorem test_meets_SetsAreChosen :
    let run := fun (d : Nat) => cmd (word [(0, 0x42), (160, d)]) 2
    let p : Proposal := { eng := 0, seq := 0, least := 5, paused := false, tend := 5, stop := false }
    let s := fun (x : Cre) => setCre (holding .cre (run (2 ^ 31))) 0 x
    (creNow (s (model .choose)) 0 = s (model .choose) ∧ creRuns (s (model .choose)) 0 = true)
    ∧ ((model .choose).sent = false ∧ creCmds (s (model .choose)) 0 0x45 2 = [] ∧ engHere ran (rootOf (model .choose)))
    ∧ creAt (s (model .choose)) (model .choose) 0x2000 128 (fun j => sliceKey 0 (0x2000 + j))
    ∧ (rootOf (model .idle) = engWord ran 0 ∧ (model .idle).parts ≠ [] ∧ ∀ e ∈ (model .idle).parts, e ∈ ({ model .idle with joins := [0] } : Cre).joins)
    ∧ (∀ e ∈ (model .wait).parts, e ∈ ({ model .wait with firedBy := [0] } : Cre).firedBy)
    ∧ (∀ e ∈ (model .choose).parts, e ∈ ([p].map (fun p => p.eng))) ∧ (5 ≤ never ∧ p.least = 5 ∧ p.tend = 5 ∧ p.paused = false ∧ p.stop = false)
    ∧ (({ p with least := never } : Proposal).least = never ∧ ({ p with tend := 4 } : Proposal).tend < 5 ∧ ({ p with stop := true } : Proposal).stop = true)
    ∧ (0 + ((5 - 0) * (2 ^ 31) + 2 ^ 40 - 1) / 2 ^ 40 ≤ nowNs { ran with cycle := 4 } ∧ nowNs ran < 0 + ((5 - 0) * (2 ^ 31) + 2 ^ 40 - 1) / 2 ^ 40) := by
  unfold creAt engHere
  refine ⟨?_, ?_, ?_, ?_, ?_, ?_, ?_, ?_, ?_⟩ <;> decide +kernel

theorem test_meets_SetsFireAndRespond_phases :
    let one : Cre := { model .fire with nbead := 1 }; let s := setCre ran 0 one; let kb := fun (j : Nat) => sliceKey 0 (0x2000 + j)
    let linked := { s with mem := [(sliceKey 0 (0x2000 + 38), 1)] }; let q := cmd (word [(0, 0x44)]) 2
    let late := setCre (holding .cre q) 0 { model .fire with setT := 1 }
    let back := fun (l : List Woken) => setCre (withCore ran (fun c => { c with hand := c.hand.set 0 (BitVec.ofNat 64 (2 ^ 63 + 2 ^ 54)) })) 0
      { model .wait with respond := true, woken := l }
    (creNow s 0 = s ∧ one.owner ≠ none ∧ launchLive s one.core = true ∧ creCmds s 0 0x44 2 = [] ∧ bPol (beadIn s kb 0) = 0 ∧ engHere s (rootOf one))
    ∧ creAt s one 0x2000 64 kb ∧ (∀ p < 64, ∀ y < 64, kb p = kb y → p = y)
    ∧ (∀ j < 1, (bErr (beadIn s kb j) = false ∧ bNext (beadIn s kb j) = one.setT) ↔ j = 0)
    ∧ (bDcnt (settleBead (snapBead (beadIn s kb 0) one.setT) one.setT) = 0 ∧ bDcnt (settleBead (snapBead (beadIn linked kb 0) one.setT) one.setT) = 1
        ∧ bDptr (settleBead (snapBead (beadIn linked kb 0) one.setT) one.setT) = 0 ∧ cellsNat linked (fun p => sliceKey 0 p) 16 % 2 ^ 64 < 2 ^ 33)
    ∧ (creNow late 0 = late ∧ creCmds late 0 0x44 2 = [(0, q)] ∧ q.word.toNat / 2 ^ 192 % 2 ^ 64 < 1 ∧ 0 + 1 ≤ (model .fire).nbead)
    ∧ (creNow (back []) 0 = back [] ∧ (getCre (back []) 0).respond = true ∧ (getCre (back [{ ix := 1, count := 1 }]) 0).woken = [{ ix := 1, count := 1 }])
    ∧ (bOwn (beadIn (back []) kb 1) < 48 ∧ 0 = 48 * 0 + bOwn (beadIn (back []) kb 1) ∧ bCls (beadIn (back []) kb 1) ≤ 15 ∧ handValid (handOf (back []) 0 0) = true
        ∧ mayStart (back []) 0 0 = true ∧ (getCore (back []) 0).spill = [] ∧ (getCore (back []) 0).refused = [] ∧ freeHelper (back []) 0 = some 1) := by
  unfold creAt engHere
  refine ⟨?_, ?_, ?_, ?_, ?_, ?_, ?_, ?_⟩ <;> decide +kernel

theorem test_meets_SetsFireAndRespond_messages :
    let s := fun (ph : CrePhase) (l : List Woken) (b : Body) => setCre (waiting ran b) 0 { model ph with woken := l, mirs := kset [] 0x100 5 }
    let ev := fun (mir dep key : Nat) => Body.creEvent 7 0 1 mir dep key; let key := fun (st : State) (mir : Nat) => kget 0 (getCre st 0).mirs mir
    let slow := withCur (waiting ran (.slopeAns 0 0 2)) (fun c => { c with st := .blocked, wait := some (.slope 3) })
    (∀ dep ∈ ([1, 2] : List Nat), takes (s .fire [] (ev 0x100 dep 5)) isCreEvent (fun pk => pk.body == ev 0x100 dep 5 && 0 == pk.die * 24 + pk.clus) = true)
    ∧ ((model .fire).mid = 7 ∧ 1 < (model .fire).nbead ∧ (model .fire).nbead ≤ 2 ∧ 0x100 < 0xC00000 ∧ 0x100 % 4 = 0)
    ∧ (key (s .fire [] (ev 0x100 1 5)) 0x100 ≤ 5 ∧ ¬key (s .fire [] (ev 0x100 1 4)) 0x100 ≤ 4 ∧ ¬(0xC00000 < 0xC00000))
    ∧ creAt ran (model .fire) 0x100 4 (fun j => sliceKey 0 (0x100 + j))
    ∧ takes (s .fire [] (.slope 0 0 (some 0) 1 0)) isSlope (fun pk => pk.body == .slope 0 0 (some 0) 1 0 && pk.src == myNode ran) = true
    ∧ ((model .idle).owner = some 0 ∧ (model .idle).owner ≠ none ∧ unreported (model .fire) 1 = false ∧ unreported { model .respond with woken := [{ ix := 1, count := 1 }] } 1 = true)
    ∧ (takes slow isSlopeAns (fun pk => pk.body == .slopeAns 0 0 2) = true ∧ (getCtx slow 0).wait = some (.slope 3) ∧ (getCtx slow 0).start = 0)
    ∧ (isAband 0x7FBF0000 = true ∧ isAband 0x7F800000 = false ∧ notNum 0x7F800000 = true ∧ notNum 0x3F800000 = false)
    ∧ ((2 ^ 33 ≤ 2 ^ 33 ∧ 24 ≤ 24 % 32) ∧ engHere ran (0x3FFF / 2 ^ 14)) := by
  unfold creAt engHere
  refine ⟨?_, ?_, ?_, ?_, ?_, ?_, ?_, ?_, ?_⟩ <;> decide +kernel

/-- The module with its spike router assigned to job 5, whose launch runs. -/
def routed (s : State) : State := setBar (setLaunch s 0 { getLaunch s 0 with job := 5 }) 0x010010 0x15

theorem test_meets_SpikesAndSteps_router :
    let c := fun (cop : Nat) => cmd (word [(0, cop), (186, 1)]) 1; let t := routed (holding .cre (c 0x46)); let u := routed (holding .cre (c 0x47))
    let spike := fun (job hops : Nat) => Body.spike [0] 9 3 hops job none; let ent := fun (loc port : Nat) => BitVec.ofNat 128 (9 + (2 ^ 32 - 1) * 2 ^ 32 + loc * 2 ^ 80 + 2 ^ 87 + port * 2 ^ 88)
    let s := fun (e : BitVec 128) => { routed (waiting (withCore ran (fun c => { c with hand := c.hand.set 18 (BitVec.ofNat 64 (2 ^ 63 + 2 ^ 54)) })) (spike 5 63)) with spk := { ents := [(4095, e)], list := [(0, 0)] } }
    (readyCmd t 0 .cre 0x46 = some (c 0x46) ∧ (launchRec t 0).job = 5 ∧ routerServes t 5 = true ∧ routerServes (holding .cre (c 0x46)) 16 = false)
    ∧ (readyCmd u 0 .cre 0x47 = some (c 0x47) ∧ routerServes u 5 = true)
    ∧ (creAt u (creOf 0 (c 0x47)) 0 4 (fun j => sliceKey 0 j) ∧ creAt t (creOf 0 (c 0x46)) 0 16 (fun j => sliceKey 0 j))
    ∧ ([cellsNat u (fun b => sliceKey 0 b) 4] = [0] ∧ groupRoot [0] = myNode u ∧ jobNode u (myNode u) = true)
    ∧ takes (s (ent 0 255)) isSpike (fun pk => pk.body == spike 5 63) = true ∧ (routerServes (s (ent 0 255)) 5 = true ∧ routerServes (s (ent 0 255)) 4 = false)
    ∧ (entMatch (ent 0 255) 8 = false ∧ entMatch (ent 0 255) 9 = true ∧ (s (ent 0 255)).spk.ents.find? (fun e => entMatch e.2 9) = some (4095, ent 0 255))
    ∧ ((ent 0 255).toNat / 2 ^ 80 % 2 ^ 7 = 0 ∧ (ent 1 0).toNat / 2 ^ 80 % 2 ^ 7 = 1 ∧ (ent 1 0).toNat / 2 ^ 88 % 2 ^ 8 = 0
        ∧ coreOfId ((kget 0 (s (ent 1 0)).spk.list ((ent 1 0).toNat / 2 ^ 64 % 2 ^ 14)).toNat % 2 ^ 13) = some 0)
    ∧ (launchOf (s (ent 1 0)) 0 = some 0 ∧ (getLaunch (s (ent 1 0)) 0).job = 5 ∧ handValid (handOf (s (ent 1 0)) 0 18) = true ∧ mayStart (s (ent 1 0)) 0 18 = true
        ∧ (getCore (s (ent 1 0)) 0).spill = [] ∧ (getCore (s (ent 1 0)) 0).refused = [] ∧ freeHelper (s (ent 1 0)) 0 = some 1) := by
  unfold creAt
  refine ⟨?_, ?_, ?_, ?_, ?_, ?_, ?_, ?_, ?_⟩ <;> decide +kernel

theorem test_meets_SpikesAndSteps_steps :
    let x : StepGroup := { parts := [0], step := 3, joined := [0] }; let s := { ran with steps := [x] }; let far := withCur ran (fun c => { c with acks := [1] })
    let m := { cmd (word [(0, 0x47), (224, 3)]) 3 with out := 1, parts := [0] }; let u := waiting (holding .cre m) (.stepDone [0] 3 1 (2 ^ 33) 0)
    (∀ p ∈ s.arrived, isStepMsg p = false) ∧ (lfindN (stepReady s) s.steps 0 = some (0, x) ∧ ∀ w ∈ x.parts, partNode w = myNode s) ∧ (x.parts ≠ [] ∧ (nominalEnd s x).isSome)
    ∧ u.arrived = [msgFor 0 (.stepDone [0] 3 1 (2 ^ 33) 0)] ∧ (u.steps = [] ∧ myNode u * 2 ^ 13 + coreId 0 ∈ [0] ∧ m ∈ (getQ u 0 .cre).cmds ∧ isStepCmd [0] 3 m = true)
    ∧ (∀ z ∈ (getQ u 0 .cre).cmds, z.uid = m.uid → z = m)
    ∧ ((cur far).acks ≠ [] ∧ (cur ran).acks = [] ∧ (getCore ran 0).spill = [] ∧ (getCore ran 0).refused = [])
    ∧ ((cur ran).origin = .plain ∧ (cur (withCur ran (fun c => { c with origin := .spike [0] 3 }))).origin = .spike [0] 3) := by
  refine ⟨?_, ?_, ?_, rfl, ?_, ?_, ?_, ?_⟩ <;> decide +kernel

/-- A job of two modules, of which this is the first, joined by port 0, which is up. -/
def pair : State := setPort { ran with dims := (2, 1, 1, 1) } 0 { up := true, credit := freshCredit }

/-- The packet that is served next, by a test of the packets and their places, meets a test. -/
def serves (s : State) (p : State → Nat → Packet → Bool) (b : Packet → Bool) : Bool := match nthAt s (p s) 0 with | some (_, pk) => b pk | none => false

theorem test_meets_RemoteAccessesArePerformedAndAnswered_performed :
    let acc : FarAcc := { kind := .load, addrs := [2 ^ 40], data := [], cas := none, amo := none }; let full := { acc with kind := .store, data := [7] }; let wr : FarAcc := { acc with kind := .store }
    let home := fun (b : Body) (l : List Packet) (d : DirEnt) (k : Option Lock) =>
      ({ waiting ran b with arrived := msgFor 0 b :: l, regions := [{ base := 2 ^ 40, size := 2 ^ 21, home := 0, back := 0, dir := Vector.replicate 32 d, lock := k }] } : State)
    let came := fun (s : State) => ({ s with arrived := ldel s.arrived 0 } : State); let data := msgFor 0 (.accData 0 5 [7] none); let own : DirEnt := { excl := none, dups := [] }
    let peer := waiting ran (.peerReq 5 { acc with addrs := [0] })
    (serves peer peerMay (fun pk => pk.body == .peerReq 5 { acc with addrs := [0] }) = true ∧ (withData (came peer) 0 5 { acc with addrs := [0] }).isSome = true
        ∧ poisoned ran (dramKey 0) = false ∧ poisoned { ran with poison := [eccBase (dramKey 0)] } (dramKey 0) = true ∧ (0 < 2 ^ 39))
    ∧ (∀ d ∈ ([own, { excl := some 1, dups := [] }, { excl := none, dups := [1] }] : List DirEnt), ∀ h ∈ [true, false],
        serves (home (.noneReq 5 wr h) [data] d none) noneMay (fun pk => pk.body == .noneReq 5 wr h) = true
          ∧ (withData (came (home (.noneReq 5 wr h) [data] d none)) 0 5 wr).map (·.1) = some full
          ∧ (regionOf (home .other [] d none) (2 ^ 40)).map (fun r => r.dir[tokenIx r (2 ^ 40)]) = some d)
    ∧ (full.addrs ≠ [] ∧ full.data.length = full.addrs.length ∧ 1 ≠ myNode ran)
    ∧ (serves (home (.noneFwd 5 0 [0] wr) [data] own none) noneMay (fun pk => pk.body == .noneFwd 5 0 [0] wr) = true
        ∧ (withData (came (home (.noneFwd 5 0 [0] wr) [data] own none)) 0 5 wr).map (·.1) = some full)
    ∧ (∀ go ∈ [true, false], let s := home (.noneEnd 5 go) [] own (some { node := 0, tag := 5, acc := full })
        serves s noneMay (fun pk => pk.body == .noneEnd 5 go && pk.src == 0) = true
          ∧ ((s.regions.find? (fun q => (q.lock.map (fun l => l.node == 0 && l.tag == 5)).getD false)).bind (·.lock)).map (·.acc) = some full) := by
  refine ⟨?_, ?_, ?_, ?_, ?_⟩ <;> decide +kernel

theorem test_meets_RemoteAccessesArePerformedAndAnswered_answers :
    let far : FarReq := { tag := 5, who := .ctx 0 0, kind := .load, vas := [2 ^ 40, 2 ^ 40 + 1], node := 1, launch := none }
    let asked := fun (b : Body) (tag : Option Nat) => { waiting (withCur ran (fun c => { c with st := .blocked, farTag := tag, acks := [5] })) b with fars := [far] }
    (∀ b ∈ ([.peerAns 5 (.bytes [(0, 1)]), .noneAns 5 (.bytes [(0, 1), (1, 2)]), .peerAns 5 (.trap 1)] : List Body), takes (asked b (some 5)) isPeerAns (fun pk => pk.body == b) = true)
    ∧ (let s := asked .other (some 5); s.fars.find? (fun f => f.tag == 5) = some far ∧ far.tag = 5 ∧ far.who = .ctx 0 0 ∧ (getCtx s 0).st ≠ .free ∧ (getCtx s 0).start = 0
        ∧ (getCtx s 0).farTag = some 5 ∧ (getCtx s 0).holds = [])
    ∧ (far.got.length + 1 < far.vas.length ∧ far.vas.length ≤ far.got.length + 2)
    ∧ (takes (asked (.peerAck 5) none) isPeerAck (fun pk => pk.body == .peerAck 5) = true ∧ (getCtx (asked (.peerAck 5) none) 0).farTag ≠ some 5) := by
  refine ⟨?_, ?_, ?_, ?_⟩ <;> decide +kernel

/-- A page that is not mapped, one that is not permitted, one whose table entry is in error, an untracked one, a region with a request pending and without. -/
theorem test_meets_TokenInstructionsAsk :
    let r : Region := { base := 2 ^ 40, size := 2 ^ 21, home := 0, back := 0, pend := [(1, none)] }; let va : Word := 0x10000000000
    let leaf := fun (e : Word) (l : List Region) => { ran with tlb := [{ tlb := .clus 0, asid := 0, va := 2 ^ 40, size := 2 ^ 21, pa := 0, ent := e }], regions := l }
    let torn := { ran with poison := [eccBase ((walkCells ran (accOf ran .load) va).headD 0)] }
    (va.toNat - 1 < 2 ^ 40 ∧ 2 ^ 47 ≤ (0x800000000000#64).toNat) ∧ tokCheck ran va true = .fault 0x20 ∧ tokCheck (leaf 0x25 []) va true = .fault 0x21 ∧ tokCheck (leaf 0x2D []) va true = .untracked
    ∧ (tokCheck (leaf 0x6D [r]) va true = .region r ∧ tokCheck (leaf 0x65 [r]) va false = .region r)
    ∧ (match tokCheck torn va true, tokCheck torn va false with | .bad _, .bad _ => true | _, _ => false) = true
    ∧ (r.pend.any (fun q => q.2.isNone) = true ∧ ({ r with pend := [] } : Region).pend.any (fun q => q.2.isNone) = false ∧ r.home = myNode ran)
    ∧ ((cur ran).acks = [] ∧ (cur (withCur ran (fun c => { c with acks := [1] }))).acks ≠ []) := by
  refine ⟨?_, ?_, ?_, ?_, ?_, ?_, ?_, ?_⟩ <;> decide +kernel

/-- A region whose home this module is, in each state of its token that a request meets. -/
theorem test_meets_TokenTransitions_home :
    let r := fun (x : Option Nat) (l : List Nat) => ({ base := 2 ^ 40, size := 2 ^ 21, home := 0, back := 0, dir := Vector.replicate 32 { excl := x, dups := l } } : Region)
    let ask := fun (nb : Bool) => Body.tokReq 5 .acq (2 ^ 40) nb; let s := fun (nb : Bool) (q : Region) => { waiting pair (ask nb) with regions := [q] }
    let j : TokJob := { tag := 5, node := 0, op := .acq, sub := none, prev := .none, waiting := [(0, .none)] }; let busy : Region := { r none [] with job := some j }
    (∀ q ∈ ([r none [], r (some 0) [], r none [0], r (some 1) [], { r (some 0) [] with split := true }] : List Region), ∀ nb ∈ [true, false],
      serves (s nb q) (fun t i p => isTokReq p && mayServe t i p) (fun pk => pk.body == ask nb && pk.src == myNode pair) = true ∧ regionOf (s nb q) (2 ^ 40) = some q)
    ∧ (serves (s true busy) (fun t i p => isTokReq p && mayServe t i p) (fun pk => pk.body == ask true) = true ∧ regionOf (s true busy) (2 ^ 40) = some busy)
    ∧ (serves (waiting pair (ask true)) (fun t i p => isTokReq p && mayServe t i p) (fun pk => pk.body == ask true) = true ∧ regionOf pair (2 ^ 40) = none)
    ∧ (reachable pair 0 0 = true ∧ reachable pair 0 1 = true ∧ reachable ran 0 1 = false)
    ∧ (((r (some 0) []).dir[0]).excl = some 0 ∧ ((r none []).dir[0]).excl ≠ some 0 ∧ 0 ∈ ((r none [0]).dir[0]).dups ∧ ((r none []).dir[31]).excl ≠ some 0 ∧ ((r (some 1) []).dir[0]).excl = some 1)
    ∧ (busy.job = some j ∧ j.sub = none) := by
  refine ⟨?_, ?_, ?_, ?_, ?_, ?_⟩ <;> decide +kernel

theorem test_meets_TokenTransitions_messages :
    let r : Region := { base := 2 ^ 40, size := 2 ^ 21, home := 0, back := 0, split := true, own := Vector.replicate 32 .excl, lines := [2 ^ 32], copied := 2 ^ 16 }
    let j : TokJob := { tag := 5, node := 0, op := .rel, sub := some 31, prev := .excl, waiting := [(0, .none)] }; let far : Region := { r with home := 1 }
    let s := fun (b : Body) (q : Region) => { waiting pair b with regions := [q] }; let cells := [(2 ^ 40, (1 : Byte))]
    let f : FarReq := { tag := 5, who := .ctx 0 0, kind := .load, vas := [2 ^ 40], node := 0, launch := none }
    let ans := { waiting (withCur ran (fun c => { c with st := .blocked, wait := some (.token 3) })) (.tokAnswer 5 0 .dup) with fars := [f] }
    (∀ b ∈ ([.tokRevoke (2 ^ 40) (some 31) .none, .tokSplit (2 ^ 40) false .excl] : List Body), takes (s b r) isRevoke (fun pk => pk.body == b) = true ∧ busyHolder (s b r) (2 ^ 40) = false)
    ∧ (∀ q ∈ ([r, far] : List Region), regionOf (s .other q) (2 ^ 40) = some q ∧ (∀ y ∈ (s .other q).regions, y.base = q.base → y = q)) ∧ (r.home = myNode pair ∧ far.home ≠ myNode pair)
    ∧ (r.own[subIx (some 31)] = .excl ∧ ({ r with job := some j } : Region).job = some j ∧ j.waiting = [(0, .none)] ∧ j.op ≠ .split ∧ j.op ≠ .merge ∧ j.grant = none ∧ j.lost = false
        ∧ ({ j with lost := true } : TokJob).lost = true ∧ ({ j with op := .acq, grant := some (.excl, true), node := 1 } : TokJob).grant = some (.excl, true) ∧ 1 ≠ myNode pair
        ∧ ({ j with op := .split, sub := none } : TokJob).op = .split)
    ∧ (∀ b ∈ ([.tokRevokeAck (2 ^ 40) (some 31) .none, .tokRevokeAck (2 ^ 40) none .none, .tokWriteBack (2 ^ 40) cells] : List Body),
        takes (s b r) isRevokeAck (fun pk => pk.body == b && pk.src == 0) = true)
    ∧ (∀ b ∈ ([.tokGrant (2 ^ 40) (some 31) .excl true 5, .grantCopy (2 ^ 40) 5 cells] : List Body), (takeOrdered (s b r) (strictly isGrant) (fun p => isGrant p && grantMay (s b r) p) 0).map (fun q => q.1.body) = some b)
    ∧ (takes ans isTokAns (fun pk => pk.body == .tokAnswer 5 0 .dup) = true ∧ ans.fars.find? (fun f => f.tag == 5) = some f ∧ f.who = .ctx 0 0 ∧ (getCtx ans 0).wait = some (.token 3)
        ∧ (getCtx ans 0).start = 0) := by
  refine ⟨?_, ?_, ?_, ?_, ?_, ?_, ?_⟩ <;> decide +kernel

theorem test_meets_PortsFailAndComeBack :
    let s := fun (p : Port) => { setPort pair 0 p with cycle := 33000 }; let w := { msgFor 1 .other with kind := 0 }; let kept := getPort (s { up := true, retry := [(0, w)] }) 0
    let f : LinkFlit := { good := true, seq := 0, ack := 0, nak := true, cred := [1] }
    ((getPort ran 7).up = false ∧ (getPort pair 0).up = true ∧ 8 ≤ (getPort (s { up := true, fails := 8 }) 0).fails ∧ (getPort pair 0).fails < 8)
    ∧ (f.good = true ∧ ({ f with good := false } : LinkFlit).good = false ∧ f.seq = (getPort pair 0).rseq ∧ ({ f with seq := 1 } : LinkFlit).seq ≠ (getPort pair 0).rseq ∧ f.nak = true
        ∧ ({ f with nak := false } : LinkFlit).nak = false ∧ (getPort pair 0).naks < 7 ∧ 7 ≤ (getPort (s { up := true, naks := 7 }) 0).naks ∧ (getPort pair 0).queue = [])
    ∧ ((getPort (s { up := true, queue := [w] }) 0).queue = [w] ∧ w.cls < 6 ∧ 1 + w.ndf ≤ (getPort (s { up := true, queue := [w] }) 0).credit.getD 1 0 + ({ f with cred := [0, 1] } : LinkFlit).cred.getD 1 0
        ∧ (getPort (s { up := true, queue := [w] }) 0).credit.getD 1 0 + f.cred.getD 1 0 < 1 + w.ndf)
    ∧ ((getPort pair 0).lossAt = none ∧ (getPort (s { up := true, lossAt := some 8000 }) 0).lossAt = some 8000 ∧ 8000 + 2000 ≤ nowNs (s {}) ∧ ¬ 8001 + 2000 ≤ nowNs (s {}))
    ∧ (kept.retry ≠ [] ∧ kept.ackAt + 10000 ≤ nowNs (s {}) ∧ (getPort pair 0).retry = [])
    ∧ (portPeer pair 0 = some 1 ∧ portPeer pair 7 = none ∧ pair.launches ≠ [] ∧ ({ pair with launches := [] } : State).launches = [])
    ∧ (∀ j < 256, ¬ (bar { pair with launches := [] } (0x010100 + 8 * j)).toNat / 2 ^ 63 % 2 = 1) := by
  refine ⟨?_, ?_, ?_, ?_, ?_, ?_, ?_⟩ <;> decide +kernel

theorem test_meets_PacketsArriveAreResentOrLost_arrivals :
    let pk := { msgFor 2 (.linkDown 0 1 0) with src := 1, ndf := 0 }; let push := { msgFor 1 (.pushMem 0 1 none 0 0 [(0, 1)]) with src := 1, ndf := 0 }; let ack := { msgFor 0 (.ack 2 0) with src := 1, ndf := 0 }
    (∃ i < 8, (getPort pair i).up = true) ∧ ¬ (∃ i < 8, (getPort ran i).up = true)
    ∧ (6 ≤ ({ pk with cls := 6 } : Packet).cls ∧ ({ pk with resv := 1 } : Packet).resv ≠ 0 ∧ 16 < ({ pk with ndf := 17 } : Packet).ndf ∧ 24 ≤ ({ pk with clus := 24 } : Packet).clus ∧ 48 ≤ ({ pk with core := 48 } : Packet).core)
    ∧ (¬ (6 ≤ pk.cls ∨ pk.resv ≠ 0 ∨ 16 < pk.ndf ∨ (pk.mcast = true ∧ pk.cls ≠ 4) ∨ 24 ≤ pk.clus ∨ 48 ≤ pk.core) ∧ pk.dst = myNode pair ∧ ({ pk with dst := 1 } : Packet).dst ≠ myNode pair)
    ∧ (pk.body ≠ .other ∧ pk.seq = (flowOf pair pk.src pk.cls).rx ∧ ({ pk with seq := 1 } : Packet).seq ≠ (flowOf pair pk.src pk.cls).rx ∧ leavePort pair (myNode pair) pk.src = some 0)
    ∧ clearPort pair 0 2 1
    ∧ (push.cls = 1 ∧ push.dst = myNode pair ∧ poisoned pair (dramKey 0) = false) ∧ (ack.body = .ack 2 0 ∧ ack.dst = myNode pair) := by
  unfold clearPort
  refine ⟨?_, ?_, ?_, ?_, ?_, ?_, ?_, ?_⟩ <;> decide +kernel

theorem test_meets_PacketsArriveAreResentOrLost_timeouts :
    let p := fun (cls node : Nat) (b : Body) => ({ pkt := { msgFor cls b with kind := 0, dst := node, ord := true }, first := 0, last := 0, launch := some 0 } : Sent); let late := fun (s : State) (l : List Sent) => { s with cycle := 330000, sent := l }
    let msg : Msg := { cls := 0, rel := false, spilled := false, src := 0, a0 := 0, a1 := 0, a2 := 0, a3 := 0, job := 16 }; let id : BookId := 0x8000
    let x : LinkDown := { a := 0, b := 1, dim := 0, time := 0 }; let push := p 1 1 (.pushPeg 0 7 none id 0 0 1 true false []); let note := waiting pair (.linkDown 1 0 0)
    let fr : FarReq := { tag := 7, who := .cmd 0 .cpe 1, kind := .engWrite, vas := [], node := 1, launch := some 0, push := true }
    let swept := { late (setQ pair 0 .cpe { cmds := [cmd (word [(0, 0x20)]) 3] }) [push] with notices := [x], fars := [fr] }
    lfindN (fun p : Sent => reliable p.pkt.cls && decide (p.last + 5000 ≤ nowNs (late pair [p]))) (late pair [p 0 1 (.msg msg)]).sent 0 = some (0, p 0 1 (.msg msg))
    ∧ (∀ b ∈ ([.msg msg, .bookRel id] : List Body), let s := late ran [p 0 1 b]
        lfindN (fun p : Sent => reliable p.pkt.cls && decide (p.first + 100000 ≤ nowNs s) && !reachable s (myNode s) p.pkt.dst) s.sent 0 = some (0, p 0 1 b))
    ∧ (kmem ran.launches 0 = true ∧ (getLaunch ran 0).first = none ∧ (p 0 1 (.msg msg)).who = none ∧ ({ p 0 1 (.msg msg) with who := some 3 } : Sent).who = some 3)
    ∧ (takes note isLinkDown (fun pk => pk.body == .linkDown 1 0 0) = true ∧ linkNoticed note.notices 1 0 0 = false ∧ portsOf note 1 0 0 = [0] ∧ portsOf note 1 0 3 = []
        ∧ (getPort (setPort note 0 {}) 0).up = false)
    ∧ (lfindN (fun x : LinkDown => !x.swept && decide (x.time + 100000 ≤ nowNs swept)) swept.notices 0 = some (0, x) ∧ swept.fars = [fr] ∧ swept.grems = [] ∧ swept.sent = [push])
    ∧ (push.pkt.cls = 1 ∧ push.pkt.ord = true ∧ push.first ≤ x.time ∧ wentOver swept x (myNode swept) push.pkt.dst = true ∧ findCmd swept 0 .cpe 1 = some (cmd (word [(0, 0x20)]) 3)
        ∧ (cmd (word [(0, 0x20)]) 3).status = 0 ∧ idNode id ≠ myNode swept) := by
  refine ⟨?_, ?_, ?_, ?_, ?_, ?_⟩ <;> decide +kernel

/-- A launch of `ran` changed. -/
def withLaunch (s : State) (f : Launch → Launch) : State := setLaunch s 0 (f (getLaunch s 0))
/-- A record of one core that waits in a stage's queue, with its first word. -/
def queuedRec (w : Word) : Pending := { key := 1, words := oneCoreRec.set 0 w, image := [], tacc := 0, seq := 0, root := 0, rank := 0 }
/-- A record of all 48 cores of D0's first cluster, of which launch 0 has one. -/
def wholeCluster (w : Word) : Pending := { queuedRec w with words := (((oneCoreRec.set 0 w).set 8 0x3100000030).set 9 0x3300000001).set 17 0x10001 }
/-- `ran` with one record in D0's queue. -/
def pending (s : State) (p : Pending) : State := setDie s 0 { pend := [p] }

theorem test_meets_LaunchesAreQueuedAndStarted_arrival :
    let m : Msg := { cls := 19, rel := false, spilled := false, src := 0, a0 := 0, a1 := 0, a2 := 0, a3 := 0, job := 0 }
    let s := setDie { setBar ran 0x010100 (1#64 <<< 63) with mem := msetAll [] [(dramKey 0 + 0, 1), (dramKey 0 + 1, 0x10), (dramKey 0 + 2, 3), (dramKey 0 + 64, 1), (dramKey 0 + 68, 0x11)] } 0 { inbox := [m] }
    let ws := (List.range 32).map (fun i => BitVec.ofNat 64 (cellsNat s (fun y => dramKey 0 + 8 * i + y) 8)); let sig : Launch := { words := oneCoreRec.set 6 (2#64 <<< 62), job := 0 }
    (bootState s = 4 ∧ (getDie s 0).pend.length < 256 ∧ ¬ bootState State.reset = 4) ∧ (∀ q ∈ s.arrived, isPart q = false) ∧ (getDie s 0).inbox = [m] ∧ bits m.a3 2 62 = 0
    ∧ takes (waiting s (.launchPart 7 oneCoreRec [] 1 1 5)) isPart (fun pk => pk.body == .launchPart 7 oneCoreRec [] 1 1 5) = true
    ∧ (m.a0.toNat % 256 = 0 ∧ m.a0.toNat < 2 ^ 39 ∧ ({ m with a0 := 1 } : Msg).a0.toNat % 256 ≠ 0 ∧ 8 * 2 ^ 52 / 2 ^ 52 = 8 ∧ 8 * 2 ^ 52 % 2 ^ 52 < 2 ^ 31 ∧ coreOfId (8 * 2 ^ 52 / 2 ^ 18 % 2 ^ 13) = some 0)
    ∧ (∀ i < 32, poisoned s (dramKey 0 + 8 * i) = false ∧ eccBase (dramKey 0 + 8 * i) ∉ s.soft)
    ∧ (ws = oneCoreRec ∧ recReason (setDie s 0 {}) { words := ws, job := 0 } 0 (some 0) = 0 ∧ recReason (setDie s 0 {}) { words := ws, job := 1 } 0 (some 1) ≠ 0 ∧ recKind { words := ws } ≠ 2)
    ∧ (recKind sig = 2 ∧ recReason (setDie s 0 {}) sig 0 (some 1) ≠ 0 ∧ recScls sig < 16 ∧ idNode (recSigd sig) = myNode s ∧ jobNode s (myNode s) = true ∧ (idCore (recSigd sig)).isSome = true)
    ∧ (getDie (setDep ran 0 3 { st := .firing }) 0).inbox = [] ∧ (getDie (setDep ran 0 3 { st := .firing }) 0).dep.find? (fun e => e.2.st == .firing) = some (3, { st := .firing }) := by
  refine ⟨?_, ?_, ?_, ?_, ?_, ?_, ?_, ?_, ?_, ?_, ?_⟩ <;> decide +kernel

/-- A record of one core is placed on the second core where core 0 is taken, and one of the whole cluster waits; a translated and a slice handler table, good and bad. -/
theorem test_meets_LaunchesAreQueuedAndStarted_admission :
    let p := { queuedRec 0x00031001 with words := oneCoreRec.set 17 0x10001 }; let s := pending ran p; let q := wholeCluster 0x00031002; let full := pending ran q
    let bad : Pending := { p with words := p.words.set 16 0x10000000000, image := [0x8000000000000000], host := some 0 }
    bootState s = 4 ∧ (getDie s 0).pend = [p] ∧ p.restore = false ∧ neverPlaced s p = false ∧ placement s 0 p = some ([0], 0, [1])
    ∧ (neverPlaced full q = false ∧ placement full 0 q = none ∧ (placement { full with cores := [] } 0 q).isSome = true)
    ∧ (recHtab { words := p.words } = 0 ∧ handOk (List.replicate 20 0) = true ∧ [1].Nodup)
    ∧ (placement (pending ran bad) 0 bad = some ([0], 0, [1]) ∧ htabFar { words := bad.words } = true ∧ handOk bad.image = false ∧ recHtab { words := bad.words } ≠ 0 ∧ bad.host = some 0)
    ∧ (let far := { words := p.words.set 16 0x3FF60 : Launch }; recHtab far ≠ 0 ∧ recHtab far + 160 ≤ 2 ^ 18 ∧ ∀ y < 160, poisoned s (sliceKey 1 (recHtab far + y)) = false) := by
  refine ⟨?_, ?_, ?_, ?_, ?_, ?_, ?_, ?_, ?_⟩ <;> decide +kernel

theorem test_meets_DependenceTable :
    let s := fun (st : DepSt) (b : Body) => waiting (setDep ran 0 3 { st := st, count := 2 }) b; let ans := waiting (withCur ran (fun c => { c with st := .blocked, wait := some (.dep 4) })) (.depAns 0 0 5)
    ((cur ran).acks = [] ∧ (cur (withCur ran (fun c => { c with acks := [1] }))).acks ≠ [])
    ∧ (∀ st b, (s st b).arrived = [msgFor 0 b]) ∧ (∀ b ∈ ([.depDec 0 3 1, .depOp 0 0 0 3 false 1, .depOp 0 0 0 3 true 1] : List Body), ∀ st ∈ [DepSt.armed, .idle], (getDep (s st b) 0 3).st = st)
    ∧ takes ans isDepAns (fun pk => pk.body == .depAns 0 0 5) = true ∧ ((getCtx ans 0).wait = some (.dep 4) ∧ (getCtx ans 0).start = 0) := by
  refine ⟨?_, fun _ _ => rfl, ?_, ?_, ?_⟩ <;> decide +kernel

theorem test_meets_LaunchesEnd_parts :
    let idle := withCur ran (fun c => { c with st := .free })
    (getCore ran 0).launch = some 0 ∧ (getLaunch ran 0).first = none ∧ (getLaunch ran 0).pre = .no ∧ (getCore ran 0).ended = false ∧ (getCore ran 0).refused = [] ∧ (getCore ran 0).spill = []
    ∧ ((∀ i < 11, (getCtx idle (ctxNo 0 i)).st = .free) ∧ (getCtx ran 0).st ≠ .free ∧ ∀ e : Fin 4, (getCore idle 0).eng[e].cmds = []) := by
  refine ⟨?_, ?_, ?_, ?_, ?_, ?_, ?_⟩ <;> decide +kernel

theorem test_meets_LaunchesEnd_completion :
    let s := withCore ran (fun c => { c with ended := true }); let x := getLaunch s 0; let w := withLaunch s (fun x => { x with words := x.words.set 5 0x100 })
    (kmem s.launches 0 = true ∧ ∀ q ∈ s.arrived, isEnd q = false) ∧ (x.pre = .no ∧ x.first = none ∧ (∀ k ∈ x.cores, (getCore s k).ended = true)) ∧ (getCore ran 0).ended = false
    ∧ (x.root = myNode s ∧ ({ x with root := 1 } : Launch).root ≠ myNode s ∧ x.reported = false ∧ x.partsLeft = [] ∧ ({ x with partsLeft := [1] } : Launch).partsLeft ≠ [])
    ∧ (x.localEnd = false ∧ x.nodes = [myNode s] ∧ x.recSent = false ∧ x.recTag = none ∧ recCrec x = 0)
    ∧ (let y := { x with nodes := [0, 1], localEnd := true, freeLeft := [1] }; (∃ n ∈ y.nodes, n ≠ myNode s) ∧ y.localEnd = true ∧ y.freeLeft ≠ [] ∧ ({ y with freeLeft := [] } : Launch).freeLeft = [])
    ∧ ((recCrec (getLaunch w 0)).toNat + 64 ≤ 2 ^ 18 ∧ launchOf w 0 = some 0 ∧ ∀ i < 64, poisoned w (sliceKey 0 (0x100 + i)) = false)
    ∧ ((List.range 4).all (fun n => recKind { x with words := x.words.set 6 (BitVec.ofNat 64 (n * 2 ^ 62)) } == n) = true ∧ bits (bar (setBar s 0x100008 0) (0x100008 + 16 * recSval x)) 32 1 = 0)
    ∧ (recScls x < 16 ∧ idNode (recSigd x) = myNode s ∧ jobNode s (myNode s) = true ∧ (idCore (recSigd x)).isSome = true) := by
  refine ⟨?_, ?_, ?_, ?_, ?_, ?_, ?_, ?_, ?_⟩ <;> decide +kernel

/-- The messages by which the modules of a launch end it together. -/
theorem test_meets_LaunchesEnd_messages :
    let s := fun (root : Nat) (b : Body) => let w := waiting (withLaunch ran (fun x => { x with root := root, nodes := [0, 1], partsLeft := [1], freeLeft := [1], localEnd := decide (root = 0), reported := true })) b
      { w with arrived := [{ msgFor 0 b with src := if root = 0 then 0 else 1 }] }
    (∀ b ∈ ([.launchEnd 0 false, .launchEnd 0 true, .partFreed 0, .partEnd 0 1 none 2 3, .qrunNote 0 true, .qrunNote 0 false] : List Body), ∀ r < 2,
      (takeArrived (s r b) isEnd 0).map (fun q => (q.1.body, q.2.arrived.length)) = some (b, 0) ∧ kmem (s r b).launches 0 = true)
    ∧ (let x := getLaunch (s 1 .other) 0; x.root ≠ myNode ran ∧ x.reported = true ∧ ∀ p ∈ (s 1 .other).arrived, p.src ≠ myNode ran)
    ∧ (let x := getLaunch (s 0 .other) 0; x.root = myNode ran ∧ x.localEnd = true ∧ (∃ n ∈ x.freeLeft, n ≠ 0) ∧ (∃ n ∈ x.partsLeft, n ≠ 0) ∧ x.first = none) := by
  refine ⟨?_, ?_, ?_⟩ <;> decide +kernel

theorem test_meets_LaunchesEnd_faults :
    let f : FaultRec := { core := 0, ctx := 0, cause := 0x124, fva := 0, time := 7 }; let g := { f with time := 6 }; let s := withLaunch ran (fun x => { x with first := some f })
    let n := waiting ran (.faultNotice 0 g); let p := { queuedRec 0x00031001 with key := 0, root := 1 }
    let late := { pending n p with launches := [] }
    let kept := withLaunch s (fun x => { x with pre := .saved, cores := [], images := [{ slot := 0, core := { launch := some 0, books := [{ id := 0x8000 }] }, ctxs := [], lines := [], bytes := [] }] })
    (kmem s.launches 0 = true ∧ (getLaunch s 0).first = some f ∧ (getLaunch s 0).stopped = false ∧ (∀ k ∈ (getLaunch s 0).cores, launchOf s k = some 0 ∧ (getCore s k).books = []) ∧ (getLaunch ran 0).first = none)
    ∧ ((getLaunch kept 0).pre = .saved ∧ (∀ k ∈ (getLaunch kept 0).cores, launchOf kept k = some 0) ∧ ∃ im ∈ newestImages (getLaunch kept 0), ∃ b ∈ im.core.books, idNode b.id ≠ myNode kept)
    ∧ takes n isFaultNote (fun pk => pk.body == .faultNotice 0 g) = true ∧ (g.time < f.time ∧ (getLaunch n 0).root = myNode n)
    ∧ takes late isFaultNote (fun pk => pk.body == .faultNotice 0 g) = true
    ∧ (kmem late.launches 0 = false ∧ p ∈ (getDie late 0).pend ∧ p.key = 0 ∧ p.root ≠ myNode late ∧ ∀ d < 4, ∀ q ∈ (getDie late d).pend, q.key = 0 → q = p) := by
  refine ⟨?_, ?_, ?_, ?_, ?_, ?_⟩ <;> decide +kernel

theorem test_meets_WatchdogsFault :
    let s := { setBar (setBar (setBar ran 0x090008 1) 0x090000 0) 0x090100 0 with cycle := 33000 }; let x := getLaunch s 0
    let b := withCur s (fun c => { c with st := .blocked, wait := some (.token 3) }); let job := fun (n : Nat) => { waiting s (.debugHold 0 0 true) with jobs := kset [] 0 ({ holds := n } : Job) }
    (kmem s.launches 0 = true ∧ x.first = none ∧ x.began = true ∧ x.pre = .no ∧ (getJob s x.job).holds = 0 ∧ bits (recWord x 18) 0 32 = 0)
    ∧ 1000 * bits (bar s 0x090008) 0 32 < x.ran + (nowNs s - x.mark)
    ∧ (launchOf b 0 = some 0 ∧ launchRuns b 0 = true ∧ (getCtx b 0).st = .blocked ∧ (getCtx b 0).wait = some (.token 3) ∧ (∀ e : Fin 4, (getCore b 0).eng[e].cmds = []) ∧ (getCtx s 0).st ≠ .blocked)
    ∧ (∀ k1 ∈ (launchRec b 0).cores, (getQ b k1 .cre).cmds = []) ∧ max (getCtx b 0).blockedAt (max (getCore b 0).wdBase (launchRec b 0).wdBase) + bits (bar b 0x090000) 0 32 * 1000000 < nowNs b
    ∧ ((getJob s 0).holds = 0 ∧ bits (bar s 0x090100) 0 32 * 1000000 < (getJob s 0).count + (nowNs s - (getJob s 0).since) ∧ (getJob (job 1) 0).holds = 1)
    ∧ (takes (job 2) isHold (fun pk => pk.body == .debugHold 0 0 true) = true ∧ takes (waiting s (.debugHold 0 0 false)) isHold (fun pk => pk.body == .debugHold 0 0 false) = true) := by
  refine ⟨?_, ?_, ?_, ?_, ?_, ?_, ?_⟩ <;> decide +kernel

theorem test_meets_DebuggerHaltsStepsAndResumes :
    let s := withCore ran (fun c => { c with halted := true }); let b := withCur s (fun c => { c with st := .halted }); let saved := fun (p : Preempt) => withLaunch ran (fun x => { x with pre := p })
    ((getCore ran 0).launch ≠ none ∧ (getCore ran 0).halted = false ∧ (getCore ran 1).launch = none ∧ (getCore s 0).halted = true ∧ (getCore s 0).spill = [] ∧ (getCore s 0).refused = [])
    ∧ ((getCtx b 0).st = .halted ∧ (getCtx b 0).farTag = none ∧ (getCtx b 0).wait = none ∧ (getCtx s 0).st ≠ .halted ∧ (10 < 11) ∧ (0x3FFFF < 2 ^ 18))
    ∧ ((launchRec ran 0).pre = .no ∧ (launchRec (saved .stop) 0).pre ≠ .no ∧ (launchRec (saved .stop) 0).pre ≠ .back ∧ (getCore (saved .stop) 0).launch ≠ none) := by
  refine ⟨?_, ?_, ?_⟩ <;> decide +kernel

/-- A record of a higher LPRI than launch 0's, which needs core 0. -/
def presser : Pending := wholeCluster 0x00031102
/-- It waits at D0. -/
def pressed : State := pending ran presser
/-- `pressed`, in which another module is the root, which has ordered the given step. -/
def pressedFar (n : Nat) : State := withLaunch pressed (fun x => { x with root := 1, preOrder := n })

theorem test_meets_PreemptionSavesALaunch_head :
    (kmem pressed.launches 0 = true ∧ (∀ q ∈ pressed.arrived, isPre q = false) ∧ bootState pressed = 4 ∧ ∀ q ∈ pressed.launches, q.1 = 0 ∧ q.2.pre = .no) ∧ (getDie pressed 0).pend = [presser]
    ∧ (fitsNow pressed 0 presser = false ∧ fitsNow (pressedFar 0) 0 presser = false) ∧ recLpri (getLaunch pressed 0) < recLpri { words := presser.words } := by
  refine ⟨?_, ?_, ?_, ?_⟩ <;> decide +kernel

theorem test_meets_PreemptionSavesALaunch_stop :
    let asked := withLaunch ran (fun x => { x with preDone := [8] })
    ((getLaunch pressed 0).pre = .no ∧ (getLaunch pressed 0).first = none ∧ (getLaunch pressed 0).cores = [0] ∧ (getLaunch pressed 0).halts = 0 ∧ (getCore pressed 0).halted = false ∧ pressed.clus.isEmpty = true)
    ∧ ((getLaunch pressed 0).root = myNode pressed ∧ (getLaunch ran 0).preDone = [] ∧ ∀ d < 4, headOf_ (getDie ran d).pend = none)
    ∧ ((∃ n ∈ (getLaunch asked 0).preDone, n % 8 = 0) ∧ (getLaunch (withLaunch ran (fun x => { x with halts := 1 })) 0).halts ≠ 0)
    ∧ ((getLaunch (pressedFar 0) 0).root ≠ myNode (pressedFar 0) ∧ (getLaunch (pressedFar 0) 0).preDone = [] ∧ (getLaunch (pressedFar 1) 0).preOrder = 1) := by
  refine ⟨?_, ?_, ?_, ?_⟩ <;> decide +kernel

theorem test_meets_PreemptionSavesALaunch_steps :
    let s := fun (p : Preempt) => withLaunch ran (fun x => { x with pre := p, preDone := [1, 2, 3] }); let pend := withCur (s .stop) (fun c => { c with acks := [1] }); let hurt := { s .drain with poison := [sliceKey 0 0] }
    (∀ p ∈ [Preempt.stop, .drain, .write], kmem (s p).launches 0 = true ∧ (getLaunch (s p) 0).pre = p ∧ (getLaunch (s p) 0).first = none ∧ (getLaunch (s p) 0).root = myNode (s p)
      ∧ ∀ m ∈ (getLaunch (s p) 0).nodes, m = myNode (s p)) ∧ (∀ q ∈ (s .stop).arrived, isPre q = false)
    ∧ ((getCtx pend (ctxNo 0 0)).acks ≠ [] ∧ 0 ∈ (getLaunch pend 0).cores)
    ∧ ((s .stop).sent = [] ∧ (∀ k ∈ (getLaunch (s .stop) 0).cores, (∀ i < 11, (getCtx (s .stop) (ctxNo k i)).acks = [] ∧ (getCtx (s .stop) (ctxNo k i)).wait = none)
      ∧ (∀ e ∈ [Engine.mxu, .cpe, .gte], (getQ (s .stop) k e).cmds = []) ∧ (getCore (s .stop) k).lzres = none ∧ ∀ q < 4, (getPitch (s .stop) k q).books = []))
    ∧ (0 ∈ (getLaunch hurt 0).cores ∧ launchOf hurt 0 = some 0 ∧ ∃ g ∈ hurt.poison, sliceKey 0 0 ≤ g ∧ g < sliceKey 0 0 + 2 ^ 18 ∧ lineOf g ∉ hurt.clean)
    ∧ ((s .drain).poison = [] ∧ memInv (s .drain) ∧ (s .drain).saveArea.1 + (s .drain).saveArea.2 ≤ 2 ^ 39) := by
  unfold memInv
  refine ⟨?_, ?_, ?_, ?_, ?_, ?_⟩ <;> decide +kernel

theorem test_meets_SavedLaunchesAreRestored :
    let im : CoreImage := { slot := 0, addr := 2 ^ 30, len := 64, core := { launch := some 0 }, ctxs := [(0, { st := .ready, sd := 1 })], lines := [1], bytes := [(256, 7)] }
    let p := { queuedRec 0x00031001 with key := 0, restore := true }
    let s := fun (c : Core) (bs : List BankImage) => setCore (pending (withLaunch ran (fun x => { x with pre := .saved, cores := [], images := [{ im with core := c }], banks := bs })) p) 0 {}
    let a := s {} []; let x := getLaunch a 0; let held := setOct (s {} [{ oct := 0, bank := 0, data := {} }]) 0 { banks := Vector.replicate 4 { owner := some 9 } }
    let bound := s { pitch := Vector.replicate 4 { state := 1 } } []
    (kmem a.launches 0 = true ∧ x.pre = .saved ∧ x.first = none ∧ bootState a = 4 ∧ x.die = 0 ∧ ∀ q ∈ a.arrived, isPre q = false)
    ∧ (p ∈ (getDie a 0).pend ∧ p.key = 0 ∧ p.restore = true ∧ ∀ q ∈ (getDie a 0).pend, q = p)
    ∧ (restorePlace a x = some [(0, 0)] ∧ restorePlace bound (getLaunch bound 0) = some [(0, 0)] ∧ restorePlace (setCore bound 0 { launch := some 9 }) (getLaunch bound 0) = none)
    ∧ restorePlace (setCore a 0 { launch := some 9 }) x = some [(0, 48)]
    ∧ (banksFree a x [(0, 0)] = true ∧ banksFree held (getLaunch held 0) [(0, 0)] = false)
    ∧ ((newestImages x).length = 1 ∧ ((newestImages x).map (fun i => moved [(0, 48)] i.slot)).Nodup)
    ∧ (∀ i ∈ newestImages x, i.core.spill = [] ∧ i.core.refused = [] ∧ moved [(0, 48)] i.slot < 4608 ∧ (i.ctxs.map (·.1)).Nodup ∧ ∀ c ∈ i.ctxs, c.1 < 11)
    ∧ (∃ j ∈ x.images, j.addr ≤ 2 ^ 30 ∧ 2 ^ 30 < j.addr + j.len ∧ j.slot = 0 ∧ 1 ∈ j.lines ∧ 0 ∉ j.lines ∧ ∃ c ∈ j.ctxs, c.2.sd.getLsbD 0 = true) := by
  refine ⟨?_, ?_, ?_, ?_, ?_, ?_, ?_, ?_⟩ <;> decide +kernel

/-- A part that is restored and waits for the others of its launch, at the root and elsewhere. -/
theorem test_meets_SavedLaunchesAreRestored_together :
    let s := fun (r n : Nat) (l : List Nat) => withLaunch ran (fun x => { x with pre := .back, root := r, nodes := [0, 1], preOrder := n, preDone := l })
    (∀ r < 2, kmem (s r 0 []).launches 0 = true ∧ (getLaunch (s r 0 []) 0).pre = .back ∧ ∀ q ∈ (s r 0 []).arrived, isPre q = false)
    ∧ ((getLaunch (s 0 0 []) 0).root = myNode ran ∧ ∃ n ∈ (getLaunch (s 0 0 []) 0).nodes, n ≠ myNode ran ∧ 8 * n + 5 ∉ (getLaunch (s 0 0 []) 0).preDone)
    ∧ ((getLaunch (s 1 4 []) 0).root ≠ myNode ran ∧ (getLaunch (s 1 4 []) 0).preOrder ≠ 5 ∧ (getLaunch (s 1 5 []) 0).preOrder = 5)
    ∧ (∀ n ∈ (getLaunch (s 0 0 [13]) 0).nodes, n = myNode ran ∨ 8 * n + 5 ∈ (getLaunch (s 0 0 [13]) 0).preDone)
    ∧ (∀ k ∈ (getLaunch (s 0 0 []) 0).cores, (getCore (s 0 0 []) k).spill = [] ∧ (getCore (s 0 0 []) k).refused = []) := by
  refine ⟨?_, ?_, ?_, ?_, ?_⟩ <;> decide +kernel

theorem test_meets_RegistersAreWritten :
    let v : Word := 0x500000081; let mb := 0x100008 + 16 * 3; let s := setBar ran 0x108000 8
    ((3 ≠ 4 ∧ 3 ≠ 8) ∧ (0x001004#24).toNat % 4 = 0 ∧ (0x001004#24).toNat / 8 * 8 ≠ 0 ∧ (0x001004#24).toNat / 8 * 8 ≠ 0x002000 ∧ (0x010008#24).toNat / 8 * 8 = 0x010008)
    ∧ (¬ (4 ≤ v.toNat % 16) ∧ 4 ≤ (4#64).toNat % 16 ∧ (4#64).toNat % 16 ≤ 12 ∧ (0#64).toNat % 2 ^ 12 < 2 ^ bits (bar s 0x001010) 0 4 ∧ ¬ (0xFFF#64).toNat % 2 ^ 12 < 2 ^ bits (bar s 0x001010) 0 4)
    ∧ (v.toNat / 2 ^ 7 % 2 = 1 ∧ v.toNat / 2 ^ 32 % 2 = 1 ∧ v.toNat % 4 = 1 ∧ (2#64).toNat % 4 = 2 ∧ (4#64).toNat % 4 = 0)
    ∧ (bits (bar s (0x108000 + 8 * (3 / 64))) (3 % 64) 1 = 1 ∧ ¬ bits (bar ran (0x108000 + 8 * (3 / 64))) (3 % 64) 1 = 1 ∧ 3 < 2048 ∧ mb = 0x100038)
    ∧ (masked s 0x010010 0x1F 0 = bar s 0x010010 ∨ masked s 0x010010 0x1F 1 = bar s 0x010010) ∧ (masked s 0x010010 0x1F 2 ≠ bar s 0x010010)
    ∧ ((0x2048#16).toNat < 0x2050 ∧ (0x2048#16).toNat % 8 = 0 ∧ 0x002318 < 0x002320 ∧ 0x002318 % 8 = 0 ∧ 0x002FF8 < 0x003000 ∧ 0x002FF8 % 8 = 0)
    ∧ (4607 < 4608 ∧ 0x07FFFF < 0x080000 ∧ 0x089000 ≤ 0x089000) := by
  refine ⟨?_, ?_, ?_, ?_, ?_, ?_, ?_, ?_⟩ <;> decide +kernel

/-- An entry at the head of the queue names a record at host address 0x1000, which is a record of one core or empty. -/
theorem test_meets_HostQueueIsServed :
    let put := fun (l : List (Nat × Byte)) => { setBar (setBar (setBar (setBar ran 0x010100 (1#64 <<< 63)) 0x001000 1) 0x001010 4) 0x001018 1 with mem := msetAll [] l }
    let s := put [(hostKey 1, 0x10), (hostKey 0x1000, 1), (hostKey 0x1001, 0x10), (hostKey 0x1002, 3), (hostKey 0x1040, 1), (hostKey 0x1044, 0x11)]; let bad := put [(hostKey 1, 0x10)]
    let l := fun (s : State) => ({ words := (List.range 32).map (fun i => BitVec.ofNat 64 (cellsNat s (fun y => hostKey ((0x1000 + 8 * i + y) % 2 ^ 64)) 8)) } : Launch)
    (bootState s = 4 ∧ bits (bar s 0x001000) 0 1 = 1 ∧ (bar s 0x001020).toNat ≠ (bar s 0x001018).toNat % 2 ^ 12 ∧ cellsNat s (fun i => hostKey (i % 2 ^ 64)) 8 = 0x1000)
    ∧ ((l s).words = oneCoreRec ∧ recReason s (l s) 0 none = 0 ∧ (getDie s 0).pend.length < 256) ∧ recReason bad (l bad) 0 none ≠ 0
    ∧ (bits (bar ran 0x001000) 0 1 ≠ 1) ∧ (∀ q ∈ (getDie s 0).pend, q.host = none)
    ∧ (let held := { words := oneCoreRec.set 16 0x100 : Launch }; recHtab held ≠ 0 ∧ htabFar held = false ∧ recReason s held 0 none = 0)
    ∧ (∃ q ∈ (getDie (setDie s 0 { pend := [{ queuedRec 0x00031001 with host := some 0 }] }) 0).pend, q.host ≠ none)
    ∧ 256 ≤ (getDie (setDie s 0 { pend := List.replicate 256 (queuedRec 0x00031001) }) 0).pend.length := by
  refine ⟨?_, ?_, ?_, ?_, ?_, ?_, ?_, ?_⟩ <;> decide +kernel

/-- An empty flash image fails the first check. -/
theorem test_meets_ImagesAreVerifiedAndRun_states :
    (bootState State.reset = 0 ∧ bootState ran = 4 ∧ (∀ n ≤ 3, bootState (setBootState State.reset n) = n) ∧ memInv (setBootState State.reset 3) ∧ State.reset.flash = []) ∧ (([] : List Byte).getD 0 0 ≠ magic.getD 0 0)
    ∧ (bootState (setBootState State.reset 5) = 5 ∧ (setBootState State.reset 5).recov = none)
    ∧ (bits (bar (setBar State.reset 0x002000 1) 0x002000) 0 1 = 1 ∧ bits (bar State.reset 0x002000) 0 1 = 0) := by
  unfold memInv
  refine ⟨?_, ?_, ?_, ?_⟩ <;> decide +kernel

theorem natOfBytes_bytesOfNat (k n : Nat) : natOfBytes (bytesOfNat k n) = n % 2 ^ (8 * k) := by
  induction k generalizing n with
  | zero => simp [natOfBytes, bytesOfNat]; omega
  | succ k ih => rw [bytesOfNat, natOfBytes, ih, BitVec.toNat_ofNat, show 8 * (k + 1) = 8 + 8 * k by omega, Nat.pow_add, Nat.mod_mul]
/-- The first 256 bytes of an image of no body, of the highest version. -/
def imageHead : List Byte := magic ++ List.replicate 4 0 ++ [0xFF] ++ List.replicate 243 0
/-- That image with the given DIGEST and signature. -/
def image (d r s : BitVec 384) : List Byte :=
  imageHead ++ (bytesOfNat 48 d.toNat ++ (bytesOfNat 48 r.toNat ++ (bytesOfNat 48 s.toNat ++ List.replicate 112 0)))

theorem image_number (d r s : BitVec 384) : natOfBytes (((image d r s).drop 0x100).take 48) = d.toNat
    ∧ natOfBytes (((image d r s).drop 0x130).take 48) = r.toNat ∧ natOfBytes (((image d r s).drop 0x160).take 48) = s.toNat := by
  have h : ∀ x : BitVec 384, natOfBytes (bytesOfNat 48 x.toNat) = x.toNat := fun x => by
    rw [natOfBytes_bytesOfNat]; exact Nat.mod_eq_of_lt x.isLt
  exact ⟨(congrArg natOfBytes (by rfl)).trans (h d), (congrArg natOfBytes (by rfl)).trans (h r), (congrArg natOfBytes (by rfl)).trans (h s)⟩

theorem length_bytesOfNat (k n : Nat) : (bytesOfNat k n).length = k := by
  induction k generalizing n with
  | zero => rfl
  | succ k ih => rw [bytesOfNat, List.length_cons, ih]

theorem length_imageHead : imageHead.length = 256 := by decide +kernel

theorem image_head (d r s : BitVec 384) (i : Nat) (h : i < 256) : (image d r s).getD i 0 = imageHead.getD i 0 := by
  rw [List.getD_eq_getElem?_getD, List.getD_eq_getElem?_getD, image, List.getElem?_append_left (by rw [length_imageHead]; exact h)]

theorem image_tail (d r s : BitVec 384) (i : Nat) (h : 400 ≤ i) : (image d r s).getD i 0 = 0 := by
  have e : image d r s = (imageHead ++ bytesOfNat 48 d.toNat ++ bytesOfNat 48 r.toNat ++ bytesOfNat 48 s.toNat) ++ List.replicate 112 0 := by
    simp only [image, List.append_assoc]
  have l : (imageHead ++ bytesOfNat 48 d.toNat ++ bytesOfNat 48 r.toNat ++ bytesOfNat 48 s.toNat).length = 400 := by
    simp only [List.length_append, length_bytesOfNat, length_imageHead]
  rw [e, List.getD_eq_getElem?_getD, List.getElem?_append_right (by omega), l, List.getElem?_replicate]
  split <;> rfl

/-- Whatever the digest and signature functions and the fused version are, this image has sound fields, the length 512 of no body and
the highest version, so that its DIGEST and its signature alone decide: it fails check 3 where DIGEST is another than that of
`imageHead`, else check 4 or none. -/
theorem test_meets_ImagesAreVerifiedAndRun_images (d r s : BitVec 384) (t : State) : let img := image d r s; let num := fun (o n : Nat) => natOfBytes ((img.drop o).take n); let len := num 8 4
    (∀ i < 8, img.getD i 0 = magic.getD i 0) ∧ (∀ i < 512, (0xD ≤ i ∧ i < 0x100) ∨ 0x190 ≤ i → img.getD i 0 = 0) ∧ len ≤ 2 ^ 25 ∧ img.length = 512 + len
    ∧ img.take 256 ++ (img.drop 512).take len = imageHead ∧ BitVec.ofNat 384 (num 0x100 48) = d ∧ BitVec.ofNat 384 (num 0x130 48) = r ∧ BitVec.ofNat 384 (num 0x160 48) = s
    ∧ ¬ num 0xC 1 < bits (bar t 0) 24 8 := by
  obtain ⟨h1, h2, h3⟩ := image_number d r s
  have hl : natOfBytes (((image d r s).drop 8).take 4) = 0 := rfl
  have hv : natOfBytes (((image d r s).drop 0xC).take 1) = 255 := rfl
  refine ⟨fun i h => ?_, fun i h k => ?_, ?_, ?_, ?_, ?_, ?_, ?_, ?_⟩
  · rw [image_head _ _ _ _ (by omega)]; revert i; decide +kernel
  · rcases k with k | k
    · rw [image_head _ _ _ _ k.2]; revert i; decide +kernel
    · exact image_tail _ _ _ _ k
  · show natOfBytes (((image d r s).drop 8).take 4) ≤ 2 ^ 25; rw [hl]; decide
  · show (image d r s).length = 512 + natOfBytes (((image d r s).drop 8).take 4); rw [hl]; simp only [image, List.length_append, length_bytesOfNat, List.length_replicate, length_imageHead]
  · dsimp only; rw [hl, List.take_zero, List.append_nil]; exact List.take_left' length_imageHead
  · dsimp only; rw [h1, BitVec.ofNat_toNat, BitVec.setWidth_eq]
  · dsimp only; rw [h2, BitVec.ofNat_toNat, BitVec.setWidth_eq]
  · dsimp only; rw [h3, BitVec.ofNat_toNat, BitVec.setWidth_eq]
  · dsimp only; rw [hv]; unfold bits; have := Nat.mod_lt ((bar t 0).toNat / 2 ^ 24) (show 0 < 2 ^ 8 by decide); omega
theorem test_meets_ResetPowerScrubsAndWalks :
    let leaf : Page := { size := 2 ^ 30, pa := 0, ent := 3 }; let va := 2 ^ 40; let temp := fun (n : Nat) => Vector.replicate 16 (BitVec.ofNat 16 n); let a : Acc := { core := 0, priv := true, kind := .load }
    let s := { withLaunch ran (fun x => { x with ptroot := 0x1000 }) with mem := msetAll [] [(dramKey (0x1000 + 16), 1), (dramKey (0x1000 + 17), 0x20), (dramKey 0x2000, 3)] }
    ((launchOf s 0).isSome = true ∧ (launchRec s 0).ptroot = 0x1000 ∧ s.tlb = [] ∧ walkBy s a 0x1000 va = .page leaf ∧ walkBy s a 0x1000 (va + 2 ^ 30) = .fault)
    ∧ (bootState s = 4 ∧ bootState State.reset ≠ 4) ∧ (1840 ≤ ((temp 1840).toList.getD 0 0).toInt ∧ ¬ 1520 ≤ ((temp 1519).toList.getD 0 0).toInt ∧ 1441 ≤ ((temp 1441).toList.getD 0 0).toInt)
    ∧ ((getDie s 0).row = 0 ∧ (getDie (setDie s 0 { row := 1, cool := some 0 }) 0).cool = some 0 ∧ 0 + 10000000 ≤ nowNs { s with cycle := 33000000 } ∧ ¬ 0 + 10000000 ≤ nowNs s)
    ∧ ((∃ m rest, (getQ (holding .cpe (cmd (word [(0, 0x20)]) 1)) 0 .cpe).cmds = m :: rest) ∧ launchOf ran 0 = some 0 ∧ (getLaunch ran 0).first = none ∧ launchOf ran 1 = none)
    ∧ (sliceKey 0 0 ∉ ran.poison ∧ sliceKey 0 0 ∉ ran.soft ∧ 4607 < 4608 ∧ 2 ^ 15 - 1 < 2 ^ 15) := by
  refine ⟨?_, ?_, ?_, ?_, ⟨⟨_, _, rfl⟩, ?_⟩, ?_⟩ <;> decide +kernel

end Sys2Proof.Tests
end

section
/-!
PROOFS. The scalar and control instructions of section 09: integer arithmetic, fields, immediates and literals, branches and jumps, and
traps.
-/
namespace Sys2Proof.Machine

/-! ## The integer operations as the statements write them (R212, R213) -/

/-- Bits [2n-1:n] of a number held in 2n bits: its floored quotient by 2^n, in n bits. -/
theorem setWidth_ushiftRight_ofInt (n : Nat) (z : Int) :
    ((BitVec.ofInt (n + n) z) >>> n).setWidth n = BitVec.ofInt n (z / 2 ^ n) := by
  apply BitVec.eq_of_toNat_eq
  have hP : (0 : Int) < 2 ^ n := by positivity
  have hz : z / 2 ^ n = z % (2 ^ n * 2 ^ n) / 2 ^ n + 2 ^ n * (z / (2 ^ n * 2 ^ n)) := by
    rw [← Int.add_mul_ediv_left _ _ hP.ne', ← mul_assoc, Int.emod_add_mul_ediv]
  have hr : ((z % (2 ^ n * 2 ^ n)).toNat : Int) = z % (2 ^ n * 2 ^ n) := Int.toNat_of_nonneg (Int.emod_nonneg _ (by positivity))
  zify
  simp only [BitVec.toNat_setWidth, BitVec.toNat_ushiftRight, BitVec.toNat_ofInt, Nat.shiftRight_eq_div_pow, Nat.pow_add]
  push_cast
  rw [hr, hz, Int.add_mul_emod_self_left, Int.toNat_of_nonneg (Int.emod_nonneg _ hP.ne')]

/-- MULH as the high half of the product of the sign-extended operands (R212). -/
theorem opMulh_eq {n : Nat} (x y : BitVec n) :
    opMulh x y = ((x.signExtend (n + n) * y.signExtend (n + n)) >>> n).setWidth n := by
  unfold BitVec.signExtend
  rw [← BitVec.ofInt_mul, setWidth_ushiftRight_ofInt]
  rfl

/-- MULHU as the high half of the product of the zero-extended operands (R212). -/
theorem opMulhu_eq {n : Nat} (x y : BitVec n) :
    opMulhu x y = ((x.setWidth (n + n) * y.setWidth (n + n)) >>> n).setWidth n := by
  have h : x.setWidth (n + n) * y.setWidth (n + n) = BitVec.ofInt (n + n) (x.toNat * y.toNat) := by
    rw [BitVec.ofInt_mul, BitVec.ofInt_natCast, BitVec.ofInt_natCast, BitVec.ofNat_toNat, BitVec.ofNat_toNat]
  rw [h, setWidth_ushiftRight_ofInt, opMulhu, ← BitVec.ofInt_natCast]
  push_cast; rfl

/-- The quotient of the signed values, truncated toward zero, is SDIV of bit vectors in every case. -/
theorem ofInt_tdiv {n : Nat} (x y : BitVec n) : BitVec.ofInt n (x.toInt.tdiv y.toInt) = x.sdiv y :=
  BitVec.eq_of_toInt_eq (by rw [BitVec.toInt_ofInt, BitVec.toInt_sdiv])

/-- DIV with its two exceptions as R213 lists them; the second needs no case of its own, for the quotient wraps. -/
theorem opDiv_eq {n : Nat} (x y : BitVec n) :
    opDiv x y = if y = 0 then BitVec.allOnes n else if x = BitVec.intMin n ∧ y = -1 then x else x.sdiv y := by
  unfold opDiv
  rw [ofInt_tdiv]
  split
  · rfl
  · split
    · rename_i h
      obtain ⟨rfl, rfl⟩ := h
      exact BitVec.intMin_sdiv_neg_one
    · rfl

/-- The truncated remainder is what the truncated quotient leaves. -/
theorem ofInt_tmod {n : Nat} (x y : BitVec n) : BitVec.ofInt n (x.toInt.tmod y.toInt) = x - x.sdiv y * y := by
  rw [Int.tmod_def, Int.sub_eq_add_neg, BitVec.ofInt_add, BitVec.ofInt_neg, BitVec.ofInt_mul, ofInt_tdiv, BitVec.ofInt_toInt,
    BitVec.ofInt_toInt, BitVec.mul_comm, BitVec.sub_eq_add_neg]

/-- REM as x less the quotient times y (R213). -/
theorem opRem_eq {n : Nat} (x y : BitVec n) :
    opRem x y = if y = 0 then x else if x = BitVec.intMin n ∧ y = -1 then 0 else x - x.sdiv y * y := by
  unfold opRem
  rw [ofInt_tmod]
  split
  · rfl
  · split
    · rename_i h
      obtain ⟨rfl, rfl⟩ := h
      calc BitVec.intMin n - (BitVec.intMin n).sdiv (-1#n) * -1#n
          = BitVec.intMin n - -BitVec.intMin n := by rw [BitVec.intMin_sdiv_neg_one, BitVec.mul_neg, BitVec.mul_one]
        _ = 0 := by rw [BitVec.neg_intMin, BitVec.sub_self]; rfl
    · rfl

/-- REMU as x less the unsigned quotient times y (R213). -/
theorem opRemu_eq {n : Nat} (x y : BitVec n) :
    opRemu x y = if y = 0 then x else x - BitVec.ofNat n (x.toNat / y.toNat) * y := by
  have h : BitVec.ofNat n (x.toNat % y.toNat) + BitVec.ofNat n (x.toNat / y.toNat) * y = x := by
    apply BitVec.eq_of_toNat_eq
    have hx := Nat.mod_add_div' x.toNat y.toNat
    simp only [BitVec.toNat_add, BitVec.toNat_mul, BitVec.toNat_ofNat, Nat.add_mod_mod, Nat.mod_add_mod, Nat.mod_mul_mod, hx]
    exact Nat.mod_eq_of_lt x.isLt
  unfold opRemu
  split
  · rfl
  · exact BitVec.eq_sub_iff_add_eq.mpr h

/-- A two-operand instruction under the width W (R211), from what its operation gives at each of the two widths. -/
theorem writesS_widthOp2 {i : Instr} {s : State} {d a b : Reg} {w : Bool} {f : {n : Nat} → BitVec n → BitVec n → BitVec n} {r : Word}
    {q : Word32} (h : exec i s = putS i s d (widthOp2 w f (sreg s a) (sreg s b))) (hl : lenOf i = 4) (hr : f (sreg s a) (sreg s b) = r)
    (hq : f ((sreg s a).setWidth 32) ((sreg s b).setWidth 32) = q) : writesS i s 4 d (byWidth w r q) := by
  have hv : widthOp2 w f (sreg s a) (sreg s b) = byWidth w r q := by rw [← hr, ← hq]; rfl
  rw [← hl, ← hv]
  exact writesS_of_putS h

/-- Settles O8: every instruction of the list writes s[d] by `widthOp2`, and its operation is, at both widths, what R212 and R213
say. -/
theorem scalarArithmetic : Obligations.ScalarArithmetic :=
  ⟨fun _ _ _ _ _ => ⟨writesS_widthOp2 rfl rfl rfl rfl, writesS_widthOp2 rfl rfl rfl rfl, writesS_widthOp2 rfl rfl rfl rfl,
      writesS_widthOp2 rfl rfl (opMulh_eq _ _) (opMulh_eq _ _), writesS_widthOp2 rfl rfl (opMulhu_eq _ _) (opMulhu_eq _ _)⟩,
    fun _ _ _ _ _ => ⟨writesS_widthOp2 rfl rfl (opDiv_eq _ _) (opDiv_eq _ _), writesS_widthOp2 rfl rfl (opRem_eq _ _) (opRem_eq _ _),
      writesS_widthOp2 rfl rfl rfl rfl, writesS_widthOp2 rfl rfl (opRemu_eq _ _) (opRemu_eq _ _)⟩⟩

/-! ## Fields, immediates and literals as the statements write them -/

/-- The bit field of EXT is the shifted word cut to `l` + 1 bits and extended: its sign is the bit that the division by 2^l leaves (R214). -/
theorem extField_eq (x : Word) (sh : Nat) (sx : Bool) (l : BitVec 6) :
    extField x sh sx l = if sx then ((x >>> sh).setWidth (l.toNat + 1)).signExtend 64 else ((x >>> sh).setWidth (l.toNat + 1)).setWidth 64 := by
  generalize hf : (x >>> sh).setWidth (l.toNat + 1) = f
  have hn : x.toNat / 2 ^ sh % 2 ^ (l.toNat + 1) = f.toNat := by
    rw [← hf, BitVec.toNat_setWidth, BitVec.toNat_ushiftRight, Nat.shiftRight_eq_div_pow]
  have hm : f.toNat / 2 ^ l.toNat = 1 ↔ f.msb = true := by
    have hlt := f.isLt
    rw [BitVec.msb_eq_decide, decide_eq_true_iff, Nat.add_sub_cancel, Nat.div_eq_iff (by positivity)]
    omega
  unfold extField
  simp only [hn, hm]
  cases sx with
  | false => simp [BitVec.ofNat_toNat]
  | true =>
    rw [BitVec.signExtend, BitVec.toInt_eq_msb_cond]
    cases f.msb <;> simp [BitVec.ofNat_toNat]

theorem toNat_setWidth_mod_64 (n : BitVec 6) : (n.setWidth 64).toNat % 64 = n.toNat := by
  have := n.isLt
  rw [BitVec.toNat_setWidth]
  omega

theorem ofNat_words_eq_append (hi lo : Word32) : BitVec.ofNat 64 (hi.toNat * 2 ^ 32 + lo.toNat) = hi ++ lo := by
  apply BitVec.eq_of_toNat_eq
  have := hi.isLt
  have := lo.isLt
  rw [BitVec.toNat_append, BitVec.toNat_ofNat, Nat.shiftLeft_eq, Nat.mod_eq_of_lt (by omega), Nat.mul_comm, Nat.two_pow_add_eq_or_of_lt lo.isLt]

theorem opSltu_eq {n : Nat} (x y : BitVec n) : opSltu x y = if x < y then 1 else 0 := by
  simp only [opSltu, BitVec.lt_def]

/-! ## Writing a predicate register -/

/-- An instruction that leaves its context with p[d] written. -/
theorem writesP_of_setPreg {i : Instr} {s : State} {d : PReg} {v : BitVec 16} (h : exec i s = finish i (.ok (setPreg s d v))) :
    writesP i s (lenOf i) d v := by
  obtain ⟨t, ht, hturn, hregs, hseq⟩ := leaves_of_ok h (by simp) (by simp) (by simp) (by simp) (by simp)
  refine ⟨t, ht, hturn, hseq, fun r => ?_, ?_⟩
  · rw [← pread_pwrite, ← hregs]; rfl
  · refine Eq.trans ?_ ((congrArg (fun c : Ctx => { c with p := (cur s).p, pd := (cur s).pd }) hregs).trans ?_)
    · simp only [pwrite_pc, pwrite_lc, pwrite_ls, pwrite_le, pwrite_ldepth, pwrite_answers, pwrite_farTag, pwrite_wait,
        pwrite_vd, pwrite_sd, pwrite_kd]
    · unfold pwrite; split <;> rfl

/-- `writesS_of_putS` with the length and the value in the words of a statement. -/
theorem writesS_of_putS_eq {i : Instr} {s : State} {len : Nat} {d : Reg} {v r : Word} (h : exec i s = putS i s d v) (hl : lenOf i = len)
    (hr : v = r) : writesS i s len d r := by
  rw [← hl, ← hr]
  exact writesS_of_putS h

/-- Settles O10: one rule for what is written to s[d], one for p[d], and the values of EXT, SLTUI, ADDIW, the shifts and LID read as the
spec writes them. -/
theorem fieldsImmediatesAndLiterals : Obligations.FieldsImmediatesAndLiterals :=
  ⟨fun _ _ _ _ _ _ _ _ => ⟨writesS_of_putS_eq rfl rfl (extField_eq _ _ _ _), writesS_of_putS rfl, writesS_of_putS rfl, writesP_of_setPreg rfl⟩,
    fun _ _ _ _ n _ l1 l2 =>
      have hsh := toNat_setWidth_mod_64 n
      ⟨writesS_of_putS rfl, writesS_of_putS rfl, writesS_of_putS rfl, writesS_of_putS rfl, writesS_of_putS rfl,
      writesS_of_putS_eq rfl rfl (opSltu_eq _ _),
      writesS_of_putS_eq rfl rfl (congrArg (BitVec.signExtend 64) (BitVec.setWidth_add _ _ (by decide)).symm),
      writesS_of_putS_eq rfl rfl (congrArg _ hsh), writesS_of_putS_eq rfl rfl (congrArg _ hsh),
      writesS_of_putS_eq rfl rfl (congrArg _ hsh), writesS_of_putS rfl, writesS_of_putS rfl,
      writesS_of_putS_eq rfl rfl (ofNat_words_eq_append l2 l1)⟩⟩

/-! ## Control transfers -/

/-- A context whose instruction has transferred control to `t`. -/
def transferred (c : Ctx) (t : Word) : Ctx := { c with pc := t, answers := [], farTag := none, wait := none }

theorem endState_jump (i : Instr) (s : State) (t : Word) : endState i (.jump s t) = setCur s (transferred (cur s) t) := rfl

theorem jumpsTo_of_transferred {i : Instr} {s : State} {d : Reg} {v t : Word}
    (h : exec i s = .next (setCur s (transferred (swrite (cur s) d v) t))) : jumpsTo i s d v t := by
  refine ⟨_, h, onlyTurn_setCur _ _, ?_⟩
  have hc : getCtx (setCur s (transferred (swrite (cur s) d v) t)) s.turn = transferred (swrite (cur s) d v) t := cur_setCur _ _
  rw [hc]
  refine ⟨⟨rfl, by simp [transferred]⟩, fun r => ?_, ?_⟩
  · rw [← sread_swrite]; rfl
  · unfold sameRegs swrite; split <;> rfl

/-- A control transfer that writes a link. -/
theorem jumpsTo_of_link {i : Instr} {s : State} {d : Reg} {v t : Word} (h : exec i s = finish i (.jump (setSreg s d v) t)) :
    jumpsTo i s d v t :=
  jumpsTo_of_transferred (h.trans (by rw [finish_eq, endState_jump, setSreg, cur_setCur, setCur_setCur]))

/-- A control transfer that writes no register: a write to s0 is none. -/
theorem jumpsTo_of_jump {i : Instr} {s : State} {t : Word} (h : exec i s = finish i (.jump s t)) : jumpsTo i s 0 0 t :=
  jumpsTo_of_transferred h

/-- An instruction that completes and changes nothing. -/
theorem leaves_of_unchanged {i : Instr} {s : State} (h : exec i s = finish i (.ok s)) : leaves i s (lenOf i) (cur s) :=
  leaves_of_ok (h.trans (by simp [finish_eq])) rfl rfl rfl rfl rfl

/-- A branch (R218), by its condition. -/
theorem branch_spec {i : Instr} {s : State} {o : BitVec 14} {b : Bool} {c : Prop} (h : exec i s = branch i s o b) (hl : lenOf i = 4)
    (hc : b = true ↔ c) : (c → jumpsTo i s 0 0 ((cur s).pc + 4 * o.signExtend 64)) ∧ (¬ c → leaves i s 4 (cur s)) := by
  have ht : branchTo s o = (cur s).pc + 4 * o.signExtend 64 := by rw [branchTo, BitVec.mul_comm]
  rw [← hc, ← ht, ← hl]
  refine ⟨fun hb => jumpsTo_of_jump (h.trans ?_), fun hb => leaves_of_unchanged (h.trans ?_)⟩
  · rw [branch, if_pos hb]
  · rw [branch, if_neg hb]

/-- JALR (R219), by the alignment of its target. -/
theorem jalr_spec (s : State) (d a : Reg) (m : BitVec 16) :
    ((sreg s a + m.signExtend 64).toNat % 4 = 0 → jumpsTo (.jalr d a m) s d ((cur s).pc + 4) (sreg s a + m.signExtend 64))
    ∧ ((sreg s a + m.signExtend 64).toNat % 4 ≠ 0 → traps (.jalr d a m) s 0x03 (sreg s a + m.signExtend 64)) :=
  ⟨fun h => jumpsTo_of_link (congrArg (finish _) (if_neg (not_not.mpr h))),
    fun h => congrArg (finish (.jalr d a m)) (if_pos h)⟩

/-- Settles O11: `branch_spec` for each condition, `jumpsTo_of_link` for the jumps. -/
theorem branchesAndJumps : Obligations.BranchesAndJumps := by
  refine ⟨fun s a b p q o => ⟨branch_spec rfl rfl decide_eq_true_iff, branch_spec rfl rfl decide_eq_true_iff,
    branch_spec rfl rfl decide_eq_true_iff, branch_spec rfl rfl decide_eq_true_iff, branch_spec rfl rfl decide_eq_true_iff,
    branch_spec rfl rfl decide_eq_true_iff, branch_spec rfl rfl Iff.rfl, branch_spec rfl rfl (Bool.not_eq_true' _ ▸ Iff.rfl),
    branch_spec rfl rfl decide_eq_true_iff, branch_spec rfl rfl decide_eq_true_iff⟩, fun s d a o m => ⟨?_, jalr_spec s d a m⟩⟩
  rw [BitVec.mul_comm 4]
  exact jumpsTo_of_link rfl

/-! ## Bytes of a spilled message -/

/-- Cells written one by one read back as what was written, in order. -/
theorem map_mget_msetAll (m : Memory) (keys : List Nat) (bs : List Byte) (hn : keys.Nodup) (hl : bs.length = keys.length) :
    keys.map (mget (msetAll m (keys.zip bs))) = bs := by
  induction keys generalizing m bs with
  | nil => exact (List.length_eq_zero_iff.mp hl).symm
  | cons k ks ih =>
    obtain ⟨b, bs, rfl⟩ := List.exists_cons_of_length_eq_add_one hl
    obtain ⟨hk, hks⟩ := List.nodup_cons.mp hn
    have hm : msetAll m ((k :: ks).zip (b :: bs)) = msetAll (mset m k b) (ks.zip bs) := rfl
    have hhead : mget (msetAll (mset m k b) (ks.zip bs)) k = b := by
      rw [mget_msetAll_of_notMem, mget_mset, if_pos rfl]
      rintro ⟨j, c⟩ hc rfl
      exact hk (List.of_mem_zip hc).1
    rw [hm, List.map_cons, hhead, ih _ _ hks (by simpa using hl)]

theorem spillCells_nodup (s : State) (k slot : Nat) : (spillCells s k slot).Nodup :=
  List.nodup_range.map fun i j h => by simpa [sliceKey] using h

/-! ## Spilled messages that settle (R255) -/

/-- No more spilled messages and no refused ones: nothing settles. -/
theorem settleOne_of_empty {s : State} {k : Nat} (hs : (getCore s k).spill = []) (hr : (getCore s k).refused = []) : settleOne s k = none := by
  simp only [settleOne, hs, hr, ite_self, lfind]

theorem settleLoop_of_none {s : State} {k : Nat} (n : Nat) (h : settleOne s k = none) : settleLoop n s k = s := by
  cases n with
  | zero => rfl
  | succ n => rw [settleLoop, h]

theorem startMsg_cores (s : State) (k : Nat) (m : Msg) : (startMsg s k m).cores = s.cores := by
  unfold startMsg
  split <;> rfl

/-- One whole spilled message that may start, where START does not wait and nothing is refused: it starts, and that is all (R255). -/
theorem settleSpill_of_single {s : State} {k : Nat} {e : SpillEnt} (hs : (getCore s k).spill = [e]) (hr : (getCore s k).refused = [])
    (hw : startWaits s k = false) (he : e.compl = false) (hb : spillWhole s k e = true) (hm : mayStart s k e.msg.cls = true) :
    settleSpill s k = startMsg (spillDel s k 0) k e.msg := by
  have hmsg : spillMsg s k e = e.msg := if_pos hb
  have hleave : mayLeave s k e = true := by simp [mayLeave, hmsg, he, hm]
  have hone : settleOne s k = some (startMsg (spillDel s k 0) k e.msg) := by
    simp [settleOne, hw, hs, lfind, hleave, hmsg, hm]
  have hcore : getCore (startMsg (spillDel s k 0) k e.msg) k = { getCore s k with spill := [] } := by
    unfold getCore
    rw [startMsg_cores]
    exact (getCore_setCore_same _ _ _).trans (by rw [hs]; rfl)
  have hnone : settleOne (startMsg (spillDel s k 0) k e.msg) k = none :=
    settleOne_of_empty (by rw [hcore]) (by rw [hcore]; exact hr)
  rw [settleSpill, settleLoop, hone]
  exact settleLoop_of_none _ hnone

/-- The bytes put at the place of a spilled message stand there: no store has changed them. -/
theorem spillWhole_of_mem {s : State} {k : Nat} {e : SpillEnt} {m : Memory}
    (h : s.mem = msetAll m ((spillCells s k e.slot).zip ((List.range 64).map (fun i => Config.freeByte e.tag i)))) : spillWhole s k e = true := by
  rw [spillWhole, spillBytes, h, map_mget_msetAll _ _ _ (spillCells_nodup s k e.slot) (by simp [spillCells])]
  exact beq_self_eq_true _

/-! ## What a trap leaves unchanged -/

theorem faultLaunch_ctxs (s : State) (l : Nat) (f : FaultRec) : (faultLaunch s l f).ctxs = s.ctxs := by
  have tells : ∀ (ns : List Nat) (st : State),
      (ns.foldl (fun st n => if n = myNode s then st else sendPacket st (some l) (mkPacket st 0 n 0 (.faultNotice l f))) st).ctxs = st.ctxs := by
    intro ns
    induction ns with
    | nil => intro st; rfl
    | cons n ns ih =>
      intro st
      rw [List.foldl_cons, ih]
      split
      · rfl
      · exact sendPacket_ctxs _ _ _ _
  unfold faultLaunch
  dsimp only
  split
  · rfl
  · split
    · exact tells _ _
    · exact sendPacket_ctxs _ _ _ _

theorem raiseFault_ctxs (s : State) (x cause : Nat) (fva : Word) : (raiseFault s x cause fva).ctxs = s.ctxs := by
  unfold raiseFault
  split
  · exact faultLaunch_ctxs _ _ _
  · rfl

/-- A trap taken, or the fault in its place, changes no other context. -/
theorem getCtx_takeTrap_ne (s : State) {x y : Nat} (ret : Word) (cause : Nat) (val : Word) (h : y ≠ x) :
    getCtx (takeTrap s x ret cause val) y = getCtx s y := by
  rcases takeTrap_cases s x ret cause val with ⟨-, ht⟩ | ⟨-, -, ht⟩
  · rw [ht, getCtx, raiseFault_ctxs, getCtx]
  · rw [ht, getCtx_setCtx_ne _ _ h]

/-! ## A START woken when a deferred trap is due -/

/-- One core with a launch, every class with a handler at 0x1000 that admits one helper (R384). -/
def startHandled : State :=
  let s := State.reset.withFetchWord 0 0
  setCore s 0 { getCore s 0 with hand := Vector.replicate 20 0x8040000000001000 }

/-- A message of class 5 without arguments. -/
def waitingMsg : Msg :=
  { cls := 5, rel := false, spilled := true, src := 0, a0 := 0, a1 := 0, a2 := 0, a3 := 0, job := 0 }

/-- The message is spilled; the control context waits in START, whose helpers have become FREE, and holds a deferred trap. -/
def startBlocked : State :=
  let s := spillPut startHandled 0 false waitingMsg
  setCtx s 0 { getCtx s 0 with st := .blocked, wait := some .start, tvec := 0x100, held := [{ cause := 5, tval := 0 }] }

/-- The issue of that control context: it is READY, and still has what it waited for. -/
def startWoken : State := issueOf startBlocked 0

/-- The machine comes to `startWoken` by itself: where START can go on, the issue of its context takes the deferred trap there. -/
theorem runCtx_startBlocked : runCtx startBlocked 0 = onNext (afterIssue 0) (exec (.deferredTrapEntry 0) startWoken) := rfl

/-- The bytes of a message put into the spill area, at the place it gets. -/
theorem spillPut_mem (s : State) (k : Nat) (compl : Bool) (m : Msg) {n : Nat}
    (hn : ((List.range (spillCap s k)).map (fun j => ((getCore s k).spillAt + j) % spillCap s k)).find?
      (fun j => !(getCore s k).spill.any (fun e => e.slot == j)) = some n) :
    (spillPut s k compl m).mem = msetAll s.mem ((spillCells s k n).zip ((List.range 64).map (fun i => Config.freeByte s.nonce i))) := by
  simp only [spillPut, hn, Option.getD_some, setCore_mem, putCells]

/-- The spilled message has started on helper 1 before the trap of the control context is entered. -/
theorem startWoken_settles : (getCtx (settleSpill (abandon startWoken 0) 0) 1).st = .ready := by
  have hwhole : spillWhole (abandon startWoken 0) 0 { compl := false, msg := waitingMsg, slot := 0, tag := 0 } = true := by
    refine spillWhole_of_mem (m := startHandled.mem) ?_
    have h1 : (abandon startWoken 0).mem = (spillPut startHandled 0 false waitingMsg).mem := rfl
    have h2 : spillCells (abandon startWoken 0) 0 0 = spillCells startHandled 0 0 := rfl
    rw [h1, h2]
    exact spillPut_mem startHandled 0 false waitingMsg rfl
  rw [settleSpill_of_single (e := { compl := false, msg := waitingMsg, slot := 0, tag := 0 }) rfl rfl rfl rfl hwhole rfl]
  rfl

/-- A deferred trap taken in a context that START has left with its wait: other contexts are as the settling of the spilled messages leaves
them. -/
theorem getCtx_takeDeferred_of_start {s : State} {x y : Nat} {d : Deferred} {rest : List Deferred} (hheld : (getCtx s x).held = d :: rest)
    (ht : (getCtx s x).t = false) (hst : (getCtx s x).st = .ready) (hw : (getCtx s x).wait = some .start) (hy : y ≠ x) :
    getCtx (takeDeferred s x) y = getCtx (settleSpill (abandon s x) (coreOf x)) y := by
  simp [takeDeferred, hheld, ht, hst, hw, getCtx_takeTrap_ne _ _ _ _ hy, getCtx_setCtx_ne _ _ hy]

/-- Refutes O15: its clause on deferred traps (R172) says that no other context changes for every context that is READY, also for one that
has just left a wait in START. In `startWoken` the trap abandons that START, so the spilled message behind it starts helper 1, which
was FREE (R255). -/
theorem not_traps : ¬ Obligations.Traps := by
  intro ⟨_, _, _, hdeferred⟩
  have hhandler : handlerAt startWoken 0 0x100 := ⟨rfl, rfl, rfl, by decide⟩
  obtain ⟨t, ht, -, -, -, -, -, -, -, -, -, hothers, -⟩ :=
    (hdeferred startWoken 0 { cause := 5, tval := 0 } [] 0x100 0 0 0 hhandler).1 rfl rfl (by decide)
  have htaken : takeDeferred startWoken 0 = t := Host.Outcome.next.inj ht
  have hfree : (getCtx t 1).st = .free := by rw [hothers 1 (by decide)]; rfl
  have hready : (getCtx t 1).st = .ready := by
    rw [← htaken, getCtx_takeDeferred_of_start rfl rfl rfl rfl (by decide)]
    exact startWoken_settles
  exact absurd (hfree.symm.trans hready) (by decide)

end Sys2Proof.Machine
end
